-- ==== Sys2Proof/Word.lean ====
section
/-! DEFINITION. The machine's words, its byte memories and its sparse tables (R2, R3: bit 0 is least significant). -/

namespace Sys2Proof

/-- A byte of memory. -/
abbrev Byte := BitVec 8
/-- A 32-bit word. -/
abbrev W32 := BitVec 32
/-- A 64-bit word: a temporary, a frame slot, a token's value, an instruction word. -/
abbrev W64 := BitVec 64

/-- A byte memory: (address, byte) pairs, addresses strictly rising, no listed byte zero. -/
abbrev Memory := List Host.Cell

/-- A sparse table: (key, value) pairs, keys strictly rising. -/
abbrev Table (α : Type) := List (Nat × α)

end Sys2Proof
end

