-- ==== Sys2Proof/Machine/Bits.lean ====
section
/-! DEFINITION. Bit fields, little-endian bytes, byte memories and sparse tables: the plain helpers every other file
of the model uses. -/

namespace Sys2Proof

/-- The field of `w` bits that starts at bit `lo`. -/
def bits (x lo w : Nat) : Nat := (x >>> lo) % 2 ^ w

/-- Bit `i`. -/
def bitAt (x i : Nat) : Bool := x.testBit i

/-- A Bool as a bit. -/
def b2n (b : Bool) : Nat := if b then 1 else 0

/-- `x` read as a two's-complement number of `w` bits. -/
def sext (w x : Nat) : Int :=
  let y := x % 2 ^ w
  if y < 2 ^ (w - 1) then (y : Int) else (y : Int) - (2 ^ w : Nat)

/-- The low `w` bits of an integer, as an unsigned number. -/
def wrapInt (w : Nat) (v : Int) : Nat := (v % ((2 ^ w : Nat) : Int)).toNat

/-- Ceiling division. -/
def cdiv (a b : Nat) : Nat := (a + b - 1) / b

/-- `a` rounded up to a multiple of `b`. -/
def roundUp (a b : Nat) : Nat := cdiv a b * b

/-- The number whose little-endian bytes are given. -/
def leNat : List Byte → Nat
  | [] => 0
  | b :: bs => b.toNat + 256 * leNat bs

/-- The `n` low bytes of a number, little-endian. -/
def natLe : Nat → Nat → List Byte
  | 0, _ => []
  | n + 1, x => BitVec.ofNat 8 x :: natLe n (x / 256)

/-- `n` zero bytes. -/
def zeros (n : Nat) : List Byte := List.replicate n 0

/-- The little-endian number in `n` bytes of a record from offset `o`; bytes past its end read zero. -/
def recNat (r : List Byte) (o n : Nat) : Nat := leNat ((r.drop o).take n)

/-- Every byte of the range is zero. -/
def recZero (r : List Byte) (o n : Nat) : Bool := ((r.drop o).take n).all (· == 0)

/-- Replace the `i`-th element, if there is one. -/
def setAt {α : Type} : List α → Nat → α → List α
  | [], _, _ => []
  | _ :: xs, 0, v => v :: xs
  | x :: xs, i + 1, v => x :: setAt xs i v

/-- Remove the `i`-th element, if there is one. -/
def removeAt {α : Type} : List α → Nat → List α
  | [], _ => []
  | _ :: xs, 0 => xs
  | x :: xs, i + 1 => x :: removeAt xs i

/-- The first element that satisfies `p`, with the list left without it. -/
def takeFirst {α : Type} (p : α → Bool) : List α → Option (α × List α)
  | [] => none
  | x :: xs =>
    if p x then some (x, xs)
    else match takeFirst p xs with
      | some (y, ys) => some (y, x :: ys)
      | none => none

/-- The numbers `a, a + 1, …` of a run of length `n`. -/
def upFrom (a n : Nat) : List Nat := (List.range n).map (a + ·)

/-! ## Sparse tables -/

/-- The value at a key. -/
def Table.find {α : Type} : Table α → Nat → Option α
  | [], _ => none
  | (k, v) :: t, x => if k = x then some v else Table.find t x

/-- The value at a key, or the default. -/
def Table.getD {α : Type} (t : Table α) (x : Nat) (d : α) : α :=
  match Table.find t x with
  | some v => v
  | none => d

/-- Store a value at a key, keeping keys rising. -/
def Table.put {α : Type} : Table α → Nat → α → Table α
  | [], x, v => [(x, v)]
  | (k, w) :: t, x, v =>
    if x < k then (x, v) :: (k, w) :: t
    else if k = x then (x, v) :: t
    else (k, w) :: Table.put t x v

/-- Remove a key. -/
def Table.del {α : Type} (t : Table α) (x : Nat) : Table α := t.filter (fun p => p.1 != x)

/-- Change the value at a key, the default standing for an absent one. -/
def Table.modify {α : Type} (t : Table α) (x : Nat) (d : α) (f : α → α) : Table α :=
  Table.put t x (f (Table.getD t x d))

/-- Keys strictly rising. -/
def Table.sorted {α : Type} : Table α → Bool
  | [] => true
  | [_] => true
  | (a, _) :: (b, w) :: t => decide (a < b) && Table.sorted ((b, w) :: t)

/-! ## Byte memories. An unlisted address reads 0, and no listed byte is 0. -/

/-- One byte. -/
def Memory.get : Memory → Nat → Byte
  | [], _ => 0
  | (k, v) :: t, a => if k = a then v else if a < k then 0 else Memory.get t a

/-- Put a byte before a tail, unless it is zero. -/
def Memory.cons (a : Nat) (b : Byte) (t : Memory) : Memory := if b = 0 then t else (a, b) :: t

/-- Store one byte, keeping the canonical form. -/
def Memory.set : Memory → Nat → Byte → Memory
  | [], a, b => Memory.cons a b []
  | (k, v) :: t, a, b =>
    if a < k then Memory.cons a b ((k, v) :: t)
    else if k = a then Memory.cons a b t
    else (k, v) :: Memory.set t a b

/-- `n` bytes from `a`. -/
def Memory.read (m : Memory) (a : Nat) : Nat → List Byte
  | 0 => []
  | n + 1 => Memory.get m a :: Memory.read m (a + 1) n

/-- Store bytes from `a` upward. -/
def Memory.write (m : Memory) (a : Nat) : List Byte → Memory
  | [] => m
  | b :: bs => Memory.write (Memory.set m a b) (a + 1) bs

/-- Forget every byte of `[lo, hi)`. -/
def Memory.clear (m : Memory) (lo hi : Nat) : Memory := m.filter (fun c => c.1 < lo || hi ≤ c.1)

/-- The bytes listed in `[lo, hi)`. -/
def Memory.within (m : Memory) (lo hi : Nat) : Memory := m.filter (fun c => lo ≤ c.1 && c.1 < hi)

/-- The canonical form: addresses strictly rising, no listed byte zero. -/
def Memory.wf : Memory → Bool
  | [] => true
  | [(_, v)] => v != 0
  | (a, v) :: (b, w) :: t => decide (a < b) && (v != 0) && Memory.wf ((b, w) :: t)

/-- A little-endian number of `n` bytes. -/
def Memory.readNat (m : Memory) (a n : Nat) : Nat := leNat (Memory.read m a n)

/-- Store the low `n` bytes of a number, little-endian. -/
def Memory.writeNat (m : Memory) (a n x : Nat) : Memory := Memory.write m a (natLe n x)

end Sys2Proof
end

