-- ==== Sys2Proof/Machine/Flags.lean ====
section
/-! DEFINITION. The five exception flags of `XFLAGS` (Table 8.10). -/

namespace Sys2Proof

/-- A set of exception flags: IV, DZ, OF, UF, IX from bit 4 down. -/
abbrev Flags := BitVec 5

/-- Nothing raised. -/
def flNone : Flags := 0
/-- Invalid operation. -/
def flIV : Flags := 16
/-- Division by zero. -/
def flDZ : Flags := 8
/-- Overflow. -/
def flOF : Flags := 4
/-- Underflow. -/
def flUF : Flags := 2
/-- Inexact. -/
def flIX : Flags := 1

/-- A flag, raised only if the condition holds. -/
def flWhen (c : Bool) (f : Flags) : Flags := if c then f else 0

/-- The flags of a rounding (R206, R207, R209): overflow of a finite value raises OF and IX, an inexact result IX, and
an inexact result below the smallest normal UF. -/
def flRounded (overflow inexact tiny : Bool) : Flags :=
  if overflow then flOF ||| flIX else flWhen inexact flIX ||| flWhen (inexact && tiny) flUF

/-- One flag operation of a body, applied at commit in program order (R392). -/
inductive FlagOp where
  | raise (f : Flags)
  | assign (f : Flags)
  deriving DecidableEq, Repr

/-- Raised and joined flags are ORed; FLAGS `.set` replaces (R392). -/
def FlagOp.apply (x : Flags) : FlagOp → Flags
  | .raise f => x ||| f
  | .assign f => f

end Sys2Proof
end

