-- ==== Sys2Proof/Machine/Floats.lean ====
section
/-! DEFINITION. Exact values, floating-point formats, rounding and the exact operations (R197 to R213). -/

namespace Sys2Proof

/-- Floating-point formats (Table 8.2, and binary64). -/
inductive FloatFmt where
  | f64 | fp32 | fp16 | bf16 | e4m3 | e5m2 | e3m2 | e2m3 | e2m1
  deriving DecidableEq, Repr, Inhabited

/-- Rounding modes (Table 8.5). -/
inductive RMode where
  | rne | rz | rd | ru | rna | sr
  deriving DecidableEq, Repr, Inhabited

/-- Exponent width. -/
def FloatFmt.ebits : FloatFmt → Nat
  | .f64 => 11 | .fp32 => 8 | .fp16 => 5 | .bf16 => 8 | .e4m3 => 4 | .e5m2 => 5 | .e3m2 => 3 | .e2m3 => 2 | .e2m1 => 2

/-- Fraction width. -/
def FloatFmt.mbits : FloatFmt → Nat
  | .f64 => 52 | .fp32 => 23 | .fp16 => 10 | .bf16 => 7 | .e4m3 => 3 | .e5m2 => 2 | .e3m2 => 2 | .e2m3 => 3 | .e2m1 => 1

/-- Exponent bias. -/
def FloatFmt.bias : FloatFmt → Nat
  | .f64 => 1023 | .fp32 => 127 | .fp16 => 15 | .bf16 => 127 | .e4m3 => 7 | .e5m2 => 15 | .e3m2 => 3 | .e2m3 => 1 | .e2m1 => 1

/-- Width of a code. -/
def FloatFmt.width (f : FloatFmt) : Nat := 1 + f.ebits + f.mbits

/-- Exponent of the smallest normal: 1 − bias in every format. -/
def FloatFmt.emin (f : FloatFmt) : Int := 1 - (f.bias : Int)

/-- The format has infinities. -/
def FloatFmt.hasInf : FloatFmt → Bool
  | .f64 | .fp32 | .fp16 | .bf16 | .e5m2 => true
  | _ => false

/-- The format has NaNs. -/
def FloatFmt.hasNan : FloatFmt → Bool
  | .e3m2 | .e2m3 | .e2m1 => false
  | _ => true

/-- Code of the largest finite magnitude (Table 8.2). -/
def FloatFmt.maxCode : FloatFmt → Nat
  | .f64 => 0x7FEFFFFFFFFFFFFF | .fp32 => 0x7F7FFFFF | .fp16 => 0x7BFF | .bf16 => 0x7F7F | .e4m3 => 0x7E | .e5m2 => 0x7B
  | .e3m2 => 0x1F | .e2m3 => 0x1F | .e2m1 => 0x7

/-- Canonical quiet NaN (Table 8.9); +0 where the format has none. -/
def FloatFmt.nanCode : FloatFmt → Nat
  | .f64 => 0x7FF8000000000000 | .fp32 => 0x7FC00000 | .fp16 => 0x7E00 | .bf16 => 0x7FC0 | .e4m3 => 0x7F | .e5m2 => 0x7E
  | _ => 0

/-- The sign bit's weight. -/
def FloatFmt.signBit (f : FloatFmt) : Nat := 2 ^ (f.ebits + f.mbits)

/-- Code of a signed infinity. -/
def FloatFmt.infCode (f : FloatFmt) (neg : Bool) : Nat :=
  (if neg then f.signBit else 0) + (2 ^ f.ebits - 1) * 2 ^ f.mbits

/-- An exact value: a NaN, a signed infinity or zero, or ±m × 2^e with m > 0; `sticky` says that the magnitude lies
strictly between m × 2^e and (m + 1) × 2^e. -/
inductive Val where
  | nan (signalling : Bool)
  | inf (neg : Bool)
  | zero (neg : Bool)
  | fin (neg : Bool) (m : Nat) (e : Int) (sticky : Bool)
  deriving DecidableEq, Repr, Inhabited

/-- The value ±m × 2^e; zero when m = 0. -/
def mkVal (neg : Bool) (m : Nat) (e : Int) : Val := if m = 0 then .zero neg else .fin neg m e false

/-- The exact value of an integer; 0 is +0. -/
def intVal (v : Int) : Val := mkVal (decide (v < 0)) v.natAbs 0

/-- The value of a code (R198). -/
def FloatFmt.val (f : FloatFmt) (code : Nat) : Val :=
  let neg := bitAt code (f.ebits + f.mbits)
  let ex := bits code f.mbits f.ebits
  let fr := bits code 0 f.mbits
  let top := 2 ^ f.ebits - 1
  if f.hasInf && ex == top then
    if fr = 0 then .inf neg else .nan (!bitAt fr (f.mbits - 1))
  else if f.hasNan && !f.hasInf && ex == top && fr == 2 ^ f.mbits - 1 then .nan false
  else if ex = 0 then mkVal neg fr (f.emin - f.mbits)
  else .fin neg (2 ^ f.mbits + fr) ((ex : Int) - f.bias - f.mbits) false

/-- Code of ±m × 2^e, for a magnitude the format represents. -/
def FloatFmt.pack (f : FloatFmt) (neg : Bool) (m : Nat) (e : Int) : Nat :=
  let s := if neg then f.signBit else 0
  if m = 0 then s
  else
    let k : Int := (m.log2 : Int) + e
    if k < f.emin then s + m * 2 ^ (e - (f.emin - f.mbits)).toNat
    else
      let sig := if m.log2 ≤ f.mbits then m * 2 ^ (f.mbits - m.log2) else m / 2 ^ (m.log2 - f.mbits)
      s + (k + f.bias).toNat * 2 ^ f.mbits + (sig - 2 ^ f.mbits)

/-- The result of an overflow, as a code (Table 8.6). -/
def FloatFmt.overflowCode (f : FloatFmt) (neg : Bool) (mode : RMode) (sat : Bool) : Nat :=
  let s := if neg then f.signBit else 0
  let maxfin := s + f.maxCode
  if sat then maxfin
  else match f with
    | .e4m3 => f.nanCode
    | .e3m2 | .e2m3 | .e2m1 => maxfin
    | _ =>
      match mode with
      | .rz => maxfin
      | .ru => if neg then maxfin else f.infCode false
      | .rd => if neg then f.infCode true else maxfin
      | _ => f.infCode neg

/-- The units and the remainder of m × 2^e at spacing 2^u: quotient, remainder, and the shift it was taken at. -/
def splitAt (m : Nat) (e u : Int) : Nat × Nat × Nat :=
  if u ≤ e then (m * 2 ^ (e - u).toNat, 0, 0)
  else
    let sh := (u - e).toNat
    (m / 2 ^ sh, m % 2 ^ sh, sh)

/-- Whether the case analysis of R206 takes the upper neighbour: `q` units below, remainder r ÷ 2^sh, draw h. -/
def roundsUp (mode : RMode) (neg : Bool) (h q r sh : Nat) (sticky : Bool) : Bool :=
  let inexact := r != 0 || sticky
  match mode with
  | .rne => decide (2 * r > 2 ^ sh) || (decide (2 * r = 2 ^ sh) && (sticky || q % 2 == 1))
  | .rna => decide (2 * r ≥ 2 ^ sh)
  | .rz => false
  | .ru => inexact && !neg
  | .rd => inexact && neg
  | .sr => decide (h < r * 2 ^ 32 / 2 ^ sh)

/-- `round_to` (R206), with the flags of the rounding (R207, R209). A NaN gives the canonical NaN, or +0 where the format
has none; its flags belong to the operation that calls. -/
def roundTo (f : FloatFmt) (x : Val) (mode : RMode) (sat : Bool) (h : Nat) : Nat × Flags :=
  match x with
  | .nan _ => (f.nanCode, flNone)
  | .inf neg => (f.overflowCode neg mode sat, flNone)
  | .zero neg => (if neg then f.signBit else 0, flNone)
  | .fin neg m e sticky =>
    let e' := max ((m.log2 : Int) + e) f.emin
    let u := e' - f.mbits
    let (q, r, sh) := splitAt m e u
    let inexact := r != 0 || sticky
    let y := if roundsUp mode neg h q r sh sticky then q + 1 else q
    let beyond := match f.val f.maxCode with
      | .fin _ mm me _ => decide ((y : Int) * 2 ^ (u - min u me).toNat > (mm : Int) * 2 ^ (me - min u me).toNat)
      | _ => false
    let tiny := decide ((y.log2 : Int) + u < f.emin) || y == 0
    if beyond then (f.overflowCode neg mode sat, flRounded true true false)
    else (f.pack neg y u, flRounded false inexact tiny)

/-- The helper `RNE_FP32`. -/
def rneFp32 (x : Val) : Nat := (roundTo .fp32 x .rne false 0).1

/-- `round_int` (R206): the integer, and whether it differs from x. -/
def roundInt (neg : Bool) (m : Nat) (e : Int) (sticky : Bool) (mode : RMode) (h : Nat) : Int × Bool :=
  let (q, r, sh) := splitAt m e 0
  let y := if roundsUp mode neg h q r sh sticky then q + 1 else q
  (if neg then -(y : Int) else (y : Int), r != 0 || sticky)

/-! ## Exact operations. Each gives an exact value and the flags it raises itself (R213). -/

/-- A NaN operand gives a NaN, and a signalling one raises IV. -/
def nanOf (xs : List Val) : Option Flags :=
  if xs.any (fun x => match x with | .nan _ => true | _ => false) then
    some (flWhen (xs.any (fun x => match x with | .nan s => s | _ => false)) flIV)
  else none

/-- An invalid operation. -/
def invalid : Val × Flags := (.nan false, flIV)

/-- The signed integer of a finite value at exponent `e0`. -/
def signedAt (neg : Bool) (m : Nat) (e e0 : Int) : Int :=
  let v : Int := (m : Int) * 2 ^ (e - e0).toNat
  if neg then -v else v

/-- Sign of an operand (NaN counts as positive). -/
def Val.neg? : Val → Bool
  | .nan _ => false
  | .inf n => n
  | .zero n => n
  | .fin n _ _ _ => n

/-- −x, and x with its sign given. -/
def Val.withSign (n : Bool) : Val → Val
  | .nan s => .nan s
  | .inf _ => .inf n
  | .zero _ => .zero n
  | .fin _ m e s => .fin n m e s

/-- −x. -/
def Val.negate (x : Val) : Val := x.withSign (!x.neg?)

/-- The exact sum; an exact zero sum is +0, or −0 towards −∞, and zeros of one sign keep it. -/
def addVal (x y : Val) (down : Bool) : Val × Flags :=
  match nanOf [x, y] with
  | some f => (.nan false, f)
  | none =>
    match x, y with
    | .inf a, .inf b => if a = b then (.inf a, flNone) else invalid
    | .inf a, _ => (.inf a, flNone)
    | _, .inf b => (.inf b, flNone)
    | .zero a, .zero b => (.zero (if a = b then a else down), flNone)
    | .zero _, z => (z, flNone)
    | z, .zero _ => (z, flNone)
    | .fin a m e _, .fin b n d _ =>
      let e0 := min e d
      let v := signedAt a m e e0 + signedAt b n d e0
      if v = 0 then (.zero down, flNone) else (.fin (decide (v < 0)) v.natAbs e0 false, flNone)
    | _, _ => invalid

/-- The exact product. -/
def mulVal (x y : Val) : Val × Flags :=
  match nanOf [x, y] with
  | some f => (.nan false, f)
  | none =>
    let n := x.neg? != y.neg?
    match x, y with
    | .inf _, .zero _ => invalid
    | .zero _, .inf _ => invalid
    | .inf _, _ => (.inf n, flNone)
    | _, .inf _ => (.inf n, flNone)
    | .fin _ m e _, .fin _ m' e' _ => (.fin n (m * m') (e + e') false, flNone)
    | _, _ => (.zero n, flNone)

/-- x × y + z, exact; an invalid product raises IV whatever z is. -/
def fmaVal (x y z : Val) (down : Bool) : Val × Flags :=
  let (p, f) := mulVal x y
  let (s, g) := addVal p z down
  (s, f ||| g)

/-- The quotient, exact but for the sticky tail. -/
def divVal (x y : Val) : Val × Flags :=
  match nanOf [x, y] with
  | some f => (.nan false, f)
  | none =>
    let n := x.neg? != y.neg?
    match x, y with
    | .inf _, .inf _ => invalid
    | .zero _, .zero _ => invalid
    | .inf _, _ => (.inf n, flNone)
    | _, .inf _ => (.zero n, flNone)
    | .zero _, _ => (.zero n, flNone)
    | .fin _ _ _ _, .zero _ => (.inf n, flDZ)
    | .fin _ m e _, .fin _ m' e' _ =>
      let k : Nat := 160 + m'.log2
      (.fin n (m * 2 ^ k / m') (e - e' - k) (m * 2 ^ k % m' != 0), flNone)
    | _, _ => invalid

/-- ⌊√x⌋, bit by bit from bit `n`. -/
def isqrt (x : Nat) : Nat → Nat → Nat
  | 0, r => r
  | n + 1, r => if (r + 2 ^ n) * (r + 2 ^ n) ≤ x then isqrt x n (r + 2 ^ n) else isqrt x n r

/-- ⌊√x⌋. -/
def natSqrt (x : Nat) : Nat := isqrt x (x.log2 / 2 + 1) 0

/-- The square root (R213, R310). -/
def sqrtVal (x : Val) : Val × Flags :=
  match nanOf [x] with
  | some f => (.nan false, f)
  | none =>
    match x with
    | .zero n => (.zero n, flNone)
    | .inf false => (.inf false, flNone)
    | .fin false m e _ =>
      let (m', e') := if e % 2 = 0 then (m, e) else (2 * m, e - 1)
      let k : Nat := 160
      let r := natSqrt (m' * 2 ^ (2 * k))
      (.fin false r (e' / 2 - k) (r * r != m' * 2 ^ (2 * k)), flNone)
    | _ => invalid

/-- 1 ÷ √x (R213, R310). -/
def rsqrtVal (x : Val) : Val × Flags :=
  match nanOf [x] with
  | some f => (.nan false, f)
  | none =>
    match x with
    | .zero n => (.inf n, flDZ)
    | .inf false => (.zero false, flNone)
    | .fin false m e _ =>
      let (m', e') := if e % 2 = 0 then (m, e) else (2 * m, e - 1)
      let k : Nat := 200 + m'.log2
      let r := natSqrt (2 ^ (2 * k) / m')
      (.fin false r (-(e' / 2) - k) (r * r * m' != 2 ^ (2 * k)), flNone)
    | _ => invalid

/-- x × 2^b. -/
def scaleVal (x : Val) (b : Int) : Val × Flags :=
  match x with
  | .nan s => (.nan false, flWhen s flIV)
  | .fin n m e s => (.fin n m (e + b) s, flNone)
  | z => (z, flNone)

/-- Comparison of ordered values; none when either is a NaN. −0 equals +0. -/
def cmpVal (x y : Val) : Option Ordering :=
  let key : Val → Int := fun v => match v with
    | .inf n => if n then -2 else 2
    | .zero _ => 0
    | .fin n _ _ _ => if n then -1 else 1
    | .nan _ => 0
  match x, y with
  | .nan _, _ => none
  | _, .nan _ => none
  | .fin a m e _, .fin b n d _ =>
    let e0 := min e d
    some (compare (signedAt a m e e0) (signedAt b n d e0))
  | _, _ => some (compare (key x) (key y))

/-- The conditions of FC (Table 10.11, R312). -/
def condHolds (cond : Nat) (o : Option Ordering) : Bool :=
  match cond, o with
  | 0, some .eq => true
  | 1, some .eq => false
  | 1, _ => true
  | 2, some .lt => true
  | 3, some .lt => true
  | 3, some .eq => true
  | 4, some .gt => true
  | 5, some .gt => true
  | 5, some .eq => true
  | 6, none => true
  | 7, some _ => true
  | _, _ => false

/-- A code with its quiet bit set if it is a NaN (R211). -/
def FloatFmt.quiet (f : FloatFmt) (code : Nat) : Nat :=
  match f.val code with
  | .nan _ => code ||| 2 ^ (f.mbits - 1)
  | _ => code

/-- The code is a NaN; it is a signalling NaN. -/
def FloatFmt.isNan (f : FloatFmt) (code : Nat) : Bool :=
  match f.val code with | .nan _ => true | _ => false

/-- A signalling NaN. -/
def FloatFmt.isSNan (f : FloatFmt) (code : Nat) : Bool :=
  match f.val code with | .nan s => s | _ => false

/-- Minimum and maximum order, with −0 below +0 (R212). -/
def FloatFmt.below (f : FloatFmt) (x y : Nat) : Bool :=
  match cmpVal (f.val x) (f.val y) with
  | some .lt => true
  | some .eq => (f.val x).neg? && !(f.val y).neg?
  | _ => false

/-- FMIN, FMAX, FMINN and FMAXN on codes (R212): `wantMax`, and `number` for the minimumNumber forms. -/
def FloatFmt.minMax (f : FloatFmt) (wantMax number : Bool) (x y : Nat) : Nat × Flags :=
  let iv := flWhen (f.isSNan x || f.isSNan y) flIV
  let pick := if wantMax then (if f.below x y then y else x) else (if f.below y x then y else x)
  if number then
    if f.isNan x && f.isNan y then (f.nanCode, iv)
    else if f.isNan x then (y, iv)
    else if f.isNan y then (x, iv)
    else (pick, iv)
  else if f.isNan x then (f.quiet x, iv)
  else if f.isNan y then (f.quiet y, iv)
  else (pick, iv)

/-! ## Stochastic rounding (R208) -/

/-- `mixstep`. -/
def mixstep (x : W32) : W32 :=
  let x := x ^^^ (x >>> 16)
  let x := x * 0x7FEB352D
  let x := x ^^^ (x >>> 15)
  let x := x * 0x846CA68B
  x ^^^ (x >>> 16)

/-- `mix32`. -/
def mix32 (seed tag idx : W32) : W32 := mixstep (mixstep (seed ^^^ tag) ^^^ idx)

/-! ## σ(s), correctly rounded (R180): interval arithmetic in fixed point with 400 fraction bits -/

/-- Σ (−x)^k ÷ k! in fixed point with `p` bits, `n` terms. -/
def expTerms (p : Nat) (x : Nat) : Nat → Nat → Int → Int → Int
  | 0, _, _, acc => acc
  | n + 1, k, term, acc =>
    let t := -(term * (x : Int) / ((2 ^ p : Nat) : Int)) / ((k : Int) + 1)
    expTerms p x n (k + 1) t (acc + t)

/-- Square a fixed-point number n times. -/
def squares (p : Nat) : Nat → Nat → Nat
  | 0, y => y
  | n + 1, y => squares p n (y * y / 2 ^ p)

/-- e^−x for x = m × 2^e at most 128, in fixed point with `p` bits: reduced by 2^9, summed, and squared nine times. -/
def expNeg (p m : Nat) (e : Int) : Nat :=
  let x := if 0 ≤ e then m * 2 ^ e.toNat * 2 ^ p else m * 2 ^ p / 2 ^ (-e).toNat
  let y := expTerms p (x / 2 ^ 9) 60 0 ((2 ^ p : Nat) : Int) ((2 ^ p : Nat) : Int)
  squares p 9 y.toNat

/-- σ(s) as an FP32 code: 1 ÷ (1 + e^−s) rounded once, RNE (R180). -/
def sigmoid (s : Val) : Nat :=
  let one : Nat := 2 ^ 400
  match s with
  | .nan _ => 0x7FC00000
  | .inf n => if n then 0 else 0x3F800000
  | .zero _ => 0x3F000000
  | .fin n m e _ =>
    if decide ((m.log2 : Int) + e ≥ 7) then (if n then 0 else 0x3F800000)
    else
      let t := expNeg 400 m e
      let num := if n then t else one
      rneFp32 (.fin false (num * one / (one + t)) (-400) true)

end Sys2Proof
end

