-- ==== Sys2Proof/Syntax.lean ====
section
/-! DEFINITION. The syntax of the machine's steps: one constructor of `Instr` for each row of the table of operations
and events. A row of chapters 10 to 13 is an instruction word and carries the fields of its format; any other row is
an event of the device, and its arguments settle what the spec leaves to the outside or to chance (which pending
request is next, what a sensor reads, where an allocator places a tile). -/

namespace Sys2Proof

/-- Scalar types (Table 8.4), codes 0 to 15 in order. -/
inductive ScalarTy where
  | ctrl | b64 | s64 | z64 | s32 | z32 | f64 | f32 | f16 | bf16 | pred | addr | tile | framep | range | status
  deriving DecidableEq, Repr, Inhabited

/-- Operand specifiers (Table 10.3). -/
inductive Spec where
  | temp (i : Fin 8)
  | zero | frame | tag | core | job | lane | dim | type
  | lit (i : Fin 16)
  | slot (i : Fin 32)
  deriving DecidableEq, Repr, Inhabited

/-- Entry ports (Table 6.1), codes 0 to 2. -/
inductive Port where
  | l | r | c
  deriving DecidableEq, Repr, Inhabited

/-- The tag a send gives its token (`TPOL`, Table 10.5). -/
inductive TagPolicy where
  | outgoing | operand | outgoingPlusOne
  deriving DecidableEq, Repr, Inhabited

/-- The DIM a send gives its token (`DPOL`, Table 10.5). -/
inductive DimPolicy where
  | outgoing | zero | seven
  deriving DecidableEq, Repr, Inhabited

/-- `ORD` of Table 9.2. -/
inductive MemOrder where
  | relaxed | acquire | release | acquireRelease
  deriving DecidableEq, Repr, Inhabited

/-- `SCOPE` of Table 9.4. -/
inductive Scope where
  | frame | core | die | dev | fab | sys
  deriving DecidableEq, Repr, Inhabited

/-- What every instruction word carries (Table 10.2): last word of the body, and its predicate. -/
structure Hdr where
  last : Bool
  pneg : Bool
  pidx : Fin 4
  deriving DecidableEq, Repr, Inhabited

/-- R format (Table 10.4). -/
structure RWord where
  hdr : Hdr
  d : Spec
  a : Spec
  b : Spec
  c : Spec
  ty : ScalarTy
  mod : BitVec 8
  ty2 : ScalarTy
  deriving DecidableEq, Repr, Inhabited

/-- I format (R256). -/
structure IWord where
  hdr : Hdr
  d : Spec
  a : Spec
  b : Spec
  imm : W32
  deriving DecidableEq, Repr, Inhabited

/-- S format (Table 10.5). -/
structure SWord where
  hdr : Hdr
  d : Spec
  a : Spec
  b : Spec
  tblk : BitVec 12
  tent : BitVec 7
  tport : Port
  tpol : TagPolicy
  dpol : DimPolicy
  sty : ScalarTy
  deriving DecidableEq, Repr, Inhabited

/-- M format (Table 9.2). -/
structure MWord where
  hdr : Hdr
  d : Spec
  a : Spec
  b : Spec
  cent : BitVec 7
  cport : Port
  wid : BitVec 3
  ord : MemOrder
  scope : Scope
  aop : BitVec 5
  mflg : BitVec 11
  deriving DecidableEq, Repr, Inhabited

/-- T format (Table 10.10). -/
structure TWord where
  hdr : Hdr
  d : Spec
  a : Spec
  b : Spec
  cent : BitVec 7
  cport : Port
  fa : BitVec 6
  fb : BitVec 6
  fc : BitVec 6
  tra : Bool
  trb : Bool
  acc : Bool
  tmod : BitVec 3
  deriving DecidableEq, Repr, Inhabited

/-- What the error-correcting code of a memory finds at an access (R81, R173). -/
inductive EccOutcome where
  | clean | corrected | uncorrectable
  deriving DecidableEq, Repr, Inhabited

/-- The storage of a core that an error strikes (Table 6.12). -/
inductive EccPlace where
  | frameSlot (slot : Nat)
  | instructionWord (block index : Nat)
  | tileUnit (unit : Nat)
  | tileEntry (index : Nat)
  | tokenEntry (position : Nat) (headerLost : Bool)
  | counts (job : Nat)
  deriving DecidableEq, Repr, Inhabited

/-- Where an allocator places a new tile: its table index and its first 64-byte unit (R146, R153). -/
structure TileGrant where
  index : Nat
  base : Nat
  deriving DecidableEq, Repr, Inhabited

/-- What a WALKER_ELEMENT performs: units by themselves, in an order of the event's choosing, each by its point counted on from the next
one and its number there, and units of group-table entries, each by its entry and its number there (R224, R238); or, with none named, the
walker's next point, with the grant for its tile. -/
structure WalkerTurn where
  grant : List TileGrant := []
  units : List (Nat × Nat) := []
  entries : List (Nat × Nat) := []
  deriving DecidableEq, Repr, Inhabited

/-- What a COPY_REQUEST performs on a queue: units by themselves, each by its number in the request and whether it is the write, or, while a CPY's
request is still to be read, by its number in those bytes (R224, R235, R377); or, with none named, the request at the queue's head as far as it goes. -/
structure CopyTurn where
  queue : Nat
  units : List (Nat × Bool) := []
  deriving DecidableEq, Repr, Inhabited

/-- A CXL partner's offer to a port (R14). -/
structure LinkOffer where
  up : Bool
  flit256 : Bool
  width : Nat
  rate : Nat
  deriving DecidableEq, Repr, Inhabited

/-- Defects of a power-on (R40): sites that fail as a whole (10y + x), tile-store banks and matrix-array columns by site, and
64-byte units of HBM in failing rows. -/
structure Defects where
  sites : List Nat := []
  banks : List (Nat × Nat) := []
  columns : List (Nat × Nat) := []
  rows : List Nat := []
  deriving DecidableEq, Repr, Inhabited

/-- What the test of a die or of the whole module found (R31, R38 to R40), and the local column of each compute die that the
firmware skips where no column has to be. -/
structure RepairReport where
  found : Defects
  skip : List Nat
  /-- rooms 0 and 1 have been trained (R31) -/
  trained : Bool := true
  deriving DecidableEq, Repr, Inhabited

/-- How the attic answers the transfers of CKPT and RESTORE (R44 to R46). -/
inductive AtticOutcome where
  | performed | ioError | corrupt
  deriving DecidableEq, Repr, Inhabited

/-- The steps of the machine, one constructor for each row of the table of operations and events. -/
inductive Instr where
  /-- SEND (R282). -/
  | send (w : SWord)
  /-- SEND2 (R282). -/
  | send2 (w : SWord)
  /-- SENDX (R282). -/
  | sendx (w : SWord)
  /-- STEER (R282). -/
  | steer (w : SWord)
  /-- MERGE (R282). -/
  | merge (w : SWord)
  /-- FALLOC (R287). -/
  | falloc (w : MWord)
  /-- FFREE (R288). -/
  | ffree (w : RWord)
  /-- FLIMIT (R289). -/
  | flimit (w : RWord)
  /-- LDF (R290). -/
  | ldf (w : RWord)
  /-- STF (R290). -/
  | stf (w : RWord)
  /-- TAGS (R286). -/
  | tags (w : RWord)
  /-- TAGI (R286). -/
  | tagi (w : IWord)
  /-- DIMS (R286). -/
  | dims (w : RWord)
  /-- DROP (R292). -/
  | drop (w : RWord)
  /-- KEEP (R292). -/
  | keep (w : RWord)
  /-- SKIP (R293). -/
  | skip (w : RWord)
  /-- RSPLIT (R297). -/
  | rsplit (w : RWord)
  /-- STEAL (R296). -/
  | steal (w : SWord)
  /-- GDONE (R298). -/
  | gdone (w : RWord)
  /-- CANCEL (R294). -/
  | cancel (w : RWord)
  /-- ADD (R299). -/
  | add (w : RWord)
  /-- SUB (R299). -/
  | sub (w : RWord)
  /-- MUL (R299). -/
  | mul (w : RWord)
  /-- MULH (R299). -/
  | mulh (w : RWord)
  /-- MAD (R299). -/
  | mad (w : RWord)
  /-- DIV (R301). -/
  | div (w : RWord)
  /-- REM (R301). -/
  | rem (w : RWord)
  /-- NEG (R299). -/
  | neg (w : RWord)
  /-- ABS (R299). -/
  | abs (w : RWord)
  /-- MIN (R299). -/
  | min (w : RWord)
  /-- MAX (R299). -/
  | max (w : RWord)
  /-- AND (R300). -/
  | and (w : RWord)
  /-- OR (R300). -/
  | or (w : RWord)
  /-- XOR (R300). -/
  | xor (w : RWord)
  /-- NOT (R300). -/
  | not (w : RWord)
  /-- ANDN (R300). -/
  | andn (w : RWord)
  /-- SHL (R300). -/
  | shl (w : RWord)
  /-- SHR (R300). -/
  | shr (w : RWord)
  /-- SAR (R300). -/
  | sar (w : RWord)
  /-- ROL (R300). -/
  | rol (w : RWord)
  /-- ROR (R300). -/
  | ror (w : RWord)
  /-- CLZ (R300). -/
  | clz (w : RWord)
  /-- CTZ (R300). -/
  | ctz (w : RWord)
  /-- POPC (R300). -/
  | popc (w : RWord)
  /-- BREV (R300). -/
  | brev (w : RWord)
  /-- BFX (R302). -/
  | bfx (w : RWord)
  /-- BFI (R302). -/
  | bfi (w : RWord)
  /-- BILV (R303). -/
  | bilv (w : RWord)
  /-- BDLV (R303). -/
  | bdlv (w : RWord)
  /-- CMP (R304). -/
  | cmp (w : RWord)
  /-- SEL (R305). -/
  | sel (w : RWord)
  /-- MOV (R305). -/
  | mov (w : RWord)
  /-- MOVI (R305). -/
  | movi (w : IWord)
  /-- MOVH (R305). -/
  | movh (w : IWord)
  /-- LEA (R306). -/
  | lea (w : RWord)
  /-- EXT (R307). -/
  | ext (w : RWord)
  /-- FADD (R309). -/
  | fadd (w : RWord)
  /-- FSUB (R309). -/
  | fsub (w : RWord)
  /-- FMUL (R309). -/
  | fmul (w : RWord)
  /-- FFMA (R309). -/
  | ffma (w : RWord)
  /-- FDIV (R309). -/
  | fdiv (w : RWord)
  /-- FSQRT (R309). -/
  | fsqrt (w : RWord)
  /-- FRCP (R309). -/
  | frcp (w : RWord)
  /-- FRSQ (R309). -/
  | frsq (w : RWord)
  /-- FMIN (R311). -/
  | fmin (w : RWord)
  /-- FMAX (R311). -/
  | fmax (w : RWord)
  /-- FMINN (R311). -/
  | fminn (w : RWord)
  /-- FMAXN (R311). -/
  | fmaxn (w : RWord)
  /-- FABS (R311). -/
  | fabs (w : RWord)
  /-- FNEG (R311). -/
  | fneg (w : RWord)
  /-- FCPS (R311). -/
  | fcps (w : RWord)
  /-- FCMP (R312). -/
  | fcmp (w : RWord)
  /-- FCLS (R313). -/
  | fcls (w : RWord)
  /-- FRND (R309). -/
  | frnd (w : RWord)
  /-- FSCL (R310). -/
  | fscl (w : RWord)
  /-- FXTR (R314). -/
  | fxtr (w : RWord)
  /-- CVT (R315). -/
  | cvt (w : RWord)
  /-- PWLD (R317). -/
  | pwld (w : MWord)
  /-- PWEV (R319). -/
  | pwev (w : RWord)
  /-- LUTLD (R318). -/
  | lutld (w : MWord)
  /-- LUTEV (R320). -/
  | lutev (w : RWord)
  /-- TALLOC (R331). -/
  | talloc (w : TWord)
  /-- TFREE (R332). -/
  | tfree (w : TWord)
  /-- TDESC (R333). -/
  | tdesc (w : TWord)
  /-- TVIEW (R334). -/
  | tview (w : TWord)
  /-- TFILL (R335). -/
  | tfill (w : TWord)
  /-- TCOPY (R336). -/
  | tcopy (w : TWord)
  /-- TCVT (R337). -/
  | tcvt (w : TWord)
  /-- TQNT (R338). -/
  | tqnt (w : TWord)
  /-- TADD (R339). -/
  | tadd (w : TWord)
  /-- TSUB (R339). -/
  | tsub (w : TWord)
  /-- TMUL (R339). -/
  | tmul (w : TWord)
  /-- TFMA (R339). -/
  | tfma (w : TWord)
  /-- TMIN (R339). -/
  | tmin (w : TWord)
  /-- TMAX (R339). -/
  | tmax (w : TWord)
  /-- TABS (R339). -/
  | tabs (w : TWord)
  /-- TNEG (R339). -/
  | tneg (w : TWord)
  /-- TCMP (R339). -/
  | tcmp (w : TWord)
  /-- TSEL (R339). -/
  | tsel (w : TWord)
  /-- TPWP (R341). -/
  | tpwp (w : TWord)
  /-- TLUT (R341). -/
  | tlut (w : TWord)
  /-- TRED (R342). -/
  | tred (w : TWord)
  /-- TSCAN (R342). -/
  | tscan (w : TWord)
  /-- TBCST (R343). -/
  | tbcst (w : TWord)
  /-- TTRN (R343). -/
  | ttrn (w : TWord)
  /-- TGTH (R343). -/
  | tgth (w : TWord)
  /-- TSCT (R343). -/
  | tsct (w : TWord)
  /-- TGET (R345). -/
  | tget (w : TWord)
  /-- TSET (R345). -/
  | tset (w : TWord)
  /-- TSPL (R343). -/
  | tspl (w : TWord)
  /-- TCAT (R343). -/
  | tcat (w : TWord)
  /-- RACC (R347). -/
  | racc (w : TWord)
  /-- RACS (R347). -/
  | racs (w : TWord)
  /-- MMA (R353). -/
  | mma (w : TWord)
  /-- MMAS (R354). -/
  | mmas (w : TWord)
  /-- MMAW (R355). -/
  | mmaw (w : TWord)
  /-- MMAX (R355). -/
  | mmax (w : TWord)
  /-- LD (R362). -/
  | ld (w : MWord)
  /-- ST (R362). -/
  | st (w : MWord)
  /-- LDA (R362). -/
  | lda (w : MWord)
  /-- STR (R362). -/
  | str (w : MWord)
  /-- ATOM (R363). -/
  | atom (w : MWord)
  /-- ATMN (R364). -/
  | atmn (w : MWord)
  /-- DRAIN (R365). -/
  | drain (w : MWord)
  /-- WATCH (R367). -/
  | watch (w : MWord)
  /-- TLD (R370). -/
  | tld (w : MWord)
  /-- TST (R371). -/
  | tst (w : MWord)
  /-- TLDI (R372). -/
  | tldi (w : MWord)
  /-- TSTI (R372). -/
  | tsti (w : MWord)
  /-- WCFLUSH (R365). -/
  | wcflush (w : MWord)
  /-- PREF (R366). -/
  | pref (w : MWord)
  /-- CPY (R374). -/
  | cpy (w : MWord)
  /-- CPYR (R374). -/
  | cpyr (w : MWord)
  /-- WCFG (R155). -/
  | wcfg (w : MWord)
  /-- WGO (R379). -/
  | wgo (w : MWord)
  /-- WPAR (R381). -/
  | wpar (w : MWord)
  /-- WSTOP (R381). -/
  | wstop (w : MWord)
  /-- WSTAT (R382). -/
  | wstat (w : MWord)
  /-- ROPEN (R176). -/
  | ropen (w : MWord)
  /-- RSEL (R179). -/
  | rsel (w : MWord)
  /-- RROW (R187). -/
  | rrow (w : MWord)
  /-- RCLOSE_SEL (R181). -/
  | rcloseSel (w : MWord)
  /-- RCLOSE_FIN (R188). -/
  | rcloseFin (w : MWord)
  /-- RCOMB (R189). -/
  | rcomb (w : MWord)
  /-- RBIAS (R192). -/
  | rbias (w : MWord)
  /-- RSTAT (R194). -/
  | rstat (w : MWord)
  /-- SVRD (R387). -/
  | svrd (w : RWord)
  /-- SVWR (R387). -/
  | svwr (w : MWord)
  /-- CNTRD (R388). -/
  | cntrd (w : MWord)
  /-- TICK (R389). -/
  | tick (w : MWord)
  /-- EXPO (R390). -/
  | expo (w : MWord)
  /-- CLK (R391). -/
  | clk (w : RWord)
  /-- PERF_GET (R391). -/
  | perfGet (w : RWord)
  /-- PERF_SET (R391). -/
  | perfSet (w : RWord)
  /-- FLAGS_GET (R392). -/
  | flagsGet (w : RWord)
  /-- FLAGS_SET (R392). -/
  | flagsSet (w : RWord)
  /-- FLAGS_JOIN (R392). -/
  | flagsJoin (w : RWord)
  /-- TRAP (R393). -/
  | trap (w : IWord)
  /-- BRK (R393). -/
  | brk (w : IWord)
  /-- NOP (R393). -/
  | nop (w : RWord)
  /-- FUNDAMENTAL_RESET (R31). -/
  | fundamentalReset
  /-- AUX_POWER_LOSS (R27). -/
  | auxPowerLoss
  /-- MAIN_UNDERVOLTAGE (R27). -/
  | mainUndervoltage
  /-- HKC_FAULT (R39). -/
  | hkcFault (watchdog : Bool)
  /-- TEMPERATURE_THRESHOLD (R28). -/
  | temperatureThreshold (sensor : Nat) (temp : BitVec 16)
  /-- POWER_CAP_WINDOW (R43). -/
  | powerCapWindow (avg peak : Nat)
  /-- FWMBOX_CHUNK (R32). -/
  | fwmboxChunk (value : W64)
  /-- FW_VERIFY (R34). -/
  | fwVerify
  /-- PROOF_SERVICE_ENTRY (R31). -/
  | proofServiceEntry (report : RepairReport)
  /-- FULL_SERVICE_ENTRY (R38). -/
  | fullServiceEntry (report : RepairReport)
  /-- SPDM_REQUEST (R42). -/
  | spdmRequest (port mailbox : Nat) (request : List Byte)
  /-- IDE_CHECK_FAIL (R52). -/
  | ideCheckFail (port : Nat)
  /-- CXL_LINK_STATE (R14). -/
  | cxlLinkState (port : Nat) (offer : LinkOffer)
  /-- YILYEL_LANE_FAIL (R17). -/
  | yilyelLaneFail (link lane : Nat) (trained : Bool)
  /-- DATA_FLIT (R21). -/
  | dataFlit (link : Nat) (flit : List Byte)
  /-- IDLE_FLIT (R21). -/
  | idleFlit (link : Nat) (flit : List Byte)
  /-- RETRY_REQUEST (R19). -/
  | retryRequest (link : Nat) (flit : List Byte)
  /-- TIME_MARK (R26). -/
  | timeMark (link : Nat) (flit : List Byte)
  /-- TIME_MARK_SEND (R26). -/
  | timeMarkSend
  /-- TILE_TRANSFER (R22). -/
  | tileTransfer (i : Nat)
  /-- READ_REQUEST (R69). -/
  | readRequest (i : Nat)
  /-- WRITE_REQUEST (R69). -/
  | writeRequest (i : Nat)
  /-- ATOMIC_REQUEST (R69). -/
  | atomicRequest (i : Nat)
  /-- WATCH_REQUEST (R69). -/
  | watchRequest (i : Nat)
  /-- RESPONSE (R69). -/
  | response (i : Nat)
  /-- SELECTION_RECORD (R180). -/
  | selectionRecord (i : Nat)
  /-- END_MARK (R182). -/
  | endMark (i : Nat)
  /-- SLOT_RETURN (R183). -/
  | slotReturn (i : Nat)
  /-- COUNTS (R182). -/
  | counts (i : Nat)
  /-- ROW (R187). -/
  | row (i : Nat)
  /-- ROW_ACKNOWLEDGEMENT (R187). -/
  | rowAcknowledgement (i : Nat)
  /-- FINAL_MARK (R188). -/
  | finalMark (i : Nat)
  /-- OUTPUT_ROW_READ (R189). -/
  | outputRowRead (i : Nat)
  /-- OUTPUT_ROW_DATA (R189). -/
  | outputRowData (i : Nat)
  /-- RELEASE_MARK (R195). -/
  | releaseMark (i : Nat)
  /-- READY_MARK (R125). -/
  | readyMark (i : Nat)
  /-- COUNT_TOTALS (R126). -/
  | countTotals (i : Nat)
  /-- CANCEL_MARK (R126). -/
  | cancelMark (i : Nat)
  /-- CURTAIN (R118). -/
  | curtain (i : Nat)
  /-- LANE_MAP (R22). -/
  | laneMap (i : Nat)
  /-- HOST_RESPONSE (R242). -/
  | hostResponse (rid elem : Nat) (ok : Bool)
  /-- CXL_MEM_READ (R53). -/
  | cxlMemRead (pa : Nat) (ecc : EccOutcome)
  /-- CXL_MEM_WRITE (R243). -/
  | cxlMemWrite (pa : Nat) (data : List Byte) (ecc : EccOutcome)
  /-- REGISTER_WRITE (R48). -/
  | registerWrite (offset size : Nat) (value : W64)
  /-- QPROD (R55). -/
  | qprod (q : Nat) (value : W32)
  /-- QUEUE_ENABLE (R54). -/
  | queueEnable (q : Nat) (value : W64)
  /-- QERR_CLEAR (R55). -/
  | qerrClear (q : Nat) (value : W64)
  /-- CCONS (R55). -/
  | ccons (q : Nat) (value : W32)
  /-- EVENT_RING_ENABLE (R64). -/
  | eventRingEnable (value : W64)
  /-- EVCONS (R65). -/
  | evcons (value : W32)
  /-- MSIX_VECTOR_UNMASK (R51). -/
  | msixVectorUnmask (vector : Nat)
  /-- COMMAND_ACCEPT (R55). -/
  | commandAccept (fetched : Bool)
  /-- JOB_OPEN (R59). -/
  | jobOpen (q : Nat)
  /-- JOB_CLOSE (R93). -/
  | jobClose (q : Nat)
  /-- JOB_CANCEL (R102). -/
  | jobCancel (q : Nat)
  /-- MAP_SET (R88). -/
  | mapSet (q : Nat)
  /-- WALL_SET (R111). -/
  | wallSet (q : Nat)
  /-- SLOT_SET (R59). -/
  | slotSet (q : Nat)
  /-- CODE_LOAD (R105). -/
  | codeLoad (q : Nat)
  /-- GRAPH_START (R95). -/
  | graphStart (q : Nat)
  /-- GRAPH_BATCH (R110). -/
  | graphBatch (q : Nat)
  /-- PHASE_OPEN (R100). -/
  | phaseOpen (q : Nat)
  /-- SVAR_SET (R61). -/
  | svarSet (q : Nat)
  /-- TICK_SET (R101). -/
  | tickSet (q : Nat)
  /-- FLOOR_ALLOC (R70). -/
  | floorAlloc (q : Nat)
  /-- FLOOR_FREE (R74). -/
  | floorFree (q : Nat)
  /-- FAULT_RESOLVE (R90). -/
  | faultResolve (q : Nat)
  /-- CELLAR_GROW (R59). -/
  | cellarGrow (q : Nat)
  /-- PREEMPT (R117). -/
  | preempt (q : Nat)
  /-- SAVE_END (R121). -/
  | saveEnd (job : Nat)
  /-- RESUME (R122). -/
  | resume (q : Nat)
  /-- CKPT (R44). -/
  | ckpt (q : Nat) (attic : AtticOutcome)
  /-- RESTORE (R46). -/
  | restore (q : Nat) (attic : AtticOutcome)
  /-- TOKEN_ARRIVAL (R130). -/
  | tokenArrival (i : Nat)
  /-- MATCH (R131). -/
  | matchToken (core : Nat)
  /-- FIRING_ISSUE (R137). -/
  | firingIssue (core : Nat)
  /-- ISSUE_RECOVERY_END (R116). -/
  | issueRecoveryEnd (core : Nat)
  /-- RATE_WINDOW (R172). -/
  | rateWindow (core : Nat)
  /-- SPILL (R167). -/
  | spill (core job : Nat)
  /-- REFILL (R167). -/
  | refill (core job : Nat)
  /-- FALLOC_REQUEST (R143). -/
  | fallocRequest (core i base : Nat)
  /-- REMOTE_FFREE (R288). -/
  | remoteFfree (i : Nat)
  /-- STEAL_REQUEST_ARRIVAL (R296). -/
  | stealRequestArrival (i : Nat)
  /-- TILE_ARRIVAL (R151). -/
  | tileArrival (i : Nat) (grant : List TileGrant)
  /-- TILE_FREE (R148). -/
  | tileFree (core index : Nat)
  /-- TILE_OP_START (R325). -/
  | tileOpStart (core rid : Nat) (grant : List TileGrant)
  /-- TILE_OP_DONE (R325). -/
  | tileOpDone (core rid : Nat)
  /-- MMA_START (R164). -/
  | mmaStart (core rid : Nat) (grant : List TileGrant)
  /-- MMA_DONE (R164). -/
  | mmaDone (core rid : Nat) (residueOk : Bool)
  /-- WALKER_ELEMENT (R157). -/
  | walkerElement (core walker : Nat) (turn : WalkerTurn)
  /-- COPY_REQUEST (R376). -/
  | copyRequest (die job : Nat) (turn : CopyTurn)
  /-- MEMORY_PERFORM (R223). -/
  | memoryPerform (rid elem : Nat) (ecc : EccOutcome)
  /-- WATCH_TIMEOUT (R240). -/
  | watchTimeout (rid : Nat)
  /-- WC_ENTRY_WRITE (R237). -/
  | wcEntryWrite (die i : Nat)
  /-- PAGE_WALK (R86). -/
  | pageWalk (rid elem : Nat)
  /-- FAULT_RECORD_WRITE (R92). -/
  | faultRecordWrite (die : Nat)
  /-- FLOOR_LIT (R70). -/
  | floorLit (room floor : Nat)
  /-- BACKGROUND_ZERO (R71). -/
  | backgroundZero (room floor region : Nat)
  /-- PATROL_SCRUB (R81). -/
  | patrolScrub (room floor corrected : Nat) (bad : List Nat)
  /-- ROOM_SAFELIGHT (R72). -/
  | roomSafelight (room : Nat)
  /-- ROOM_WAKE (R72). -/
  | roomWake (room : Nat)
  /-- BANK_SAFELIGHT (R80). -/
  | bankSafelight (core bank : Nat)
  /-- BANK_WAKE (R80). -/
  | bankWake (core bank : Nat)
  /-- ECC_ERROR (R173). -/
  | eccError (core : Nat) (place : EccPlace) (correctable : Bool)
  /-- CORE_RETIRE (R8). -/
  | coreRetire (die column : Nat)
  /-- INSTANCE_CANCEL_MARK (R103). -/
  | instanceCancelMark (job slot core : Nat)
  /-- INSTANCE_COMPLETE_CHECK (R98). -/
  | instanceCompleteCheck (job slot : Nat)
  /-- PRIMED_TOKENS_PLACE (R109). -/
  | primedTokensPlace (job slot : Nat)
  /-- TICK_EDGE (R101). -/
  | tickEdge (job : Nat)
  /-- QUIESCENCE_TIMEOUT (R170). -/
  | quiescenceTimeout (job slot : Nat)
  /-- AUXILIARY_INPUT_PRESENT (R31). -/
  | auxiliaryInputPresent (fuseOk : Bool)
  /-- LINK_UP (R17). -/
  | linkUp (link : Nat)
  /-- TILE_LAST_BYTE_LEFT (R150). -/
  | tileLastByteLeft (i : Nat)
  deriving DecidableEq, Repr, Inhabited

end Sys2Proof
end

