-- ==== Sys2Proof/Machine/Formats.lean ====
section
/-! DEFINITION. Scalar types and their layouts (R204), the element formats of tiles (R197 to R202), and every conversion
between them (R209). -/

namespace Sys2Proof

/-! ## Scalar types -/

/-- The type's code (Table 8.4). -/
def ScalarTy.code : ScalarTy → Nat
  | .ctrl => 0 | .b64 => 1 | .s64 => 2 | .z64 => 3 | .s32 => 4 | .z32 => 5 | .f64 => 6 | .f32 => 7 | .f16 => 8
  | .bf16 => 9 | .pred => 10 | .addr => 11 | .tile => 12 | .framep => 13 | .range => 14 | .status => 15

/-- The type of a code; codes 16 to 31 name none. -/
def ScalarTy.ofCode : Nat → Option ScalarTy
  | 0 => some .ctrl | 1 => some .b64 | 2 => some .s64 | 3 => some .z64 | 4 => some .s32 | 5 => some .z32
  | 6 => some .f64 | 7 => some .f32 | 8 => some .f16 | 9 => some .bf16 | 10 => some .pred | 11 => some .addr
  | 12 => some .tile | 13 => some .framep | 14 => some .range | 15 => some .status
  | _ => none

/-- Width of an integer operand (R278): 32 for S32 and Z32, else 64. -/
def ScalarTy.width : ScalarTy → Nat
  | .s32 | .z32 => 32
  | _ => 64

/-- The type is signed. -/
def ScalarTy.signed : ScalarTy → Bool
  | .s32 | .s64 => true
  | _ => false

/-- The integer types of Table 8.7. -/
def ScalarTy.isInt : ScalarTy → Bool
  | .s32 | .z32 | .s64 | .z64 => true
  | _ => false

/-- The format of a float type. -/
def ScalarTy.float : ScalarTy → Option FloatFmt
  | .f64 => some .f64 | .f32 => some .fp32 | .f16 => some .fp16 | .bf16 => some .bf16
  | _ => none

/-- `ival` (R278). -/
def ival (ty : ScalarTy) (x : W64) : Int :=
  if ty.signed then sext ty.width x.toNat else (bits x.toNat 0 ty.width : Int)

/-- `iput` (R278). -/
def iput (ty : ScalarTy) (v : Int) : W64 :=
  let u := wrapInt ty.width v
  if ty.signed then BitVec.ofInt 64 (sext ty.width u) else BitVec.ofNat 64 u

/-- The bits of a value with those that Table 8.4 fixes for the type set as it states. -/
def ScalarTy.layout (ty : ScalarTy) (x : W64) : W64 :=
  let n := x.toNat
  match ty with
  | .ctrl => 0
  | .b64 | .s64 | .z64 | .f64 | .range | .status => x
  | .s32 => BitVec.ofInt 64 (sext 32 n)
  | .z32 | .f32 => BitVec.ofNat 64 (bits n 0 32)
  | .f16 | .bf16 => BitVec.ofNat 64 (bits n 0 16)
  | .pred => BitVec.ofNat 64 (bits n 0 1)
  | .addr => BitVec.ofNat 64 (bits n 0 55)
  | .tile => BitVec.ofNat 64 (bits n 37 27 * 2 ^ 37)
  | .framep => BitVec.ofNat 64 (bits n 0 36)

/-- A float value's code, from its word. -/
def FloatFmt.codeOf (f : FloatFmt) (x : W64) : Nat := bits x.toNat 0 f.width

/-- `fval` (R278). -/
def fval (f : FloatFmt) (x : W64) : Val := f.val (f.codeOf x)

/-- Bounds of an integer type. -/
def intBounds (signed : Bool) (w : Nat) : Int × Int :=
  if signed then (-(2 ^ (w - 1) : Nat), (2 ^ (w - 1) : Nat) - 1) else (0, (2 ^ w : Nat) - 1)

/-- Clamp to the nearer bound; true when the bound is taken. -/
def clampInt (lo hi v : Int) : Int × Bool :=
  if v < lo then (lo, true) else if hi < v then (hi, true) else (v, false)

/-- Float → integer (Table 8.7): NaN gives 0, a rounded value beyond the range the nearer bound. -/
def floatToInt (lo hi : Int) (x : Val) (mode : RMode) (h : Nat) : Int × Flags :=
  match x with
  | .nan _ => (0, flIV)
  | .inf n => (if n then lo else hi, flIV)
  | .zero _ => (0, flNone)
  | .fin n m e s =>
    let (v, ix) := roundInt n m e s mode h
    let (c, out) := clampInt lo hi v
    (c, if out then flIV else flWhen ix flIX)

/-- Float → float (Table 8.7): IV for a signalling NaN, or a NaN that meets a target without one. -/
def floatToFloat (f : FloatFmt) (x : Val) (mode : RMode) (sat : Bool) (h : Nat) : Nat × Flags :=
  match x with
  | .nan s => (f.nanCode, flWhen (s || !f.hasNan) flIV)
  | _ => roundTo f x mode sat h

/-- A pair that Table 8.7 defines (ADDR from a value with bits [63:55] set is undefined at run time only). -/
def cvtDefined (into from_ : ScalarTy) : Bool :=
  let special : ScalarTy → Bool := fun t => t == .ctrl || t == .tile || t == .framep || t == .range || t == .status
  if special into || special from_ then false
  else if into = from_ then true
  else if into.float.isSome && from_.float.isSome then true
  else if into.isInt && from_.float.isSome then true
  else if into.float.isSome && from_.isInt then true
  else if into.isInt && from_.isInt then true
  else match into, from_ with
    | .b64, .s64 | .b64, .z64 | .b64, .f64 | .s64, .b64 | .z64, .b64 | .f64, .b64 => true
    | .addr, .b64 | .addr, .z64 | .b64, .addr | .z64, .addr => true
    | .pred, t => t.isInt
    | t, .pred => t.isInt
    | _, _ => false

/-- The conversions of Table 8.7 between scalar types; none where the table leaves the pair undefined. -/
def cvtScalar (into from_ : ScalarTy) (x : W64) (mode : RMode) (sat : Bool) (h : Nat) : Option (W64 × Flags) :=
  if cvtDefined into from_ = false then none
  else if into = from_ then some (into.layout x, flNone)
  else
    match into.float, from_.float with
    | some f, some g =>
      let (c, fl) := floatToFloat f (fval g x) mode sat h
      some (BitVec.ofNat 64 c, fl)
    | some f, none =>
      if from_.isInt then
        let (c, fl) := roundTo f (intVal (ival from_ x)) mode sat h
        some (BitVec.ofNat 64 c, fl)
      else some (x, flNone)
    | none, some g =>
      if into.isInt then
        let (lo, hi) := intBounds into.signed into.width
        let (v, fl) := floatToInt lo hi (fval g x) mode h
        some (iput into v, fl)
      else some (x, flNone)
    | none, none =>
      match into, from_ with
      | .addr, _ => if bits x.toNat 55 9 = 0 then some (x, flNone) else none
      | .pred, t => some (if ival t x = 0 then 0 else 1, flNone)
      | t, .pred => some (iput t (bits x.toNat 0 1), flNone)
      | t, u =>
        if t.isInt && u.isInt then
          let (lo, hi) := intBounds t.signed t.width
          let (v, out) := clampInt lo hi (ival u x)
          some (iput t v, flWhen out flIV)
        else if u == .addr then some (ScalarTy.layout .addr x, flNone)
        else some (x, flNone)

/-! ## Element formats -/

/-- Element bits of a format code (Table 8.1); 0 for a reserved code. -/
def elemBits (code : Nat) : Nat :=
  match code with
  | 0x00 => 32 | 0x01 | 0x02 => 16 | 0x03 | 0x04 => 8 | 0x05 | 0x06 => 6 | 0x07 => 4 | 0x08 | 0x09 => 8 | 0x0A | 0x0B => 4
  | 0x0C | 0x0D => 8 | 0x0E | 0x0F => 6 | 0x10 => 4 | 0x11 => 8 | 0x12 => 4 | 0x13 | 0x14 | 0x15 | 0x16 => 4
  | 0x17 | 0x18 | 0x19 | 0x1A => 3 | 0x1B => 2
  | _ => 0

/-- One of the 28 codes of Table 8.1. -/
def fmtAssigned (code : Nat) : Bool := decide (code < 0x1C)

/-- Sets H, U and S of chapter 12, and the group-scaled and ternary codes. -/
def fmtH (c : Nat) : Bool := decide (c ≤ 0x02)
/-- Set U: the unscaled codes. -/
def fmtU (c : Nat) : Bool := decide (c ≤ 0x0B)
/-- Set S. -/
def fmtS (c : Nat) : Bool := decide (c ≤ 0x12)
/-- Codes 0x13 to 0x1B. -/
def fmtG (c : Nat) : Bool := decide (0x13 ≤ c) && decide (c ≤ 0x1B)
/-- The integer codes. -/
def fmtInt (c : Nat) : Bool := decide (0x08 ≤ c) && decide (c ≤ 0x0B)
/-- The formats of proof service (Table 2.6). -/
def fmtProof (c : Nat) : Bool := c == 0x03 || c == 0x04 || c == 0x02 || c == 0x00

/-- The float format of an element code. -/
def elemFloat (code : Nat) : Option FloatFmt :=
  match code with
  | 0x00 => some .fp32 | 0x01 => some .fp16 | 0x02 => some .bf16 | 0x03 | 0x0C => some .e4m3 | 0x04 | 0x0D => some .e5m2
  | 0x05 | 0x0E => some .e3m2 | 0x06 | 0x0F => some .e2m3 | 0x07 | 0x10 | 0x12 => some .e2m1
  | _ => none

/-- Signedness and width of an integer element code. -/
def elemInt (code : Nat) : Option (Bool × Nat) :=
  match code with
  | 0x08 => some (true, 8) | 0x09 => some (false, 8) | 0x0A => some (true, 4) | 0x0B => some (false, 4)
  | _ => none

/-- The exact value of an element, without its scale (R198, R200); `z` is its group's zero point. -/
def elemVal (code raw z : Nat) : Val :=
  match elemFloat code, elemInt code with
  | some f, _ => f.val raw
  | none, some (sg, w) => intVal (if sg then sext w raw else (raw : Int))
  | none, none =>
    match code with
    | 0x11 =>
      let m := sext 8 raw
      mkVal (decide (m < 0)) m.natAbs (-6)
    | 0x13 | 0x14 => intVal (sext 4 raw)
    | 0x15 | 0x16 | 0x19 | 0x1A => intVal ((raw : Int) - z)
    | 0x17 | 0x18 => intVal (sext 3 raw)
    | _ => intVal (match raw with | 1 => 1 | 3 => -1 | _ => 0)

/-- An exact value as an element of an unscaled code (Table 8.7): floats by `round_to`, integers to the nearer bound. -/
def elemPut (code : Nat) (x : Val) (mode : RMode) (sat : Bool) (h : Nat) : Nat :=
  match elemFloat code, elemInt code with
  | some f, _ => (floatToFloat f x mode sat h).1
  | none, some (sg, w) =>
    let (lo, hi) := intBounds sg w
    wrapInt w (floatToInt lo hi x mode h).1
  | none, none =>
    -- MXINT8: a multiple of 2⁻⁶, saturated to −2..127/64 (Table 8.8)
    match x with
    | .fin n m e s => wrapInt 8 (clampInt (-128) 127 (roundInt n m (e + 6) s mode h).1).1
    | .inf n => wrapInt 8 (if n then -128 else 127)
    | _ => 0

/-- The code needs a scale tile: MX, SF4, GW and GT2 (Table 8.3). -/
def fmtScaled (code : Nat) : Bool := decide (0x0C ≤ code) && decide (code ≤ 0x1B)

/-- The value of an E8M0 scale code (R202). -/
def e8m0Val (x : Nat) : Val := if x = 0xFF then .nan false else .fin false 1 ((x : Int) - 127) false

/-- Scale block size of MX and SF4 codes. -/
def scaleBlock (code : Nat) : Nat := if code = 0x12 then 16 else 32

/-- The group size g whose scale-tile row length is `bytes`, for GW and GT2 rows of `cols` elements (R201). -/
def groupSize (code cols bytes : Nat) : Option Nat :=
  [32, 64, 128].find? (fun g =>
    cols % g == 0 &&
      (match code with
        | 0x13 | 0x17 | 0x1B => bytes == 2 * cols / g
        | 0x14 | 0x18 => bytes == cols / g
        | 0x15 | 0x19 => bytes == 2 * cols / g + cdiv cols (2 * g)
        | 0x16 | 0x1A => bytes == cols / g + cdiv cols (2 * g)
        | _ => false))

/-- Bytes of a scale-tile row that the code and a data row of `cols` elements call for, where it is fixed (Table 8.3). -/
def scaleRowBytes (code cols : Nat) : Option Nat :=
  if code = 0x03 || code = 0x08 then some 4
  else if code = 0x12 then (if cols % 16 = 0 then some (cols / 16 + 4) else none)
  else if 0x0C ≤ code && code ≤ 0x11 then (if cols % 32 = 0 then some (cols / 32) else none)
  else none

/-- The factor of element `k` of a data row (R202), from its scale-tile row and, for SF4, row 0 of the scale tile. -/
def scaleFactor (code cols k : Nat) (row row0 : List Byte) : Val :=
  let bf (j : Nat) : Val := FloatFmt.bf16.val (recNat row (2 * j) 2)
  let e4 (j : Nat) : Val := FloatFmt.e4m3.val (recNat row j 1)
  let g := (groupSize code cols row.length).getD 32
  if code = 0x03 || code = 0x08 then FloatFmt.fp32.val (recNat row 0 4)
  else if code = 0x12 then (mulVal (e4 (k / 16)) (FloatFmt.fp32.val (recNat row0 (cols / 16) 4))).1
  else if 0x0C ≤ code && code ≤ 0x11 then e8m0Val (recNat row (k / 32) 1)
  else match code with
    | 0x14 | 0x16 | 0x18 | 0x1A => e4 (k / g)
    | _ => bf (k / g)

/-- The zero point of element `k` of a GW Z-variant row (R201). -/
def zeroPoint (code cols k : Nat) (row : List Byte) : Nat :=
  let g := (groupSize code cols row.length).getD 32
  let start := match code with
    | 0x15 | 0x19 => 2 * cols / g
    | _ => cols / g
  let j := k / g
  let b := recNat row (start + j / 2) 1
  match code with
  | 0x15 | 0x16 | 0x19 | 0x1A => if j % 2 = 0 then bits b 0 4 else bits b 4 4
  | _ => 0

/-- Element `c` of a row of `b`-bit elements (R199). -/
def rowElem (row : List Byte) (b c : Nat) : Nat := bits (leNat row) (b * c) b

/-- The elements of a row. -/
def rowElems (row : List Byte) (b n : Nat) : List Nat :=
  let x := leNat row
  (List.range n).map (fun c => bits x (b * c) b)

/-- The row's little-endian bytes from its elements (R199). -/
def packRow (b : Nat) (es : List Nat) : List Byte :=
  natLe (cdiv (b * es.length) 8) ((es.zipIdx).foldl (fun acc p => acc + p.1 * 2 ^ (b * p.2)) 0)

/-- Bytes of a row of `n` elements of a format at minimal pitch. -/
def rowBytes (code n : Nat) : Nat := cdiv (elemBits code * n) 8

end Sys2Proof
end

