-- ==== Sys2Proof/WellFormed.lean ====
section
/-! DEFINITION. The per-word checks of CODE.LOAD (R253 to R263, Tables 9.3, 10.6, 10.9 to 10.15, 12.3, 12.7): which
decoded words may issue. Checks that need the whole block or image stand with CODE.LOAD. -/

namespace Sys2Proof

/-- Why a word is refused. -/
inductive WfError where
  /-- an unused specifier is not 8, or a destination names no temporary or slot (R254) -/
  | specifier
  /-- a frame slot at or above the frame size (R253) -/
  | slotRange
  /-- `TY`, `TY2`, `STY` or `VTY` outside the form's set (R262, R257, R260) -/
  | typeSet
  /-- `MOD` outside the form's kind (R262) -/
  | modifier
  /-- `TPORT`, `TPOL` or `DPOL` against Table 10.6 -/
  | sendField
  /-- `WID` against Tables 10.9 and 10.14 -/
  | width
  /-- `ORD` or `SCOPE` against Table 9.3 and R263 -/
  | order
  /-- `AOP` against Table 10.14 -/
  | atomic
  /-- `MFLG` against Tables 10.12 and 10.14 -/
  | formFlag
  /-- a format field against Tables 12.3 and 12.7 -/
  | format
  /-- `TRA`, `TRB`, `ACC` or `TMOD` against Tables 10.13 and 12.3 -/
  | tileFlag
  deriving DecidableEq, Repr

/-- What a form makes of a specifier field. -/
inductive Role where
  | unused | source | dest | predDest | slotDest | seed
  deriving DecidableEq, Repr

/-- The specifier suits its role; `sr` says that the word rounds stochastically (R309). -/
def roleOk (sr : Bool) (r : Role) (s : Spec) : Bool :=
  match r, s with
  | .unused, s => s == .zero
  | .source, _ => true
  | .dest, .temp _ => true
  | .dest, .slot _ => true
  | .dest, _ => false
  | .predDest, .temp _ => true
  | .predDest, .slot _ => true
  | .predDest, .lit i => decide (1 ≤ i.val) && decide (i.val ≤ 3)
  | .predDest, _ => false
  | .slotDest, .slot _ => true
  | .slotDest, _ => false
  | .seed, s => sr || s == .zero

/-- A named frame slot lies below the frame size (R253). -/
def slotOk (fsize : Nat) (s : Spec) : Bool :=
  match s with
  | .slot i => decide (i.val < fsize)
  | _ => true

/-- A check, by name. -/
def need (e : WfError) (ok : Bool) : Except WfError Unit := if ok then .ok () else .error e

/-- The type sets of Table 10.11, and those Table 10.12 lists by name. -/
inductive TySet where
  | none | int | sint | logic | float | value | addr | z32z64 | move | cvt | f32bf16 | f32
  deriving DecidableEq, Repr

/-- Membership in a type set. -/
def TySet.has (s : TySet) (ty ty2 : ScalarTy) : Bool :=
  match s with
  | .none => ty == .ctrl
  | .int => ty.isInt
  | .sint => ty == .s32 || ty == .s64
  | .logic => ty == .z32 || ty == .z64 || ty == .b64
  | .float => ty.float.isSome
  | .value => ty != .ctrl
  | .addr => ty == .addr
  | .z32z64 => ty == .z32 || ty == .z64
  | .move => ty == .b64 || ty.float.isSome
  | .cvt => cvtDefined ty ty2
  | .f32bf16 => ty == .f32 || ty == .bf16
  | .f32 => ty == .f32

/-- The modifier kinds of Table 10.11. -/
inductive ModKind where
  | zero | round | roundSat | intCond | floatCond | extWidth | bilv | bdlv | shift | kslot | kslot13 | extract | level
  | rw0 | rw1 | rw2
  deriving DecidableEq, Repr

/-- The modifier lies in its kind. -/
def ModKind.has (k : ModKind) (mod : BitVec 8) (c : Spec) : Bool :=
  let m := mod.toNat
  match k with
  | .zero => m == 0
  | .round => decide (m ≤ 5)
  | .roundSat => decide (bits m 0 3 ≤ 5) && decide (m < 16)
  | .intCond => decide (m ≤ 5)
  | .floatCond => decide (bits m 0 4 ≤ 7) && decide (m < 32)
  | .extWidth => decide (m ≤ 2)
  | .bilv => decide (m ≤ 1) && (m == 1 || c == .zero)
  | .bdlv => decide (m < 8) && decide (bits m 1 2 < 2 + bits m 0 1)
  | .shift => decide (m < 8)
  | .kslot => decide (m < 16)
  | .kslot13 => decide (m ≤ 12)
  | .extract => decide (m ≤ 1)
  | .level => decide (m ≤ 1)
  | .rw0 => m == 0
  | .rw1 => m == 1
  | .rw2 => m == 2

/-- The word rounds stochastically: mode 5 of kinds RN and RM. -/
def ModKind.sr (k : ModKind) (mod : BitVec 8) : Bool :=
  match k with
  | .round | .roundSat => bits mod.toNat 0 3 == 5
  | _ => false

/-- R-format words. -/
def wfR (fsize : Nat) (w : RWord) (d a b c : Role) (ty : TySet) (mk : ModKind) : Except WfError Unit := do
  let sr := mk.sr w.mod
  need .typeSet (ty.has w.ty w.ty2 && (ty == .cvt || w.ty2 == .ctrl))
  need .modifier (mk.has w.mod w.c)
  need .specifier (roleOk sr d w.d && roleOk sr a w.a && roleOk sr b w.b && roleOk sr c w.c)
  need .slotRange (slotOk fsize w.d && slotOk fsize w.a && slotOk fsize w.b && slotOk fsize w.c)

/-- I-format words. -/
def wfI (fsize : Nat) (w : IWord) (d a : Role) : Except WfError Unit := do
  need .specifier (roleOk false d w.d && roleOk false a w.a && w.b == .zero)
  need .slotRange (slotOk fsize w.d && slotOk fsize w.a)

/-- S-format words (Table 10.6): whether TPORT must be 0, TPOL may be 1, D is used without TPOL 1. -/
def wfS (fsize : Nat) (w : SWord) (anyPort operandTag usesD : Bool) : Except WfError Unit := do
  need .sendField ((anyPort || w.tport == .l) && (operandTag || w.tpol != .operand))
  need .specifier (usesD || w.tpol == .operand || w.d == .zero)
  need .slotRange (slotOk fsize w.d && slotOk fsize w.a && slotOk fsize w.b)

/-- STEAL (R257, R296). -/
def wfSteal (fsize : Nat) (w : SWord) : Except WfError Unit := do
  need .typeSet (w.sty == .range)
  need .sendField (w.tpol == .outgoing && w.dpol == .outgoing)
  need .specifier (w.d == .zero)
  need .slotRange (slotOk fsize w.a && slotOk fsize w.b)

/-- The value type of a memory form (`MFLG`[4:0]). -/
def MWord.vty (w : MWord) : Option ScalarTy := ScalarTy.ofCode (bits w.mflg.toNat 0 5)

/-- `WID` and `VTY` agree as in Table 10.9. -/
def widthOk (w : MWord) : Bool :=
  match w.wid.toNat, w.vty with
  | 0, some t => t == .s64 || t == .z64
  | 1, some t => t == .s64 || t == .z64
  | 2, some t => t == .s32 || t == .z32 || t == .f32
  | 3, some t => t == .b64 || t == .s64 || t == .z64 || t == .f64 || t == .addr
  | _, _ => false

/-- `AOP` and `VTY` agree as in Table 10.14. -/
def aopOk (w : MWord) : Bool :=
  match w.aop.toNat, w.vty with
  | 0, some t | 1, some t | 2, some t | 8, some t => t.isInt
  | 3, some t | 4, some t | 5, some t => t == .z32 || t == .z64 || t == .b64
  | 6, some _ | 7, some _ => true
  | 9, some t => t == .f32
  | 10, some t => t == .z32 && w.wid == 2
  | _, _ => false

/-- The specifiers of an M-format word. -/
def wfMSpecs (fsize : Nat) (w : MWord) (a b d : Role) : Except WfError Unit := do
  need .specifier (roleOk false a w.a && roleOk false b w.b && roleOk false d w.d)
  need .slotRange (slotOk fsize w.a && slotOk fsize w.b && slotOk fsize w.d)

/-- M-format words outside the memory forms: `ORD`, `SCOPE`, `WID` and `AOP` zero (R263). -/
def wfM (fsize : Nat) (w : MWord) (a b d : Role) (flagOk : Bool) : Except WfError Unit := do
  need .width (w.wid == 0)
  need .order (w.ord == .relaxed && w.scope == .frame)
  need .atomic (w.aop == 0)
  need .formFlag flagOk
  wfMSpecs fsize w a b d

/-- Scalar memory forms (Tables 9.3, 10.14): the orders allowed, and whether WID 0 and 1 are. -/
def wfMem (fsize : Nat) (w : MWord) (a b d : Role) (orders : List MemOrder) (narrow atomic : Bool) : Except WfError Unit := do
  need .typeSet (w.vty.isSome)
  need .width (widthOk w && (narrow || decide (2 ≤ w.wid.toNat)))
  need .order (orders.contains w.ord)
  need .atomic (if atomic then aopOk w else w.aop == 0)
  need .formFlag (decide (w.mflg.toNat < 32))
  wfMSpecs fsize w a b (if atomic then (if w.aop.toNat = 7 then .source else .unused) else d)

/-- Tile memory forms, DRAIN, WCFLUSH and PREF. -/
def wfTMem (fsize : Nat) (w : MWord) (a b d : Role) (anyScope flagOk : Bool) : Except WfError Unit := do
  need .width (w.wid == 0)
  need .order (w.ord == .relaxed && (anyScope || w.scope == .dev))
  need .atomic (w.aop == 0)
  need .formFlag flagOk
  wfMSpecs fsize w a b d

/-- The specifiers of a T-format word. -/
def wfTSpecs (fsize : Nat) (w : TWord) (a b d : Role) : Except WfError Unit := do
  need .specifier (roleOk false a w.a && roleOk false b w.b && roleOk false d w.d)
  need .slotRange (slotOk fsize w.a && slotOk fsize w.b && slotOk fsize w.d)

/-- T-format words: the formats listed, and the flags and TMOD allowed. -/
def wfT (fsize : Nat) (w : TWord) (a b d : Role) (fmt flags : Bool) : Except WfError Unit := do
  need .format (fmt && decide (w.fa.toNat < 0x1C) && decide (w.fb.toNat < 0x1C) && decide (w.fc.toNat < 0x1C))
  need .tileFlag flags
  wfTSpecs fsize w a b d

/-- Flags of a T-format word, all of which must be zero but those named. -/
def TWord.plain (w : TWord) (acc tra : Bool) (tmodMax : Nat) : Bool :=
  (acc || !w.acc) && (tra || !w.tra) && !w.trb && decide (w.tmod.toNat ≤ tmodMax)

/-- The pairs of MMA (Table 12.7), as listed. -/
def mmaListed (a b : Nat) : Bool :=
  let f8 : Nat → Bool := fun c => c == 3 || c == 4
  let f64 : Nat → Bool := fun c => c == 5 || c == 6 || c == 7
  let h16 : Nat → Bool := fun c => c == 1 || c == 2
  let i8 : Nat → Bool := fun c => c == 8 || c == 9
  let i4 : Nat → Bool := fun c => c == 10 || c == 11
  (a == 0 && b == 0) || (h16 a && (h16 b || f8 b || f64 b)) || (f8 a && (f8 b || f64 b)) || (f64 a && f64 b)
    || (i8 a && (i8 b || i4 b)) || (i4 a && i4 b)

/-- The pairs of MMAX (Table 12.7), as listed. -/
def mmaxListed (a b : Nat) : Bool :=
  let m8 : Nat → Bool := fun c => c == 0x0C || c == 0x0D || c == 0x11
  let mx : Nat → Bool := fun c => decide (0x0C ≤ c) && decide (c ≤ 0x12)
  let small : Nat → Bool := fun c => c == 0x0E || c == 0x0F || c == 0x10 || c == 0x12
  (m8 a && mx b) || (small a && small b)

/-- A legal operand pair of each matrix form (R352). -/
def pairOk (form : Nat) (a b : Nat) : Bool :=
  match form with
  | 0 => mmaListed a b || mmaListed b a
  | 1 => ((a == 3 || a == 4 || a == 8 || a == 9) && mmaListed a b) || ((a == 1 || a == 2) && (b == 1 || b == 2))
  | 2 => (decide (1 ≤ a) && decide (a ≤ 4)) && fmtG b
  | _ => mmaxListed a b || mmaxListed b a

/-- Both operands are integer codes: the integer path, if neither carries a scale (R353). -/
def intPair (a b : Nat) : Bool := fmtInt a && fmtInt b

/-- The formats of TRED and TSCAN (R342). -/
def tredFormats (w : TWord) : Bool :=
  let a := w.fa.toNat
  let c := w.fc.toNat
  w.fb.toNat == 0 &&
    (if w.tmod == 0 then (if w.tra then fmtU a else fmtS a) && (if fmtInt a then c == 0 else fmtH c)
     else fmtU a && c == a)

/-- The checks of one decoded word of a block with frames of `fsize` slots. -/
def wellFormed (fsize : Nat) (i : Instr) : Except WfError Unit :=
  match i with
  | .send w => wfS fsize w true true false
  | .send2 w => wfS fsize w false false true
  | .sendx w => wfS fsize w true true false
  | .steer w => wfS fsize w true false true
  | .merge w => wfS fsize w false false true
  | .falloc w => wfM fsize w .source .source .unused (w.mflg == 0)
  | .ffree w => wfR fsize w .unused .source .unused .unused .none .zero
  | .flimit w => wfR fsize w .unused .source .source .unused .none .zero
  | .ldf w => wfR fsize w .dest .source .unused .unused .none .zero
  | .stf w => wfR fsize w .unused .source .source .unused .none .zero
  | .tags w => wfR fsize w .unused .source .unused .unused .none .zero
  | .tagi w => wfI fsize w .unused .unused
  | .dims w => wfR fsize w .unused .source .unused .unused .none .zero
  | .drop w => wfR fsize w .slotDest .unused .unused .unused .none .zero
  | .keep w => wfR fsize w .slotDest .source .unused .unused .none .zero
  | .skip w => wfR fsize w .unused .unused .unused .unused .none .zero
  | .rsplit w => wfR fsize w .dest .source .unused .unused .none .zero
  | .steal w => wfSteal fsize w
  | .gdone w => wfR fsize w .unused .unused .unused .unused .none .zero
  | .cancel w => wfR fsize w .unused .source .unused .unused .none .level
  | .add w => wfR fsize w .dest .source .source .unused .int .zero
  | .sub w => wfR fsize w .dest .source .source .unused .int .zero
  | .mul w => wfR fsize w .dest .source .source .unused .int .zero
  | .mulh w => wfR fsize w .dest .source .source .unused .int .zero
  | .mad w => wfR fsize w .dest .source .source .source .int .zero
  | .div w => wfR fsize w .dest .source .source .unused .int .zero
  | .rem w => wfR fsize w .dest .source .source .unused .int .zero
  | .neg w => wfR fsize w .dest .source .unused .unused .sint .zero
  | .abs w => wfR fsize w .dest .source .unused .unused .sint .zero
  | .min w => wfR fsize w .dest .source .source .unused .int .zero
  | .max w => wfR fsize w .dest .source .source .unused .int .zero
  | .and w => wfR fsize w .dest .source .source .unused .logic .zero
  | .or w => wfR fsize w .dest .source .source .unused .logic .zero
  | .xor w => wfR fsize w .dest .source .source .unused .logic .zero
  | .not w => wfR fsize w .dest .source .unused .unused .logic .zero
  | .andn w => wfR fsize w .dest .source .source .unused .logic .zero
  | .shl w => wfR fsize w .dest .source .source .unused .logic .zero
  | .shr w => wfR fsize w .dest .source .source .unused .logic .zero
  | .sar w => wfR fsize w .dest .source .source .unused .sint .zero
  | .rol w => wfR fsize w .dest .source .source .unused .logic .zero
  | .ror w => wfR fsize w .dest .source .source .unused .logic .zero
  | .clz w => wfR fsize w .dest .source .unused .unused .logic .zero
  | .ctz w => wfR fsize w .dest .source .unused .unused .logic .zero
  | .popc w => wfR fsize w .dest .source .unused .unused .logic .zero
  | .brev w => wfR fsize w .dest .source .unused .unused .logic .zero
  | .bfx w => wfR fsize w .dest .source .source .unused .int .zero
  | .bfi w => wfR fsize w .dest .source .source .source .logic .zero
  | .bilv w => wfR fsize w .dest .source .source .source .z32z64 .bilv
  | .bdlv w => wfR fsize w .dest .source .unused .unused .z32z64 .bdlv
  | .cmp w => wfR fsize w .predDest .source .source .unused .int .intCond
  | .sel w => wfR fsize w .dest .source .source .source .value .zero
  | .mov w => wfR fsize w .dest .source .unused .unused .move .zero
  | .movi w => wfI fsize w .dest .unused
  | .movh w => wfI fsize w .dest .source
  | .lea w => wfR fsize w .dest .source .source .unused .addr .shift
  | .ext w => wfR fsize w .dest .source .unused .unused .int .extWidth
  | .fadd w => wfR fsize w .dest .source .source .seed .float .round
  | .fsub w => wfR fsize w .dest .source .source .seed .float .round
  | .fmul w => wfR fsize w .dest .source .source .seed .float .round
  | .ffma w => wfR fsize w .dest .source .source .source .float .round
  | .fdiv w => wfR fsize w .dest .source .source .seed .float .round
  | .fsqrt w => wfR fsize w .dest .source .seed .unused .float .round
  | .frcp w => wfR fsize w .dest .source .seed .unused .float .round
  | .frsq w => wfR fsize w .dest .source .seed .unused .float .round
  | .fmin w => wfR fsize w .dest .source .source .unused .float .zero
  | .fmax w => wfR fsize w .dest .source .source .unused .float .zero
  | .fminn w => wfR fsize w .dest .source .source .unused .float .zero
  | .fmaxn w => wfR fsize w .dest .source .source .unused .float .zero
  | .fabs w => wfR fsize w .dest .source .unused .unused .float .zero
  | .fneg w => wfR fsize w .dest .source .unused .unused .float .zero
  | .fcps w => wfR fsize w .dest .source .source .unused .float .zero
  | .fcmp w => wfR fsize w .predDest .source .source .unused .float .floatCond
  | .fcls w => wfR fsize w .dest .source .unused .unused .float .zero
  | .frnd w => wfR fsize w .dest .source .seed .unused .float .round
  | .fscl w => wfR fsize w .dest .source .source .seed .float .round
  | .fxtr w => wfR fsize w .dest .source .unused .unused .float .extract
  | .cvt w => wfR fsize w .dest .source .seed .unused .cvt .roundSat
  | .pwld w => wfM fsize w .source .unused .unused (decide (w.mflg.toNat < 16))
  | .pwev w => wfR fsize w .dest .source .unused .unused .f32bf16 .kslot
  | .lutld w => wfM fsize w .source .unused .unused (decide (w.mflg.toNat ≤ 12))
  | .lutev w => wfR fsize w .dest .source .unused .unused .f32 .kslot13
  | .talloc w => wfT fsize w .source .unused .unused (w.fa.toNat == 0 && w.fb.toNat == 0 && fmtU w.fc.toNat) (w.plain false false 0)
  | .tfree w => wfT fsize w .source .unused .unused (w.fa.toNat == 0 && w.fb.toNat == 0 && w.fc.toNat == 0) (w.plain false false 0)
  | .tdesc w => wfT fsize w .source .source .unused (w.fa.toNat == 0 && w.fb.toNat == 0 && w.fc.toNat == 0) (w.plain false false 0)
  | .tview w => wfT fsize w .source .source .source (w.fb.toNat == 0 && (w.fc.toNat == w.fa.toNat || (fmtU w.fc.toNat && elemBits w.fc.toNat == elemBits w.fa.toNat))) (w.plain false false 0)
  | .tfill w => wfT fsize w .source .source .unused (w.fa.toNat == 0 && w.fb.toNat == 0 && fmtU w.fc.toNat) (w.plain false false 0)
  | .tcopy w => wfT fsize w .source .source .unused (w.fb.toNat == 0 && w.fc.toNat == w.fa.toNat) (w.plain true false 0)
  | .tcvt w => wfT fsize w .source (if w.tmod == 5 then .source else .unused) .unused (fmtS w.fa.toNat && w.fb.toNat == 0 && fmtU w.fc.toNat && (!w.acc || w.fa.toNat == 0)) (w.plain true false 5)
  | .tqnt w => wfT fsize w .source (if w.fc.toNat == 0x12 then .source else .unused) (if w.tmod == 5 then .source else .unused) (fmtH w.fa.toNat && w.fb.toNat == 0 && (w.fc.toNat == 3 || w.fc.toNat == 8 || (decide (0x0C ≤ w.fc.toNat) && decide (w.fc.toNat ≤ 0x12)))) (w.plain false false 5)
  | .tadd w => wfT fsize w .source .source .unused (fmtH w.fa.toNat && fmtH w.fb.toNat && fmtH w.fc.toNat) (w.plain true false 0)
  | .tsub w => wfT fsize w .source .source .unused (fmtH w.fa.toNat && fmtH w.fb.toNat && fmtH w.fc.toNat) (w.plain true false 0)
  | .tmul w => wfT fsize w .source .source .unused (fmtH w.fa.toNat && fmtH w.fb.toNat && fmtH w.fc.toNat) (w.plain true false 0)
  | .tfma w => wfT fsize w .source .source .source (fmtH w.fa.toNat && fmtH w.fb.toNat && fmtH w.fc.toNat) (w.plain true false 0)
  | .tmin w => wfT fsize w .source .source .unused (fmtH w.fa.toNat && w.fb.toNat == w.fa.toNat && w.fc.toNat == w.fa.toNat) (w.plain true false 0)
  | .tmax w => wfT fsize w .source .source .unused (fmtH w.fa.toNat && w.fb.toNat == w.fa.toNat && w.fc.toNat == w.fa.toNat) (w.plain true false 0)
  | .tabs w => wfT fsize w .source .unused .unused (fmtH w.fa.toNat && w.fb.toNat == 0 && w.fc.toNat == w.fa.toNat) (w.plain true false 0)
  | .tneg w => wfT fsize w .source .unused .unused (fmtH w.fa.toNat && w.fb.toNat == 0 && w.fc.toNat == w.fa.toNat) (w.plain true false 0)
  | .tcmp w => wfT fsize w .source .source .unused (fmtH w.fa.toNat && w.fb.toNat == w.fa.toNat && w.fc.toNat == 9) (w.plain false false 7)
  | .tsel w => wfT fsize w .source .source .source (w.fa.toNat == 9 && fmtU w.fb.toNat && w.fc.toNat == w.fb.toNat) (w.plain false false 0)
  | .tpwp w => wfT fsize w .source .unused .unused ((w.fa.toNat == 0 || w.fa.toNat == 2) && decide (w.fb.toNat < 16) && (w.fc.toNat == 0 || w.fc.toNat == 2)) (w.plain false false 0)
  | .tlut w => wfT fsize w .source .unused .unused ((w.fa.toNat == 0 || w.fa.toNat == 2) && decide (w.fb.toNat ≤ 12) && w.fc.toNat == 0) (w.plain false false 0)
  | .tred w => wfT fsize w .source .unused .unused (tredFormats w) (w.plain false true 2)
  | .tscan w => wfT fsize w .source .unused .unused (tredFormats w) (w.plain false true 2)
  | .tbcst w => wfT fsize w .source .source .unused (fmtU w.fa.toNat && w.fb.toNat == 0 && w.fc.toNat == w.fa.toNat) (w.plain false false 1)
  | .ttrn w => wfT fsize w .source .unused .unused (fmtU w.fa.toNat && w.fb.toNat == 0 && w.fc.toNat == w.fa.toNat) (w.plain false false 0)
  | .tgth w => wfT fsize w .source .source .unused (fmtU w.fa.toNat && w.fb.toNat == 0 && w.fc.toNat == w.fa.toNat) (w.plain false false 1)
  | .tsct w => wfT fsize w .source .source .source (fmtU w.fa.toNat && w.fb.toNat == 0 && w.fc.toNat == w.fa.toNat) (w.plain false false 1)
  | .tget w => wfT fsize w .source .source .unused (fmtU w.fa.toNat && w.fb.toNat == 0 && w.fc.toNat == 0 && (!w.acc || w.fa.toNat == 0)) (w.plain true false 0)
  | .tset w => wfT fsize w .source .source .source (fmtU w.fa.toNat && w.fb.toNat == 0 && w.fc.toNat == 0 && (!w.acc || w.fa.toNat == 0)) (w.plain true false 0)
  | .tspl w => wfT fsize w .source .source .unused (fmtU w.fa.toNat && w.fb.toNat == 0 && w.fc.toNat == w.fa.toNat) (w.plain false false 1 && w.cport == .l)
  | .tcat w => wfT fsize w .source .source .unused (fmtU w.fa.toNat && w.fb.toNat == w.fa.toNat && w.fc.toNat == w.fa.toNat) (w.plain false false 1)
  | .racc w => wfT fsize w .source .source .source (w.fa.toNat == 0 && fmtH w.fb.toNat && fmtH w.fc.toNat) (w.plain false false 7 && decide (1 ≤ w.tmod.toNat))
  | .racs w => wfT fsize w .source .source .source ((w.fa.toNat == 0 || w.fa.toNat == 2) && w.fb.toNat == 0 && (w.fc.toNat == 0 || w.fc.toNat == 2)) (w.plain false false 7 && decide (1 ≤ w.tmod.toNat))
  | .mma w => wfT fsize w .source .source (if w.acc then .source else .unused) (pairOk 0 w.fa.toNat w.fb.toNat && fmtH w.fc.toNat && (!w.acc || w.fc.toNat == 0)) ((true || (!w.tra && !w.trb)) && w.tmod == 0)
  | .mmas w => wfT fsize w .source .source (if w.acc then .source else .unused) (pairOk 1 w.fa.toNat w.fb.toNat && fmtH w.fc.toNat && (!w.acc || w.fc.toNat == 0)) ((false || (!w.tra && !w.trb)) && w.tmod == 0)
  | .mmaw w => wfT fsize w .source .source (if w.acc then .source else .unused) (pairOk 2 w.fa.toNat w.fb.toNat && fmtH w.fc.toNat && (!w.acc || w.fc.toNat == 0)) ((false || (!w.tra && !w.trb)) && w.tmod == 0)
  | .mmax w => wfT fsize w .source .source (if w.acc then .source else .unused) (pairOk 3 w.fa.toNat w.fb.toNat && fmtH w.fc.toNat && (!w.acc || w.fc.toNat == 0)) ((false || (!w.tra && !w.trb)) && w.tmod == 0)
  | .ld w => wfMem fsize w .source .unused .unused [.relaxed] true false
  | .st w => wfMem fsize w .source .source .unused [.relaxed] true false
  | .lda w => wfMem fsize w .source .unused .unused [.acquire] true false
  | .str w => wfMem fsize w .source .source .unused [.release] true false
  | .atom w => wfMem fsize w .source .source .unused [.relaxed, .acquire, .release, .acquireRelease] false true
  | .atmn w => wfMem fsize w .source .source .unused [.relaxed, .acquire, .release, .acquireRelease] false true
  | .drain w => wfTMem fsize w .unused .unused .unused true (w.mflg == 0)
  | .watch w => wfMem fsize w .source .source .source [.relaxed, .acquire] false false
  | .tld w => wfTMem fsize w .source .source .source true (decide (w.mflg.toNat < 0x1C))
  | .tst w => wfTMem fsize w .source .source .source true (decide (w.mflg.toNat < 0x1C))
  | .tldi w => wfTMem fsize w .source .source .source true (decide (w.mflg.toNat < 0x1C))
  | .tsti w => wfTMem fsize w .source .source .source true (decide (w.mflg.toNat < 0x1C))
  | .wcflush w => wfTMem fsize w .unused .unused .unused false (w.mflg == 0)
  | .pref w => wfTMem fsize w .source .source .unused false (w.mflg == 0)
  | .cpy w => wfM fsize w .source (if w.mflg.toNat < 16 then .unused else .source) (if w.mflg.toNat < 16 then .unused else .source) (decide (w.mflg.toNat < 32))
  | .cpyr w => wfM fsize w .unused (if w.mflg.toNat < 16 then .unused else .source) (if w.mflg.toNat < 16 then .unused else .source) (decide (w.mflg.toNat < 32))
  | .wcfg w => wfM fsize w .source .unused .unused (w.mflg == 0)
  | .wgo w => wfM fsize w .source .source .source (w.mflg == 0)
  | .wpar w => wfM fsize w .source .source .unused (decide (w.mflg.toNat ≤ 6))
  | .wstop w => wfM fsize w .source .unused .unused (w.mflg == 0)
  | .wstat w => wfM fsize w .source .unused .unused (w.mflg == 0)
  | .ropen w => wfM fsize w .source .unused .unused (w.mflg == 0)
  | .rsel w => wfM fsize w .source .source .source (w.mflg == 0)
  | .rrow w => wfM fsize w .source .source .source (w.mflg == 0)
  | .rcloseSel w => wfM fsize w .source .unused .unused (w.mflg == 0)
  | .rcloseFin w => wfM fsize w .source .unused .unused (w.mflg == 1)
  | .rcomb w => wfM fsize w .source .source .unused (w.mflg == 0)
  | .rbias w => wfM fsize w .source .unused .unused (w.mflg == 0)
  | .rstat w => wfM fsize w .source .unused .unused (w.mflg == 0)
  | .svrd w => wfR fsize w .dest .source .unused .unused .none .zero
  | .svwr w => wfM fsize w .source .source .unused (w.mflg == 0)
  | .cntrd w => wfM fsize w .source .unused .unused (decide (w.mflg.toNat ≤ 2))
  | .tick w => wfM fsize w .source .unused .unused (w.mflg == 0)
  | .expo w => wfM fsize w .source .unused .unused (w.mflg == 0)
  | .clk w => wfR fsize w .dest .source .unused .unused .none .zero
  | .perfGet w => wfR fsize w .dest .source .unused .unused .none .rw0
  | .perfSet w => wfR fsize w .unused .source .source .unused .none .rw1
  | .flagsGet w => wfR fsize w .dest .unused .unused .unused .none .rw0
  | .flagsSet w => wfR fsize w .unused .source .unused .unused .none .rw1
  | .flagsJoin w => wfR fsize w .unused .source .unused .unused .none .rw2
  | .trap w => wfI fsize w .unused .unused
  | .brk w => wfI fsize w .unused .unused
  | .nop w => wfR fsize w .unused .unused .unused .unused .none .zero
  | .fundamentalReset => .ok ()
  | .auxPowerLoss => .ok ()
  | .mainUndervoltage => .ok ()
  | .hkcFault _ => .ok ()
  | .temperatureThreshold _ _ => .ok ()
  | .powerCapWindow _ _ => .ok ()
  | .fwmboxChunk _ => .ok ()
  | .fwVerify => .ok ()
  | .proofServiceEntry _ => .ok ()
  | .fullServiceEntry _ => .ok ()
  | .spdmRequest _ _ _ => .ok ()
  | .ideCheckFail _ => .ok ()
  | .cxlLinkState _ _ => .ok ()
  | .yilyelLaneFail _ _ _ => .ok ()
  | .dataFlit _ _ => .ok ()
  | .idleFlit _ _ => .ok ()
  | .retryRequest _ _ => .ok ()
  | .timeMark _ _ => .ok ()
  | .timeMarkSend => .ok ()
  | .tileTransfer _ => .ok ()
  | .readRequest _ => .ok ()
  | .writeRequest _ => .ok ()
  | .atomicRequest _ => .ok ()
  | .watchRequest _ => .ok ()
  | .response _ => .ok ()
  | .selectionRecord _ => .ok ()
  | .endMark _ => .ok ()
  | .slotReturn _ => .ok ()
  | .counts _ => .ok ()
  | .row _ => .ok ()
  | .rowAcknowledgement _ => .ok ()
  | .finalMark _ => .ok ()
  | .outputRowRead _ => .ok ()
  | .outputRowData _ => .ok ()
  | .releaseMark _ => .ok ()
  | .readyMark _ => .ok ()
  | .countTotals _ => .ok ()
  | .cancelMark _ => .ok ()
  | .curtain _ => .ok ()
  | .laneMap _ => .ok ()
  | .hostResponse _ _ _ => .ok ()
  | .cxlMemRead _ _ => .ok ()
  | .cxlMemWrite _ _ _ => .ok ()
  | .registerWrite _ _ _ => .ok ()
  | .qprod _ _ => .ok ()
  | .queueEnable _ _ => .ok ()
  | .qerrClear _ _ => .ok ()
  | .ccons _ _ => .ok ()
  | .eventRingEnable _ => .ok ()
  | .evcons _ => .ok ()
  | .msixVectorUnmask _ => .ok ()
  | .commandAccept _ => .ok ()
  | .jobOpen _ => .ok ()
  | .jobClose _ => .ok ()
  | .jobCancel _ => .ok ()
  | .mapSet _ => .ok ()
  | .wallSet _ => .ok ()
  | .slotSet _ => .ok ()
  | .codeLoad _ => .ok ()
  | .graphStart _ => .ok ()
  | .graphBatch _ => .ok ()
  | .phaseOpen _ => .ok ()
  | .svarSet _ => .ok ()
  | .tickSet _ => .ok ()
  | .floorAlloc _ => .ok ()
  | .floorFree _ => .ok ()
  | .faultResolve _ => .ok ()
  | .cellarGrow _ => .ok ()
  | .preempt _ => .ok ()
  | .saveEnd _ => .ok ()
  | .resume _ => .ok ()
  | .ckpt _ _ => .ok ()
  | .restore _ _ => .ok ()
  | .tokenArrival _ => .ok ()
  | .matchToken _ => .ok ()
  | .firingIssue _ => .ok ()
  | .issueRecoveryEnd _ => .ok ()
  | .rateWindow _ => .ok ()
  | .spill _ _ => .ok ()
  | .refill _ _ => .ok ()
  | .fallocRequest _ _ _ => .ok ()
  | .remoteFfree _ => .ok ()
  | .stealRequestArrival _ => .ok ()
  | .tileArrival _ _ => .ok ()
  | .tileFree _ _ => .ok ()
  | .tileOpStart _ _ _ => .ok ()
  | .tileOpDone _ _ => .ok ()
  | .mmaStart _ _ _ => .ok ()
  | .mmaDone _ _ _ => .ok ()
  | .walkerElement _ _ _ => .ok ()
  | .copyRequest _ _ _ => .ok ()
  | .memoryPerform _ _ _ => .ok ()
  | .watchTimeout _ => .ok ()
  | .wcEntryWrite _ _ => .ok ()
  | .pageWalk _ _ => .ok ()
  | .faultRecordWrite _ => .ok ()
  | .floorLit _ _ => .ok ()
  | .backgroundZero _ _ _ => .ok ()
  | .patrolScrub _ _ _ _ => .ok ()
  | .roomSafelight _ => .ok ()
  | .roomWake _ => .ok ()
  | .bankSafelight _ _ => .ok ()
  | .bankWake _ _ => .ok ()
  | .eccError _ _ _ => .ok ()
  | .coreRetire _ _ => .ok ()
  | .instanceCancelMark _ _ _ => .ok ()
  | .instanceCompleteCheck _ _ => .ok ()
  | .primedTokensPlace _ _ => .ok ()
  | .tickEdge _ => .ok ()
  | .quiescenceTimeout _ _ => .ok ()
  | .auxiliaryInputPresent _ => .ok ()
  | .linkUp _ => .ok ()
  | .tileLastByteLeft _ => .ok ()

/-- The word passes every check. -/
def isWellFormed (fsize : Nat) (i : Instr) : Bool :=
  match wellFormed fsize i with
  | .ok _ => true
  | .error _ => false

end Sys2Proof
end

