-- ==== Sys2Proof/Decode.lean ====
section
/-! DEFINITION. The decoder of instruction words (R251 to R263), total on any 64 bits and refusing by name; the decoder
of MATCH words (R259); and the encoder, written from the same tables. -/

namespace Sys2Proof

/-- Why a word decodes to nothing. -/
inductive DecodeError where
  /-- an opcode that R263 does not assign -/
  | unassigned
  /-- MATCH declares an entry and never issues (R259) -/
  | matchWord
  /-- not a MATCH word where one is wanted -/
  | notMatch
  /-- a reserved bit is set -/
  | reservedBit
  /-- a type code 16 to 31 (R204) -/
  | typeCode
  /-- `TPORT` or `CPORT` 3 -/
  | port
  /-- `TPOL` 3 -/
  | tagPolicy
  /-- `DPOL` 3 -/
  | dimPolicy
  /-- `SCOPE` 6 or 7 -/
  | scope
  /-- `MODE` or `ARITY` of a MATCH word (R259) -/
  | mode
  /-- a field of a MATCH word that must hold a fixed value (R252, R259) -/
  | fixedField
  deriving DecidableEq, Repr

/-! ## Fields -/

/-- The specifier of a six-bit value (Table 10.3). -/
def Spec.ofCode (n : Nat) : Spec :=
  if n < 8 then .temp (Fin.ofNat 8 n)
  else if n < 16 then
    match n with
    | 8 => .zero | 9 => .frame | 10 => .tag | 11 => .core | 12 => .job | 13 => .lane | 14 => .dim | _ => .type
  else if n < 32 then .lit (Fin.ofNat 16 (n - 16))
  else .slot (Fin.ofNat 32 (n - 32))

/-- The six-bit value of a specifier (Table 10.3). -/
def Spec.code : Spec → Nat
  | .temp i => i.val
  | .zero => 8 | .frame => 9 | .tag => 10 | .core => 11 | .job => 12 | .lane => 13 | .dim => 14 | .type => 15
  | .lit i => 16 + i.val
  | .slot i => 32 + i.val

/-- The type of a five-bit code, by name where there is none. -/
def typeOf (n : Nat) : Except DecodeError ScalarTy :=
  match ScalarTy.ofCode n with
  | some t => .ok t
  | none => .error .typeCode

/-- The port of a two-bit code. -/
def portOf (n : Nat) : Except DecodeError Port :=
  match n with
  | 0 => .ok .l | 1 => .ok .r | 2 => .ok .c | _ => .error .port

/-- The code of a port. -/
def Port.code : Port → Nat
  | .l => 0 | .r => 1 | .c => 2

/-- `TPOL`. -/
def tagPolicyOf (n : Nat) : Except DecodeError TagPolicy :=
  match n with
  | 0 => .ok .outgoing | 1 => .ok .operand | 2 => .ok .outgoingPlusOne | _ => .error .tagPolicy

/-- The code of a tag policy. -/
def TagPolicy.code : TagPolicy → Nat
  | .outgoing => 0 | .operand => 1 | .outgoingPlusOne => 2

/-- `DPOL`. -/
def dimPolicyOf (n : Nat) : Except DecodeError DimPolicy :=
  match n with
  | 0 => .ok .outgoing | 1 => .ok .zero | 2 => .ok .seven | _ => .error .dimPolicy

/-- The code of a DIM policy. -/
def DimPolicy.code : DimPolicy → Nat
  | .outgoing => 0 | .zero => 1 | .seven => 2

/-- `ORD` (Table 9.2). -/
def orderOf (n : Nat) : MemOrder :=
  match n with
  | 0 => .relaxed | 1 => .acquire | 2 => .release | _ => .acquireRelease

/-- The code of an order. -/
def MemOrder.code : MemOrder → Nat
  | .relaxed => 0 | .acquire => 1 | .release => 2 | .acquireRelease => 3

/-- `SCOPE` (Table 9.4). -/
def scopeOf (n : Nat) : Except DecodeError Scope :=
  match n with
  | 0 => .ok .frame | 1 => .ok .core | 2 => .ok .die | 3 => .ok .dev | 4 => .ok .fab | 5 => .ok .sys
  | _ => .error .scope

/-- The code of a scope. -/
def Scope.code : Scope → Nat
  | .frame => 0 | .core => 1 | .die => 2 | .dev => 3 | .fab => 4 | .sys => 5

/-- `E`, `PNEG` and `PIDX` (Table 10.2). -/
def hdrOf (n : Nat) : Hdr := ⟨bitAt n 54, bitAt n 53, Fin.ofNat 4 (bits n 51 2)⟩

/-- Bits that must be zero. -/
def reserved (n lo w : Nat) : Except DecodeError Unit := if bits n lo w = 0 then .ok () else .error .reservedBit

/-! ## Formats -/

/-- An R-format word (Table 10.4). -/
def readR (n : Nat) : Except DecodeError RWord := do
  reserved n 0 9
  let ty ← typeOf (bits n 22 5)
  let ty2 ← typeOf (bits n 9 5)
  return ⟨hdrOf n, Spec.ofCode (bits n 45 6), Spec.ofCode (bits n 39 6), Spec.ofCode (bits n 33 6),
    Spec.ofCode (bits n 27 6), ty, BitVec.ofNat 8 (bits n 14 8), ty2⟩

/-- An I-format word (R256). -/
def readI (n : Nat) : Except DecodeError IWord := do
  reserved n 32 1
  return ⟨hdrOf n, Spec.ofCode (bits n 45 6), Spec.ofCode (bits n 39 6), Spec.ofCode (bits n 33 6),
    BitVec.ofNat 32 (bits n 0 32)⟩

/-- An S-format word (Table 10.5). -/
def readS (n : Nat) : Except DecodeError SWord := do
  reserved n 0 3
  let p ← portOf (bits n 12 2)
  let tp ← tagPolicyOf (bits n 10 2)
  let dp ← dimPolicyOf (bits n 8 2)
  let ty ← typeOf (bits n 3 5)
  return ⟨hdrOf n, Spec.ofCode (bits n 45 6), Spec.ofCode (bits n 39 6), Spec.ofCode (bits n 33 6),
    BitVec.ofNat 12 (bits n 21 12), BitVec.ofNat 7 (bits n 14 7), p, tp, dp, ty⟩

/-- An M-format word (Table 9.2). -/
def readM (n : Nat) : Except DecodeError MWord := do
  let p ← portOf (bits n 24 2)
  let sc ← scopeOf (bits n 16 3)
  return ⟨hdrOf n, Spec.ofCode (bits n 45 6), Spec.ofCode (bits n 39 6), Spec.ofCode (bits n 33 6),
    BitVec.ofNat 7 (bits n 26 7), p, BitVec.ofNat 3 (bits n 21 3), orderOf (bits n 19 2), sc,
    BitVec.ofNat 5 (bits n 11 5), BitVec.ofNat 11 (bits n 0 11)⟩

/-- A T-format word (Table 10.10). -/
def readT (n : Nat) : Except DecodeError TWord := do
  let p ← portOf (bits n 24 2)
  return ⟨hdrOf n, Spec.ofCode (bits n 45 6), Spec.ofCode (bits n 39 6), Spec.ofCode (bits n 33 6),
    BitVec.ofNat 7 (bits n 26 7), p, BitVec.ofNat 6 (bits n 18 6), BitVec.ofNat 6 (bits n 12 6),
    BitVec.ofNat 6 (bits n 6 6), bitAt n 5, bitAt n 4, bitAt n 3, BitVec.ofNat 3 (bits n 0 3)⟩

/-- The fields every word has, as a number (Table 10.2). -/
def writeCommon (op : Nat) (h : Hdr) (d a b : Spec) : Nat :=
  op * 2 ^ 55 + b2n h.last * 2 ^ 54 + b2n h.pneg * 2 ^ 53 + h.pidx.val * 2 ^ 51 + d.code * 2 ^ 45 + a.code * 2 ^ 39
    + b.code * 2 ^ 33

/-- The number of an R-format word. -/
def writeR (op : Nat) (w : RWord) : Nat :=
  writeCommon op w.hdr w.d w.a w.b + w.c.code * 2 ^ 27 + w.ty.code * 2 ^ 22 + w.mod.toNat * 2 ^ 14
    + w.ty2.code * 2 ^ 9

/-- The number of an I-format word. -/
def writeI (op : Nat) (w : IWord) : Nat := writeCommon op w.hdr w.d w.a w.b + w.imm.toNat

/-- The number of an S-format word. -/
def writeS (op : Nat) (w : SWord) : Nat :=
  writeCommon op w.hdr w.d w.a w.b + w.tblk.toNat * 2 ^ 21 + w.tent.toNat * 2 ^ 14 + w.tport.code * 2 ^ 12
    + w.tpol.code * 2 ^ 10 + w.dpol.code * 2 ^ 8 + w.sty.code * 2 ^ 3

/-- The number of an M-format word. -/
def writeM (op : Nat) (w : MWord) : Nat :=
  writeCommon op w.hdr w.d w.a w.b + w.cent.toNat * 2 ^ 26 + w.cport.code * 2 ^ 24 + w.wid.toNat * 2 ^ 21
    + w.ord.code * 2 ^ 19 + w.scope.code * 2 ^ 16 + w.aop.toNat * 2 ^ 11 + w.mflg.toNat

/-- The number of a T-format word. -/
def writeT (op : Nat) (w : TWord) : Nat :=
  writeCommon op w.hdr w.d w.a w.b + w.cent.toNat * 2 ^ 26 + w.cport.code * 2 ^ 24 + w.fa.toNat * 2 ^ 18
    + w.fb.toNat * 2 ^ 12 + w.fc.toNat * 2 ^ 6 + b2n w.tra * 2 ^ 5 + b2n w.trb * 2 ^ 4 + b2n w.acc * 2 ^ 3
    + w.tmod.toNat

/-! ## The opcode map (Tables 10.12 to 10.14) -/

/-- An instruction's opcode and the fields of its format. -/
inductive Body where
  | r (w : RWord)
  | i (w : IWord)
  | s (w : SWord)
  | m (w : MWord)
  | t (w : TWord)
  deriving DecidableEq, Repr

/-- The two forms of PERF (R391), by `MOD`. -/
def perfForm (w : RWord) : Instr := if w.mod = 0 then .perfGet w else .perfSet w

/-- The three forms of FLAGS (R392), by `MOD`. -/
def flagsForm (w : RWord) : Instr :=
  if w.mod = 0 then .flagsGet w else if w.mod = 1 then .flagsSet w else .flagsJoin w

/-- The two forms of RCLOSE (Table 10.14), by `MFLG`. -/
def rcloseForm (w : MWord) : Instr := if w.mflg = 0 then .rcloseSel w else .rcloseFin w

/-- Opcodes of the R format, part 1. -/
def rForms1 : List (Nat × (RWord → Instr)) :=
  [(0x008, .ffree), (0x009, .flimit), (0x00A, .ldf), (0x00B, .stf), (0x00C, .tags), (0x00E, .dims), (0x00F, .drop),
   (0x010, .keep), (0x011, .skip), (0x012, .rsplit), (0x014, .gdone), (0x015, .cancel), (0x040, .add),
   (0x041, .sub), (0x042, .mul), (0x043, .mulh), (0x044, .mad), (0x045, .div), (0x046, .rem), (0x047, .neg),
   (0x048, .abs), (0x049, .min), (0x04A, .max), (0x04B, .and), (0x04C, .or), (0x04D, .xor), (0x04E, .not),
   (0x04F, .andn), (0x050, .shl), (0x051, .shr)]

/-- Opcodes of the R format, part 2. -/
def rForms2 : List (Nat × (RWord → Instr)) :=
  [(0x052, .sar), (0x053, .rol), (0x054, .ror), (0x055, .clz), (0x056, .ctz), (0x057, .popc), (0x058, .brev),
   (0x059, .bfx), (0x05A, .bfi), (0x05B, .bilv), (0x05C, .bdlv), (0x05D, .cmp), (0x05E, .sel), (0x05F, .mov),
   (0x062, .lea), (0x063, .ext), (0x0C0, .fadd), (0x0C1, .fsub), (0x0C2, .fmul), (0x0C3, .ffma), (0x0C4, .fdiv),
   (0x0C5, .fsqrt), (0x0C6, .frcp), (0x0C7, .frsq), (0x0C8, .fmin), (0x0C9, .fmax), (0x0CA, .fminn),
   (0x0CB, .fmaxn), (0x0CC, .fabs), (0x0CD, .fneg)]

/-- Opcodes of the R format, part 3. -/
def rForms3 : List (Nat × (RWord → Instr)) :=
  [(0x0CE, .fcps), (0x0CF, .fcmp), (0x0D0, .fcls), (0x0D1, .frnd), (0x0D2, .fscl), (0x0D3, .fxtr), (0x0D4, .cvt),
   (0x101, .pwev), (0x103, .lutev), (0x1F0, .svrd), (0x1F5, .clk), (0x1F6, perfForm), (0x1F7, flagsForm),
   (0x1FA, .nop)]

/-- Opcodes of the R format. -/
def rForms : List (Nat × (RWord → Instr)) := rForms1 ++ rForms2 ++ rForms3

/-- Opcodes of the I format. -/
def iForms : List (Nat × (IWord → Instr)) :=
  [(0x00D, .tagi), (0x060, .movi), (0x061, .movh), (0x1F8, .trap), (0x1F9, .brk)]

/-- Opcodes of the S format. -/
def sForms : List (Nat × (SWord → Instr)) :=
  [(0x002, .send), (0x003, .send2), (0x004, .sendx), (0x005, .steer), (0x006, .merge), (0x013, .steal)]

/-- Opcodes of the M format, part 1. -/
def mForms1 : List (Nat × (MWord → Instr)) :=
  [(0x007, .falloc), (0x100, .pwld), (0x102, .lutld), (0x1C0, .ld), (0x1C1, .st), (0x1C2, .lda), (0x1C3, .str),
   (0x1C4, .atom), (0x1C5, .atmn), (0x1C6, .drain), (0x1C7, .watch), (0x1C8, .tld), (0x1C9, .tst), (0x1CA, .tldi),
   (0x1CB, .tsti), (0x1CC, .wcflush), (0x1CD, .pref), (0x1D0, .cpy), (0x1D1, .cpyr), (0x1D2, .wcfg), (0x1D3, .wgo),
   (0x1D4, .wpar), (0x1D5, .wstop), (0x1D6, .wstat), (0x1E0, .ropen), (0x1E1, .rsel), (0x1E2, .rrow),
   (0x1E3, rcloseForm), (0x1E4, .rcomb), (0x1E5, .rbias)]

/-- Opcodes of the M format, part 2. -/
def mForms2 : List (Nat × (MWord → Instr)) :=
  [(0x1E6, .rstat), (0x1F1, .svwr), (0x1F2, .cntrd), (0x1F3, .tick), (0x1F4, .expo)]

/-- Opcodes of the M format. -/
def mForms : List (Nat × (MWord → Instr)) := mForms1 ++ mForms2

/-- Opcodes of the T format, part 1. -/
def tForms1 : List (Nat × (TWord → Instr)) :=
  [(0x140, .talloc), (0x141, .tfree), (0x142, .tdesc), (0x143, .tview), (0x144, .tfill), (0x145, .tcopy),
   (0x146, .tcvt), (0x147, .tqnt), (0x148, .tadd), (0x149, .tsub), (0x14A, .tmul), (0x14B, .tfma), (0x14C, .tmin),
   (0x14D, .tmax), (0x14E, .tabs), (0x14F, .tneg), (0x150, .tcmp), (0x151, .tsel), (0x152, .tpwp), (0x153, .tlut),
   (0x154, .tred), (0x155, .tscan), (0x156, .tbcst), (0x157, .ttrn), (0x158, .tgth), (0x159, .tsct), (0x15A, .tget),
   (0x15B, .tset), (0x15C, .tspl), (0x15D, .tcat)]

/-- Opcodes of the T format, part 2. -/
def tForms2 : List (Nat × (TWord → Instr)) :=
  [(0x15E, .racc), (0x15F, .racs), (0x1B0, .mma), (0x1B1, .mmas), (0x1B2, .mmaw), (0x1B3, .mmax)]

/-- Opcodes of the T format. -/
def tForms : List (Nat × (TWord → Instr)) := tForms1 ++ tForms2

/-- Look an opcode up in a format's forms and read its fields. -/
def readForm {α : Type} (forms : List (Nat × (α → Instr))) (read : Nat → Except DecodeError α) (op n : Nat) :
    Option (Except DecodeError Instr) :=
  match forms.lookup op with
  | some mk => some ((read n).map mk)
  | none => none

/-- The instruction of an opcode, from the other fields of its word. -/
def decodeForm (op n : Nat) : Except DecodeError Instr :=
  match readForm rForms readR op n with
  | some x => x
  | none =>
    match readForm mForms readM op n with
    | some x => x
    | none =>
      match readForm tForms readT op n with
      | some x => x
      | none =>
        match readForm sForms readS op n with
        | some x => x
        | none =>
          match readForm iForms readI op n with
          | some x => x
          | none => .error .unassigned

/-- The decoder: total, refusing by name. -/
def decode (word : W64) : Except DecodeError Instr :=
  let op := bits word.toNat 55 9
  if op = 1 then .error .matchWord else decodeForm op word.toNat

/-- The decoder on the eight little-endian bytes of a word (R247); none for another number of bytes. -/
def decodeBytes (bs : List Byte) : Option Instr :=
  if bs.length = 8 then
    match decode (BitVec.ofNat 64 (leNat bs)) with
    | .ok i => some i
    | .error _ => none
  else none

/-- The instruction of a table word of `nbits` bits, laid out as the memory holds it, the bits above zero. -/
def decodeTableWord (nbits w : Nat) : Option Instr :=
  if nbits ≤ 64 then decodeBytes (natLe 8 (w % 2 ^ nbits)) else none

/-! ## Entries (R259) -/

/-- Modes of an entry (R131). -/
inductive MatchMode where
  | match1 | match2 | matchc | merge
  deriving DecidableEq, Repr, Inhabited

/-- What a MATCH word declares; a type of none is `any`. -/
structure Entry where
  slot : Nat
  lty : Option ScalarTy
  rty : Option ScalarTy
  mode : MatchMode
  cnv : Bool
  deriving DecidableEq, Repr, Inhabited

/-- A declared type: 0 to 15, or 31 for any. -/
def declaredType (n : Nat) : Except DecodeError (Option ScalarTy) :=
  if n = 31 then .ok none else (typeOf n).map some

/-- The decoder of MATCH words. -/
def decodeMatch (word : W64) : Except DecodeError Entry := do
  let n := word.toNat
  if bits n 55 9 ≠ 1 then throw .notMatch
  if bits n 51 4 ≠ 0 || bits n 45 6 ≠ 8 || bits n 39 6 ≠ 8 || bits n 33 6 ≠ 8 then throw .fixedField
  reserved n 0 9
  let lty ← declaredType (bits n 20 5)
  let rty ← declaredType (bits n 15 5)
  let (mode, arity) ← (match bits n 12 3 with
    | 0 => .ok (.match1, 1) | 1 => .ok (.match2, 2) | 2 => .ok (.matchc, 2) | 3 => .ok (.merge, 2)
    | _ => .error .mode)
  if bits n 9 2 ≠ arity then throw .mode
  if mode = .match1 && bits n 25 8 ≠ 0 then throw .fixedField
  return ⟨bits n 25 8, lty, rty, mode, bitAt n 11⟩

/-! ## The encoder -/

/-- An instruction's opcode and fields; none for an event, which no word stands for. -/
def Instr.form (i : Instr) : Option (Nat × Body) :=
  match i with
  | .send w => some (0x002, .s w)
  | .send2 w => some (0x003, .s w)
  | .sendx w => some (0x004, .s w)
  | .steer w => some (0x005, .s w)
  | .merge w => some (0x006, .s w)
  | .falloc w => some (0x007, .m w)
  | .ffree w => some (0x008, .r w)
  | .flimit w => some (0x009, .r w)
  | .ldf w => some (0x00A, .r w)
  | .stf w => some (0x00B, .r w)
  | .tags w => some (0x00C, .r w)
  | .tagi w => some (0x00D, .i w)
  | .dims w => some (0x00E, .r w)
  | .drop w => some (0x00F, .r w)
  | .keep w => some (0x010, .r w)
  | .skip w => some (0x011, .r w)
  | .rsplit w => some (0x012, .r w)
  | .steal w => some (0x013, .s w)
  | .gdone w => some (0x014, .r w)
  | .cancel w => some (0x015, .r w)
  | .add w => some (0x040, .r w)
  | .sub w => some (0x041, .r w)
  | .mul w => some (0x042, .r w)
  | .mulh w => some (0x043, .r w)
  | .mad w => some (0x044, .r w)
  | .div w => some (0x045, .r w)
  | .rem w => some (0x046, .r w)
  | .neg w => some (0x047, .r w)
  | .abs w => some (0x048, .r w)
  | .min w => some (0x049, .r w)
  | .max w => some (0x04A, .r w)
  | .and w => some (0x04B, .r w)
  | .or w => some (0x04C, .r w)
  | .xor w => some (0x04D, .r w)
  | .not w => some (0x04E, .r w)
  | .andn w => some (0x04F, .r w)
  | .shl w => some (0x050, .r w)
  | .shr w => some (0x051, .r w)
  | .sar w => some (0x052, .r w)
  | .rol w => some (0x053, .r w)
  | .ror w => some (0x054, .r w)
  | .clz w => some (0x055, .r w)
  | .ctz w => some (0x056, .r w)
  | .popc w => some (0x057, .r w)
  | .brev w => some (0x058, .r w)
  | .bfx w => some (0x059, .r w)
  | .bfi w => some (0x05A, .r w)
  | .bilv w => some (0x05B, .r w)
  | .bdlv w => some (0x05C, .r w)
  | .cmp w => some (0x05D, .r w)
  | .sel w => some (0x05E, .r w)
  | .mov w => some (0x05F, .r w)
  | .movi w => some (0x060, .i w)
  | .movh w => some (0x061, .i w)
  | .lea w => some (0x062, .r w)
  | .ext w => some (0x063, .r w)
  | .fadd w => some (0x0C0, .r w)
  | .fsub w => some (0x0C1, .r w)
  | .fmul w => some (0x0C2, .r w)
  | .ffma w => some (0x0C3, .r w)
  | .fdiv w => some (0x0C4, .r w)
  | .fsqrt w => some (0x0C5, .r w)
  | .frcp w => some (0x0C6, .r w)
  | .frsq w => some (0x0C7, .r w)
  | .fmin w => some (0x0C8, .r w)
  | .fmax w => some (0x0C9, .r w)
  | .fminn w => some (0x0CA, .r w)
  | .fmaxn w => some (0x0CB, .r w)
  | .fabs w => some (0x0CC, .r w)
  | .fneg w => some (0x0CD, .r w)
  | .fcps w => some (0x0CE, .r w)
  | .fcmp w => some (0x0CF, .r w)
  | .fcls w => some (0x0D0, .r w)
  | .frnd w => some (0x0D1, .r w)
  | .fscl w => some (0x0D2, .r w)
  | .fxtr w => some (0x0D3, .r w)
  | .cvt w => some (0x0D4, .r w)
  | .pwld w => some (0x100, .m w)
  | .pwev w => some (0x101, .r w)
  | .lutld w => some (0x102, .m w)
  | .lutev w => some (0x103, .r w)
  | .talloc w => some (0x140, .t w)
  | .tfree w => some (0x141, .t w)
  | .tdesc w => some (0x142, .t w)
  | .tview w => some (0x143, .t w)
  | .tfill w => some (0x144, .t w)
  | .tcopy w => some (0x145, .t w)
  | .tcvt w => some (0x146, .t w)
  | .tqnt w => some (0x147, .t w)
  | .tadd w => some (0x148, .t w)
  | .tsub w => some (0x149, .t w)
  | .tmul w => some (0x14A, .t w)
  | .tfma w => some (0x14B, .t w)
  | .tmin w => some (0x14C, .t w)
  | .tmax w => some (0x14D, .t w)
  | .tabs w => some (0x14E, .t w)
  | .tneg w => some (0x14F, .t w)
  | .tcmp w => some (0x150, .t w)
  | .tsel w => some (0x151, .t w)
  | .tpwp w => some (0x152, .t w)
  | .tlut w => some (0x153, .t w)
  | .tred w => some (0x154, .t w)
  | .tscan w => some (0x155, .t w)
  | .tbcst w => some (0x156, .t w)
  | .ttrn w => some (0x157, .t w)
  | .tgth w => some (0x158, .t w)
  | .tsct w => some (0x159, .t w)
  | .tget w => some (0x15A, .t w)
  | .tset w => some (0x15B, .t w)
  | .tspl w => some (0x15C, .t w)
  | .tcat w => some (0x15D, .t w)
  | .racc w => some (0x15E, .t w)
  | .racs w => some (0x15F, .t w)
  | .mma w => some (0x1B0, .t w)
  | .mmas w => some (0x1B1, .t w)
  | .mmaw w => some (0x1B2, .t w)
  | .mmax w => some (0x1B3, .t w)
  | .ld w => some (0x1C0, .m w)
  | .st w => some (0x1C1, .m w)
  | .lda w => some (0x1C2, .m w)
  | .str w => some (0x1C3, .m w)
  | .atom w => some (0x1C4, .m w)
  | .atmn w => some (0x1C5, .m w)
  | .drain w => some (0x1C6, .m w)
  | .watch w => some (0x1C7, .m w)
  | .tld w => some (0x1C8, .m w)
  | .tst w => some (0x1C9, .m w)
  | .tldi w => some (0x1CA, .m w)
  | .tsti w => some (0x1CB, .m w)
  | .wcflush w => some (0x1CC, .m w)
  | .pref w => some (0x1CD, .m w)
  | .cpy w => some (0x1D0, .m w)
  | .cpyr w => some (0x1D1, .m w)
  | .wcfg w => some (0x1D2, .m w)
  | .wgo w => some (0x1D3, .m w)
  | .wpar w => some (0x1D4, .m w)
  | .wstop w => some (0x1D5, .m w)
  | .wstat w => some (0x1D6, .m w)
  | .ropen w => some (0x1E0, .m w)
  | .rsel w => some (0x1E1, .m w)
  | .rrow w => some (0x1E2, .m w)
  | .rcloseSel w => some (0x1E3, .m w)
  | .rcloseFin w => some (0x1E3, .m w)
  | .rcomb w => some (0x1E4, .m w)
  | .rbias w => some (0x1E5, .m w)
  | .rstat w => some (0x1E6, .m w)
  | .svrd w => some (0x1F0, .r w)
  | .svwr w => some (0x1F1, .m w)
  | .cntrd w => some (0x1F2, .m w)
  | .tick w => some (0x1F3, .m w)
  | .expo w => some (0x1F4, .m w)
  | .clk w => some (0x1F5, .r w)
  | .perfGet w => some (0x1F6, .r w)
  | .perfSet w => some (0x1F6, .r w)
  | .flagsGet w => some (0x1F7, .r w)
  | .flagsSet w => some (0x1F7, .r w)
  | .flagsJoin w => some (0x1F7, .r w)
  | .trap w => some (0x1F8, .i w)
  | .brk w => some (0x1F9, .i w)
  | .nop w => some (0x1FA, .r w)
  | .fundamentalReset => none
  | .auxPowerLoss => none
  | .mainUndervoltage => none
  | .hkcFault _ => none
  | .temperatureThreshold _ _ => none
  | .powerCapWindow _ _ => none
  | .fwmboxChunk _ => none
  | .fwVerify => none
  | .proofServiceEntry _ => none
  | .fullServiceEntry _ => none
  | .spdmRequest _ _ _ => none
  | .ideCheckFail _ => none
  | .cxlLinkState _ _ => none
  | .yilyelLaneFail _ _ _ => none
  | .dataFlit _ _ => none
  | .idleFlit _ _ => none
  | .retryRequest _ _ => none
  | .timeMark _ _ => none
  | .timeMarkSend => none
  | .tileTransfer _ => none
  | .readRequest _ => none
  | .writeRequest _ => none
  | .atomicRequest _ => none
  | .watchRequest _ => none
  | .response _ => none
  | .selectionRecord _ => none
  | .endMark _ => none
  | .slotReturn _ => none
  | .counts _ => none
  | .row _ => none
  | .rowAcknowledgement _ => none
  | .finalMark _ => none
  | .outputRowRead _ => none
  | .outputRowData _ => none
  | .releaseMark _ => none
  | .readyMark _ => none
  | .countTotals _ => none
  | .cancelMark _ => none
  | .curtain _ => none
  | .laneMap _ => none
  | .hostResponse _ _ _ => none
  | .cxlMemRead _ _ => none
  | .cxlMemWrite _ _ _ => none
  | .registerWrite _ _ _ => none
  | .qprod _ _ => none
  | .queueEnable _ _ => none
  | .qerrClear _ _ => none
  | .ccons _ _ => none
  | .eventRingEnable _ => none
  | .evcons _ => none
  | .msixVectorUnmask _ => none
  | .commandAccept _ => none
  | .jobOpen _ => none
  | .jobClose _ => none
  | .jobCancel _ => none
  | .mapSet _ => none
  | .wallSet _ => none
  | .slotSet _ => none
  | .codeLoad _ => none
  | .graphStart _ => none
  | .graphBatch _ => none
  | .phaseOpen _ => none
  | .svarSet _ => none
  | .tickSet _ => none
  | .floorAlloc _ => none
  | .floorFree _ => none
  | .faultResolve _ => none
  | .cellarGrow _ => none
  | .preempt _ => none
  | .saveEnd _ => none
  | .resume _ => none
  | .ckpt _ _ => none
  | .restore _ _ => none
  | .tokenArrival _ => none
  | .matchToken _ => none
  | .firingIssue _ => none
  | .issueRecoveryEnd _ => none
  | .rateWindow _ => none
  | .spill _ _ => none
  | .refill _ _ => none
  | .fallocRequest _ _ _ => none
  | .remoteFfree _ => none
  | .stealRequestArrival _ => none
  | .tileArrival _ _ => none
  | .tileFree _ _ => none
  | .tileOpStart _ _ _ => none
  | .tileOpDone _ _ => none
  | .mmaStart _ _ _ => none
  | .mmaDone _ _ _ => none
  | .walkerElement _ _ _ => none
  | .copyRequest _ _ _ => none
  | .memoryPerform _ _ _ => none
  | .watchTimeout _ => none
  | .wcEntryWrite _ _ => none
  | .pageWalk _ _ => none
  | .faultRecordWrite _ => none
  | .floorLit _ _ => none
  | .backgroundZero _ _ _ => none
  | .patrolScrub _ _ _ _ => none
  | .roomSafelight _ => none
  | .roomWake _ => none
  | .bankSafelight _ _ => none
  | .bankWake _ _ => none
  | .eccError _ _ _ => none
  | .coreRetire _ _ => none
  | .instanceCancelMark _ _ _ => none
  | .instanceCompleteCheck _ _ => none
  | .primedTokensPlace _ _ => none
  | .tickEdge _ => none
  | .quiescenceTimeout _ _ => none
  | .auxiliaryInputPresent _ => none
  | .linkUp _ => none
  | .tileLastByteLeft _ => none

/-- The number of a word. -/
def Body.write (op : Nat) (b : Body) : Nat :=
  match b with
  | .r w => writeR op w
  | .i w => writeI op w
  | .s w => writeS op w
  | .m w => writeM op w
  | .t w => writeT op w

/-- The instruction's word; none for an event. -/
def encode (i : Instr) : Option W64 := i.form.map (fun f => BitVec.ofNat 64 (f.2.write f.1))

end Sys2Proof
end

