-- ==== Sys2Proof/Config.lean ====
section
/-! DEFINITION. What one implementation fixes and what the spec leaves open: the free values have no body, so that no
proof can see which value they take. -/

namespace Sys2Proof.Config

/-- What T2 to T7 read at a firing's entry, per draw (R135: undefined). Log entry 4. -/
opaque freeTemp : Nat → W64

/-- Whether a slot of a new frame keeps the value that the same job left there, per draw (R145). Log entry 5. -/
opaque freeKeepsOld : Nat → Bool

/-- A value the spec does not state, per draw. Log entry 6. -/
opaque freeWord : Nat → W64

/-- A byte the spec does not state, such as the private inner layout of a save area (R119). Log entry 7. -/
opaque freeByte : Nat → Byte

/-- The section layout version of a firmware (Table 5.6), which no rule states, by the hash of its signed region. Log entry 7. -/
opaque saveVersion : List Byte → BitVec 16

/-- SHA-384 of a byte string (FIPS 180-4, which R34 names and does not restate). Log entry 8. -/
opaque sha384 : List Byte → List Byte

/-- Ed25519 verification: public key, message, signature (RFC 8032, R34). Log entry 8. -/
opaque ed25519Verifies : List Byte → List Byte → List Byte → Bool

/-- ML-DSA-65 verification: public key, message, signature (FIPS 204, R34). Log entry 8. -/
opaque mldsaVerifies : List Byte → List Byte → List Byte → Bool

/-- The two hashes of key slot `n` (R34): SHA-384 of the Ed25519 and of the ML-DSA-65 key, held in fuses. -/
opaque keySlot : Nat → List Byte × List Byte

/-- The alias key that the ROM derives from the device secret and the hash of the signed region (R42). Log entry 9. -/
opaque aliasKey : List Byte → List Byte → List Byte

/-- SHA-384 of the boot ROM (Table 2.9). -/
opaque romHash : List Byte

/-- Whether a request is DOE discovery, and its answer (R42, R52). Log entry 9. -/
opaque isDiscovery : List Byte → Bool
opaque discoveryAnswer : List Byte → List Byte

/-- Whether a request is a secured SPDM message, which travels in a session (R52). Log entry 9. -/
opaque isSecured : List Byte → Bool

/-- The answer to an SPDM request (R42; DMTF SPDM 1.2 and 1.3), from the device's alias key, from what the measurement blocks of
Table 2.9 name, and from the requests taken before. Log entry 9. -/
opaque spdmAnswer : List Byte → List (List Byte) → List (List Byte) → List Byte → List Byte

/-- Whether a request, after those taken before, is a KEY_EXCHANGE, a FINISH, an END_SESSION or a KEY_UPDATE that SPDM accepts
(R42, R52). Log entry 9. -/
opaque keyExchange : List (List Byte) → List Byte → Bool
opaque finishes : List (List Byte) → List Byte → Bool
opaque endsSession : List (List Byte) → List Byte → Bool
opaque keyUpdates : List (List Byte) → List Byte → Bool

/-- Whether a secured message, after the requests taken before, sets IDE going on this port, as an SPDM session programs the keys
(R52). Log entry 9. -/
opaque enablesIde : List (List Byte) → Nat → List Byte → Bool

/-- How long a time mark was under way when it reaches this device, in ns, by the link and the device id of its sender (R26). Log
entry 12. -/
opaque markTransit : Nat → Nat → Nat

/-- How far below the master's time the slewing of a domain may bring a device at this mark: the same for every device of the domain
(R26). Log entry 12. -/
opaque markSkew : Nat → Nat

/-- The table index that R221 leaves unstated, where `lo` or `inv` is an infinity or a NaN: from x, lo and inv. Log
entry 24. -/
opaque freeIndex : W32 → W32 → W32 → Nat

/-- The row scale of R210 that the spec leaves unstated for an RS8 row that holds a NaN, from the row's codes. Log entry
25. -/
opaque freeScale : List Nat → W32

/-- The factor that an element of a misshapen operand meets (R202 poisons the result and states no value), by the tile's
generation, first unit, row and column. Log entry 31. -/
opaque freeFactor : Nat → Nat → Nat → Nat → W32

/-- Whether a poisoned response of another device stands for a DARK floor there (Table 1.10 does not tell it from a
poisoned unit), by the request id. Log entry 34. -/
opaque freeDark : Nat → Bool

/-- Whether another device takes the operands of an atomic minimum or maximum as signed (Table 1.10 carries no value type),
by the request id and the issuing device. Log entry 54. -/
opaque freeSigned : Nat → Nat → Bool

/-- Whether a link's error rate now exceeds its retrain threshold (R19 gives none), per draw. Log entry 11. -/
opaque errorRateHigh : Nat → Bool

/-- The `CRC-64` of a flit's bytes 0 to 247 (R18 names no polynomial). Log entry 10. -/
opaque flitCrc : List Byte → W64

end Sys2Proof.Config
end

