-- ==== Sys2Proof/Machine/State.lean ====
section
/-! DEFINITION. The state of the TLY-64A as plain data: every register, memory, queue and engine state the spec names,
how a step can stop, and the state after reset. -/

namespace Sys2Proof.Machine

/-- How a step can end in a fault. No path of the device as the spec describes it reaches one. -/
inductive Fault where
  /-- Raised by the fetch when an issuing group stands at a word that its block does not have. R250 and R264 keep every
  loaded body closed by its last word, so no run reaches it. Safe. -/
  | noWord
  deriving DecidableEq, Repr

/-- How a step can be refused. -/
inductive Refusal where
  /-- A row of the table that has no meaning yet. Safe. -/
  | notModelled (mnemonic : String)
  /-- Raised by the fetch for a word that names no instruction; R266: no word issues unless it passed R264, so no run
  reaches it. Safe. -/
  | undecodable
  deriving DecidableEq, Repr

/-! ## Tokens and core storage -/

/-- A token in the layout of Table 10.7, with the mesh sideband (R130) and the flags of a conversion on entry (R209). -/
structure Token where
  dev : BitVec 10 := 0
  core : BitVec 7 := 0
  frame : BitVec 19 := 0
  block : BitVec 12 := 0
  entry : BitVec 7 := 0
  port : BitVec 2 := 0
  job : BitVec 6 := 0
  tag : W32 := 0
  type : BitVec 5 := 0
  dim : BitVec 3 := 0
  poison : Bool := false
  cls : BitVec 2 := 0
  src : BitVec 7 := 0
  w2 : W64 := 0
  /-- the instance's dependence-table slot (the sideband) -/
  inst : Nat := 0
  /-- flags of a conversion on entry, kept by a returned token -/
  xf : BitVec 5 := 0
  /-- the matcher has deferred it, and counted that (R133) -/
  passed : Bool := false
  deriving DecidableEq, Repr, Inhabited

/-- A frame-store slot with its presence, poison and kept bits (R131, R136, R292). -/
structure Slot where
  val : W64 := 0
  present : Bool := false
  poison : Bool := false
  kept : Bool := false
  /-- the sideband of a parked token, in its place's second slot -/
  side : Nat := 0
  /-- the port at which it parked, which W1 does not name -/
  port : Nat := 0
  /-- conversion flags of a parked token (R209) -/
  xf : BitVec 5 := 0
  /-- the job that last wrote the slot (R145) -/
  owner : Option Nat := none
  deriving DecidableEq, Repr, Inhabited

/-- A live frame (R143). -/
structure Frame where
  base : Nat
  size : Nat
  block : Nat
  job : Nat
  inst : Nat
  deriving DecidableEq, Repr, Inhabited

/-- An entry of the block table with the block's words in instruction memory (R106, R247, R248). -/
structure Block where
  job : Nat
  graph : Option Nat
  checksum : BitVec 16 := 0
  code : List W64
  fsize : Nat
  /-- the header's `OCC`, or the limit FLIMIT put in its place (R289) -/
  limit : Nat
  gather : Bool
  reent : Bool
  /-- a frame of the block has been given on this core to the job since the block was loaded (R134) -/
  framesGiven : Bool := false
  deriving DecidableEq, Repr, Inhabited

/-- The states of a tile-table entry (Table 6.4). -/
inductive TileSt where
  | free | empty | pending | full | freeing
  deriving DecidableEq, Repr, Inhabited

/-- A tile-table entry (Table 6.4). -/
structure Tile where
  gen : BitVec 8 := 0
  job : Nat := 0
  inst : Nat := 0
  st : TileSt := .free
  poison : Bool := false
  refcnt : Nat := 0
  view : Bool := false
  parent : Nat := 0
  scv : Bool := false
  scale : Nat := 0
  fmt : Nat := 0
  /-- row pitch in 64-byte units -/
  pitch : Nat := 0
  /-- columns − 1 -/
  cols : Nat := 0
  /-- rows − 1 -/
  rows : Nat := 0
  /-- tile-store address of element (0, 0), in 64-byte units -/
  base : Nat := 0
  deriving DecidableEq, Repr, Inhabited

/-- What a request that left a firing carries (R286, R357). `core` is the job-logical core. -/
structure Req where
  id : Nat := 0
  job : Nat := 0
  inst : Nat := 0
  core : Nat := 0
  frame : Nat := 0
  block : Nat := 0
  /-- word index of the requesting word, its entry, and the word -/
  index : Nat := 0
  entry : Nat := 0
  instr : Instr := .nop default
  /-- continuation: entry and port -/
  cent : Nat := 0
  cport : Nat := 0
  /-- values read through A, B and D -/
  a : W64 := 0
  b : W64 := 0
  d : W64 := 0
  /-- T0 to T3 at the word (CPYR, R374) -/
  q : List W64 := []
  /-- outgoing tag and DIM at the word, and the firing's `%tag` -/
  tag : W32 := 0
  dim : Nat := 0
  ftag : W32 := 0
  /-- set when an earlier word of the same commit writes the same tile in place (R327): answer CTRL -/
  notLast : Bool := false
  /-- WGO: B names a tile, for the walker was in store mode at the word (R380) -/
  hasTile : Bool := false
  deriving DecidableEq, Repr, Inhabited

/-- What a word stages in its firing's outbound buffer, in program order (R139). -/
inductive Staged where
  | write (slot : Nat) (val : W64)
  /-- KEEP, with the index of its word -/
  | keep (slot : Nat) (val : W64) (index : Nat)
  | drop (slot : Nat)
  | flimit (block limit : Nat)
  | request (r : Req)
  /-- CNTRD, placed after step 5 (R388) -/
  | counter (r : Req)
  /-- a send, with the index of its word -/
  | send (t : Token) (index : Nat)
  /-- a STEAL request for core `victim` (R296) -/
  | steal (victim : Nat) (reply : Token)
  /-- the reply of an RSPLIT that reserved a mailbox entry, by its id (R297) -/
  | stealReply (entry : Nat) (t : Token)
  | flagsRaise (f : BitVec 5)
  | flagsSet (f : BitVec 5)
  | flagsJoin (f : BitVec 5)
  deriving DecidableEq, Repr, Inhabited

/-- A parked operand that a match consumed: its place, and what its two slots held (R142). -/
structure Parked where
  slot : Nat
  first : Slot
  second : Slot
  deriving DecidableEq, Repr, Inhabited

/-- A firing: the state of Table 6.2 and what it has staged. -/
structure Firing where
  job : Nat := 0
  inst : Nat := 0
  block : Nat := 0
  entry : Nat := 0
  frame : Nat := 0
  /-- the match ran without a live frame (R134) -/
  frameless : Bool := false
  lane : Nat := 0
  temps : List W64 := []
  /-- P1 to P3 -/
  preds : List Bool := []
  tag : W32 := 0
  dim : Nat := 0
  tyL : Nat := 0
  tyR : Nat := 0
  otag : W32 := 0
  odim : Nat := 0
  shadow : Bool := false
  /-- the first input, for the trap record (Table 13.11) -/
  first : Token := {}
  /-- input tokens taken from the queue, and operands taken from places -/
  inputs : List Token := []
  parked : List Parked := []
  /-- handles that the commit releases (Table 6.6): of the inputs consumed, and of kept slots that were overwritten -/
  release : List W64 := []
  /-- handles that TFREE frees at commit step 7 (R332) -/
  frees : List W64 := []
  /-- SKIP was executed (R293) -/
  skipped : Bool := false
  /-- the lane trapped, was aborted or has committed -/
  dead : Bool := false
  staged : List Staged := []
  /-- index of the word that issues now -/
  pc : Nat := 0
  /-- its place in the order of matching: the draws made before it -/
  seq : Nat := 0
  /-- values that words read through A, B, and D or C, by word index: for the trap record (R395) -/
  seen : Table (W64 × W64 × W64) := []
  /-- the body's last word has issued, and the commit waits -/
  ended : Bool := false
  /-- its instance was FROZEN before that: no word of it issues any more, and it does not commit (R127) -/
  stopped : Bool := false
  /-- commit steps 1 to 3 are done, and `staged` holds what remains (R359, R166) -/
  entered : Bool := false
  deriving DecidableEq, Repr, Inhabited

/-- The firings that issue together: the next word's index, and the lanes (R137). -/
structure Group where
  job : Nat
  block : Nat
  entry : Nat
  pc : Nat
  lanes : List Firing
  deriving DecidableEq, Repr, Inhabited

/-- A steal request in a mailbox (R295). -/
structure StealReq where
  id : Nat
  job : Nat
  inst : Nat
  /-- destination of the reply: the reply token with its value still to be filled -/
  reply : Token
  /-- reserved by an uncommitted lane (R297) -/
  reserved : Bool := false
  deriving DecidableEq, Repr, Inhabited

/-- A request in the tile unit, the matrix queue or the accumulators (R325, R346, R356). -/
structure TileReq where
  req : Req
  started : Bool := false
  /-- the tiles it makes -/
  made : List Nat := []
  /-- its operand references have been released -/
  released : Bool := false
  /-- a scalar answer, once known -/
  value : W64 := 0
  /-- the result is poisoned -/
  poison : Bool := false
  /-- a started matrix request: its place in the order in which the array started them (R164) -/
  turn : Nat := 0
  /-- an interrupted matrix request: the groups summed, and the partial accumulator (R120) -/
  group : Nat := 0
  partials : List (List Nat) := []
  deriving DecidableEq, Repr, Inhabited

/-- A FALLOC waiting at the allocator of its target core (R143). -/
structure FallocReq where
  req : Req
  block : Nat
  deriving DecidableEq, Repr, Inhabited

/-- A contribution to an accumulator (R347): added at once, or held in the reorder window for its tag. -/
structure Contribution where
  req : Req
  /-- window units it takes (0 when its tag was the expected one) -/
  units : Nat := 0
  /-- a poison mark adds nothing and poisons the sum (R350) -/
  mark : Bool := false
  /-- it came while an addition was under way, and is handled once no addition is -/
  fresh : Bool := false
  /-- its addition has begun; the addition is made, and its emission waits for a tile since this time in the numbering of
  requests; the tile -/
  started : Bool := false
  asked : Option Nat := none
  made : Option Nat := none
  deriving DecidableEq, Repr, Inhabited

/-- An accumulator state (R346): named by a tile index, or by a frame and a key. -/
structure AccState where
  job : Nat
  inst : Nat
  isTile : Bool
  /-- the tile's handle, or the frame base -/
  name : Nat
  key : Nat
  expected : W32
  sum : W32
  poison : Bool
  held : List Contribution
  deriving DecidableEq, Repr, Inhabited

/-- A shape record in force in a walker (Table 6.7). -/
structure Shape where
  base : Nat := 0
  rstride : Nat := 0
  gsel : Nat := 0
  tc : Nat := 0
  tr : Nat := 0
  fmt : Nat := 0
  ndim : Nat := 0
  store : Bool := false
  kind : Nat := 0
  aux : Nat := 0
  ext : List Nat := []
  str : List Int := []
  deriving DecidableEq, Repr, Inhabited

/-- A walker (R155, R378). -/
structure Walker where
  /-- configuration number -/
  number : BitVec 8 := 0
  claimed : Bool := false
  /-- set aside for a WCFG whose record is not read yet, by its request -/
  loading : Option Nat := none
  job : Nat := 0
  inst : Nat := 0
  shape : Shape := {}
  /-- a round runs -/
  running : Bool := false
  /-- the WGO of the round -/
  cur : Req := {}
  /-- ordinal of the next point; group entry, row block within the entry, and m of R159 -/
  point : Nat := 0
  group : Nat := 0
  rowBlock : Nat := 0
  blocks : Nat := 0
  inner : Nat := 0
  rounds : Nat := 0
  errors : Nat := 0
  /-- the pending fault's id while frozen, the element's address, and the elements of this point answered poisoned (R90) -/
  frozen : Option Nat := none
  faultVa : Nat := 0
  refused : List Nat := []
  /-- the delivered tiles that the target has not matched yet, by handle (R157) -/
  out : List W64 := []
  /-- when its request for a tile began to wait, in the numbering of requests, and the tile's rows and columns (R148, R171) -/
  asked : Option Nat := none
  wants : Nat × Nat := (0, 0)
  /-- the group-table entry in use, and whether its read was refused (R159) -/
  entry : List Byte := []
  entryBad : Bool := false
  /-- queued WGO, WPAR and WSTOP, in commit order (R162) -/
  queue : List Req := []
  /-- the round's completion carries POISON (R160) -/
  spoiled : Bool := false
  /-- the WSTOP that waits for writes sent to other devices (R160, R381) -/
  stopping : Option Req := none
  deriving DecidableEq, Repr, Inhabited

/-- A kernel slot (R316). -/
inductive KernelSlot where
  | empty
  | poly (n : Nat) (breaks : List W32) (coef : List (List W32))
  | table (head : Nat) (lo inv : W32) (pairs : List (W32 × W32))
  deriving DecidableEq, Repr, Inhabited

/-- Tile-store bank states (Table 4.5). -/
inductive BankSt where
  | dark | lit | safelight
  deriving DecidableEq, Repr, Inhabited

/-- A tile-store bank. -/
structure Bank where
  st : BankSt := .dark
  /-- clock of its last request -/
  last : Nat := 0
  deriving DecidableEq, Repr, Inhabited

/-- A translation held by a TLB (R87). -/
structure TlbEntry where
  job : Nat
  va : Nat
  size : Nat
  pa : Nat
  /-- the leaf's bits [9:0] -/
  leaf : Nat
  /-- the level and the entry at which the walk ended, for a fault record (Table 4.11) -/
  level : Nat := 0
  entry : Nat := 0
  deriving DecidableEq, Repr, Inhabited

/-- One logical core. -/
structure Core where
  /-- token buffer: one queue in arrival order -/
  buffer : List Token := []
  slots : Table Slot := []
  frames : List Frame := []
  blocks : Table Block := []
  ready : List Firing := []
  groups : List Group := []
  tiles : Table Tile := []
  /-- tile-store bytes by byte address -/
  store : Memory := []
  banks : Table Bank := []
  /-- logical bank to replacing spare bank (R40, R153) -/
  spares : Table Nat := []
  tileReqs : List TileReq := []
  mmaReqs : List TileReq := []
  fallocs : List FallocReq := []
  accs : List AccState := []
  walkers : Table Walker := []
  mailbox : List StealReq := []
  /-- (job, instance) closed to stealing (R298) -/
  closed : List (Nat × Nat) := []
  /-- kernel slots, each with the job that owns it (R166, R316) -/
  kernels : Table (Nat × KernelSlot) := []
  /-- `XFLAGS` per job (R214) -/
  xflags : Table (BitVec 5) := []
  /-- performance counters by 64 × job + index (R174) -/
  perf : Table W64 := []
  /-- tokens the matcher took from each job in a 256-clock window, and that window's number (R172) -/
  window : Table Nat := []
  windowAt : Nat := 0
  /-- job last served by the matcher, and job last refilled -/
  lastMatched : Nat := 63
  lastRefilled : Nat := 63
  /-- L1 TLB -/
  tlb : List TlbEntry := []
  /-- slot table (R113), rebuilt from weights -/
  slotTable : List Nat := []
  /-- recovery issue: clock at which it began (R116) -/
  recovery : Option Nat := none
  /-- HKC token-rate limit per 256 clocks, 0 = none (R43) -/
  hkcLimit : Nat := 0
  /-- clock of the last firing issued (R80) -/
  lastIssue : Nat := 0
  /-- slots whose stored bits an uncorrectable error struck, and words likewise (R173) -/
  badSlots : List Nat := []
  badWords : List (Nat × Nat) := []
  /-- logical banks that an uncorrectable error struck and that no spare replaces yet (R40) -/
  failing : List Nat := []
  deriving DecidableEq, Repr, Inhabited

/-! ## Traffic -/

/-- A tile on its way to another core or device: its shape, its elements and its scale tile (R151). -/
structure TileData where
  fmt : Nat
  rows : Nat
  cols : Nat
  poison : Bool
  /-- each row's bytes at minimal pitch -/
  data : List (List Byte)
  /-- format, rows, columns and rows of bytes of what is attached -/
  scale : Option (Nat × Nat × Nat × List (List Byte)) := none
  deriving DecidableEq, Repr, Inhabited

/-- What travels on the token mesh. -/
inductive Flight where
  | value (t : Token)
  /-- a tile token; the data is read when the last byte leaves (R151) -/
  | tile (t : Token) (data : Option TileData)
  | curtain (t : Token)
  | steal (victim : Nat) (poison : Bool) (reply : Token) (inst : Nat)
  | ffree (job frame core inst : Nat)
  /-- a shape variable's new value on its way to a core's copy, for the SVWR of this id (R387) -/
  | svar (index : Nat) (value : W64) (id : Nat)
  deriving DecidableEq, Repr, Inhabited

/-- A mesh item: job-logical sender and receiver of one job, and the virtual channel (R11). Senders 64 and 65 are the I/O
dies, 128 an engine or controller that answers, 129 the matrix array, 130 the scheduler, 256 + w walker w of the receiving core, and
4,096 + n request n; all of these but 128 keep their order. -/
structure MeshItem where
  job : Nat
  src : Nat
  dst : Nat
  vc : Nat
  what : Flight
  /-- when the request of a shipped tile for space began to wait, in the numbering of requests (R148) -/
  asked : Option Nat := none
  deriving DecidableEq, Repr, Inhabited

/-- A link record (Table 1.9): from another device, or between engines of this one. -/
structure LinkRec where
  kind : Nat
  poison : Bool := false
  job : Nat := 0
  dst : Nat := 0
  src : Nat := 0
  rid : Nat := 0
  body : List Byte := []
  /-- the I/O die at which it arrived: the model's own field -/
  io : Nat := 0
  deriving DecidableEq, Repr, Inhabited

/-- A data flit that waits for credit or for room in the replay buffer. -/
structure FlitReq where
  vc : Nat
  ntok : Nat
  payload : List Byte
  deriving DecidableEq, Repr, Inhabited

/-- A Yilyel link (R17 to R22). -/
structure Link where
  up : Bool := false
  /-- lanes 0 to 8 that have failed -/
  failed : List Nat := []
  /-- active lanes, 8 or 4, 0 while down -/
  width : Nat := 0
  retrains : W32 := 0
  /-- sequence number of the next flit sent, and of the next expected -/
  txSeq : BitVec 12 := 0
  rxSeq : BitVec 12 := 0
  /-- last sequence number received in order, to be acknowledged -/
  ack : BitVec 12 := 4095
  /-- flit credits in hand, per virtual channel -/
  credits : Table Nat := []
  /-- sent and unacknowledged: (sequence, flit) -/
  replay : List (BitVec 12 × List Byte) := []
  /-- flits put on the wire, oldest first -/
  wire : List (List Byte) := []
  /-- credits to be returned to the peer, per virtual channel -/
  owed : Table Nat := []
  /-- data flits that wait for credit or for room in the replay buffer -/
  waiting : List FlitReq := []
  /-- a flit error was met: later flits are discarded until the replay -/
  retrying : Bool := false
  /-- credits that a pre-empted job's routing flits withhold: job and virtual channel (R117) -/
  withheld : List (Nat × Nat) := []
  /-- bytes of a record still to be completed, per virtual channel -/
  partials : Table (List Byte) := []
  /-- the peer's lane map (LANE_MAP record) -/
  peerLanes : BitVec 16 := 0
  deriving DecidableEq, Repr, Inhabited

/-- A CXL port (R14, R50, R52). -/
structure CxlPort where
  up : Bool := false
  width : Nat := 0
  rate : Nat := 0
  retrains : W32 := 0
  /-- traffic refused until the next SPDM key update (R52) -/
  refused : Bool := false
  /-- IDE is enabled, as an SPDM session set it (R52) -/
  ide : Bool := false
  /-- DOE mailbox answers, by mailbox -/
  doe : Table (List Byte) := []
  deriving DecidableEq, Repr, Inhabited

/-- The answer to a host CXL.mem request. -/
structure CxlAnswer where
  pa : Nat
  data : List Byte
  poison : Bool
  deriving DecidableEq, Repr, Inhabited

/-! ## Device memory -/

/-- Floor states (Table 4.2). -/
inductive FloorSt where
  | dark | zeroing | lit | safelight
  deriving DecidableEq, Repr, Inhabited

/-- A floor: its state, and the 64 KiB regions whose zero-map bit is clear (R71). -/
structure Floor where
  st : FloorSt := .dark
  cleared : List Nat := []
  deriving DecidableEq, Repr, Inhabited

/-- A room's channels and the clock of its last request (R72). -/
structure Room where
  lit : Bool := true
  last : Nat := 0
  /-- a wake is under way -/
  waking : Bool := false
  deriving DecidableEq, Repr, Inhabited

/-- How far a memory request has come. -/
inductive MemSt where
  | waiting
  /-- sent to another device or to the host, with the id it carries -/
  | away (rid : Nat)
  /-- frozen by the fault with this sequence id (R89) -/
  | frozen (fault : Nat)
  deriving DecidableEq, Repr, Inhabited

/-- One element of a memory request: a run of bytes, and for a store its data (R223, R224). -/
structure Elem where
  va : Nat
  len : Nat
  data : List Byte := []
  /-- tile-store byte address where a tile load puts the bytes; the physical address of an armed WATCH -/
  dest : Nat := 0
  /-- bytes that a tile load keeps of the unit; for a record read, the offset in the record -/
  off : Nat := 0
  st : MemSt := .waiting
  /-- the translation that it was sent under (R88) -/
  page : Option TlbEntry := none
  deriving DecidableEq, Repr, Inhabited

/-- A split-phase memory request of a core (R359). -/
structure MemReq where
  req : Req
  /-- elements still to be performed -/
  elems : List Elem
  /-- bytes read so far, by offset (PWLD, LUTLD, WCFG records) -/
  got : Memory := []
  /-- scalar value read -/
  val : Nat := 0
  poison : Bool := false
  /-- refused elements -/
  refused : Nat := 0
  /-- the tile being loaded -/
  tile : Option Nat := none
  /-- a tile form has its tile, or has read its rows; a WCFG has its walker; a WATCH has seen another value -/
  begun : Bool := false
  /-- WATCH: in the controller's table since this time (R368); and when it came to a full table, in the numbering of
  requests -/
  since : Option Nat := none
  queued : Option Nat := none
  /-- the instance was cancelled after the request left: its response is discarded (R103) -/
  discard : Bool := false
  /-- rooms that a PREF has woken (R366) -/
  woke : List Nat := []
  deriving DecidableEq, Repr, Inhabited

/-- A write-combiner entry (R237). -/
structure WcEntry where
  job : Nat
  /-- the 64-byte unit's physical address -/
  unit : Nat
  /-- (byte within the unit, value), rising -/
  bytes : List (Nat × Byte)
  insts : List Nat
  /-- logical cores whose stores it holds (R234) -/
  cores : List Nat := []
  /-- its write is out to another device -/
  sent : Bool := false
  deriving DecidableEq, Repr, Inhabited

/-- A port frozen by a fault, or made by one (Table 4.10). -/
inductive FaultPort where
  | load (rid elem : Nat)
  | walker (core index : Nat)
  | copy (die job queue : Nat)
  /-- by the id of the engine's work -/
  | routing (id : Nat)
  | spill (core : Nat) (save : Bool)
  deriving DecidableEq, Repr, Inhabited

/-- What a fault record says (Table 4.11). -/
structure FaultRec where
  id : Nat
  job : Nat
  kind : Nat
  reason : Nat
  access : Nat
  portType : Nat
  portNum : Nat := 0
  walker : Nat := 0
  joined : Nat := 0
  va : Nat
  entry : Nat
  level : Nat
  inst : W32
  port : List Byte := []
  time : W64 := 0
  deriving DecidableEq, Repr, Inhabited

/-- A pending not-present fault (R89). -/
structure Pending where
  id : Nat
  job : Nat
  insts : List Nat
  /-- VA[54:16] -/
  unit : Nat
  ports : List FaultPort
  /-- FAULT.RESOLVE accepted while the job is pre-empted (R90) -/
  resolved : Option Nat := none
  deriving DecidableEq, Repr, Inhabited

/-- An agent's access of at most 64 bytes to another device's memory (R69): its owner, its virtual address, the request, and its
answer; or a unit that an engine has performed ahead of the rest of its work (R224, R235). -/
structure FabReq where
  owner : List Nat
  write : Bool
  va : Nat := 0
  dev : Nat
  pa : Nat
  len : Nat
  rid : Nat
  /-- the translation that it was sent under (R88) -/
  page : Option TlbEntry := none
  /-- the status of Table 1.10, or 4 and 5 for a unit of an engine that was performed, or refused, at home -/
  answer : Option (Nat × List Byte) := none
  deriving DecidableEq, Repr, Inhabited

/-- A trap record (R396) or a DEADLOCK report (R171) that waits for another device, which holds its ring or area. -/
structure Post where
  id : Nat
  job : Nat
  bytes : List Byte
  /-- a report's VA, and its event's payload -/
  report : Option (Nat × List Byte) := none
  deriving DecidableEq, Repr, Inhabited

/-! ## Engines -/

/-- A copy request in its queue (R374). -/
structure CopyReq where
  req : Req
  die : Nat
  queue : Nat
  /-- the request's index in its queue -/
  index : Nat
  /-- the 32 bytes of the request, once read -/
  bytes : Option (List Byte) := none
  /-- next unit; units refused or written poisoned so far -/
  row : Nat := 0
  unit : Nat := 0
  bad : Nat := 0
  /-- the read of the unit whose write has been sent to another device was poisoned -/
  srcBad : Bool := false
  /-- 64-byte units of HBM that are to be poisoned once the other units are written -/
  marks : List Nat := []
  /-- the pending fault's id while frozen, and whether its access is a write -/
  frozen : Option Nat := none
  faultWrite : Bool := false
  /-- FAULT.RESOLVE answered this unit's read, or its write, poisoned (R90) -/
  refRead : Bool := false
  refWrite : Bool := false
  deriving DecidableEq, Repr, Inhabited

/-- Participant states (Table 7.2); FREE participants are not listed. -/
inductive PartSt where
  | opened | counting | counted | finalising
  deriving DecidableEq, Repr, Inhabited

/-- A choice returned to its source: index, expert, dropped, slot or position, weight (SLOT_RETURN). -/
structure Choice where
  index : Nat
  expert : Nat
  dropped : Bool
  slot : Nat
  weight : W32
  deriving DecidableEq, Repr, Inhabited

/-- A row that RROW has sent and whose acknowledgement is out: the home's device and the slot (R187). -/
structure RowWait where
  req : Req
  outs : List (Nat × Nat)
  poison : Bool
  deriving DecidableEq, Repr, Inhabited

/-- A chosen index at an expert's home: index, source participant, expert, weight (R180). -/
structure Homed where
  index : Nat
  source : Nat
  expert : Nat
  weight : W32
  deriving DecidableEq, Repr, Inhabited

/-- An end mark held: its participant, its flags, its bias generation, and the shared fields (R181). -/
structure HeldMark where
  source : Nat
  flags : BitVec 8
  gen : W32
  shared : List Byte
  deriving DecidableEq, Repr, Inhabited

/-- A routing participant (R175 to R195). -/
structure Participant where
  job : Nat
  inst : Nat
  batch : Nat
  /-- its index p and its anchor core (job-logical) -/
  p : Nat
  anchor : Nat
  st : PartSt
  /-- the 256-byte descriptor -/
  desc : List Byte
  /-- generation and live bias taken at ROPEN (R191) -/
  gen : W32
  bias : List W32
  /-- the header flags of Table 7.4 -/
  flags : BitVec 8 := 0
  /-- indices selected, bad rows, choices sent, and the choices that its homes will make of them -/
  selected : List Nat := []
  badRows : Nat := 0
  sent : Nat := 0
  picks : List Homed := []
  /-- at the home: choices, marks held, and the slots assigned: drop records in order, and choices kept and dropped -/
  homed : List Homed := []
  marks : List HeldMark := []
  assigned : Bool := false
  dropRecs : List (List Byte) := []
  dropped : Nat := 0
  kept : Nat := 0
  /-- at the source: slot returns, counts by expert (count, kept), and the homes heard from -/
  returns : List Choice := []
  counts : Table (Nat × Nat) := []
  homes : List Nat := []
  /-- participants whose final marks are in -/
  finals : List Nat := []
  /-- the RCLOSE that waits for its answer, and the RROWs -/
  closing : Option Req := none
  rrow : List RowWait := []
  deriving DecidableEq, Repr, Inhabited

/-- Work of a routing engine: a form, a record that has arrived, or the writes that end counting or finalising (R177). -/
inductive RouteItem where
  | form (r : Req)
  | record (r : LinkRec)
  | counted (p : Nat)
  | final (p : Nat)
  deriving DecidableEq, Repr, Inhabited

/-- A piece of work in an engine's order of arrival. -/
structure RouteWork where
  id : Nat
  die : Nat
  job : Nat
  batch : Option Nat
  what : RouteItem
  /-- frozen by the pending fault with this id, at this address; addresses that FAULT.RESOLVE answered poisoned -/
  frozen : Option Nat := none
  faultVa : Nat := 0
  refused : List Nat := []
  /-- which unit of it is performed by itself now, with what the error-correcting code finds; none in a state at rest -/
  single : Option (Nat × EccOutcome) := none
  deriving DecidableEq, Repr, Inhabited

/-! ## Jobs -/

/-- Job states (Table 5.1); FREE jobs are not listed. -/
inductive JobSt where
  | opened | closing | preempting | preempted | cancelling
  deriving DecidableEq, Repr, Inhabited

/-- A rectangle of logical cores (R111). -/
structure Rect where
  col : Nat
  row : Nat
  cols : Nat
  rows : Nat
  deriving DecidableEq, Repr, Inhabited

/-- A prime record (Table 10.19). -/
structure Prime where
  block : Nat
  entry : Nat
  port : Nat
  gcore : Nat
  kind : Nat
  type : Nat
  tag : W32
  dim : Nat
  value : W64
  deriving DecidableEq, Repr, Inhabited

/-- A loaded graph (R105, R273). -/
structure Graph where
  cores : Nat
  blocks : List Nat
  primes : List Prime
  image : Nat
  dataOff : Nat
  /-- fabric tag and peers of a cut graph (R124) -/
  fabric : Option (Nat × List Nat)
  deriving DecidableEq, Repr, Inhabited

/-- A phase of a job (R100). -/
structure Phase where
  id : Nat
  ticked : Bool
  queuePolicy : Bool
  closed : Bool := false
  released : Bool := false
  cancelled : Bool := false
  /-- the end statuses of its ended instances (R99) -/
  statuses : List Nat := []
  /-- PHASE_END is queued and waits to be written (R65) -/
  ended : Bool := false
  deriving DecidableEq, Repr, Inhabited

/-- Instance states (Table 5.2). -/
inductive InstSt where
  | waiting | held | live | frozen | ended
  deriving DecidableEq, Repr, Inhabited

/-- A root frame to be allocated at placement (R109): the target device core and the block. -/
structure Root where
  core : Nat
  block : Nat
  base : Option Nat := none
  deriving DecidableEq, Repr, Inhabited

/-- A graph instance (R95). -/
structure Instance where
  seq : Nat
  st : InstSt
  phase : Nat
  graph : Nat
  /-- slots of predecessors not yet ended -/
  preds : List Nat
  arg : W64
  count : Nat
  window : Nat := 0
  poison : Nat := 0
  faulted : Bool := false
  cancelled : Bool := false
  /-- a predecessor ended CANCELLED or FAULT (R96) -/
  doomed : Bool := false
  status : Nat := 0
  /-- sent and received counts by job-logical core; 64 and 65 are the I/O dies (R97) -/
  sent : Table W32 := []
  received : Table W32 := []
  roots : List Root := []
  primes : List Prime := []
  /-- device cores that the cancel mark has still to reach (R103) -/
  marks : List Nat := []
  /-- clock of its last progress (R170) -/
  progress : Nat := 0
  /-- clock of its last DEADLOCK report (R129) -/
  reported : Nat := 0
  /-- fabric ordinal, peers whose ready marks are in with their slots, and totals (held, sent, received) of the parts, by
  2 × device + collection − 1 (R125, R126) -/
  ordinal : Nat := 0
  ready : Table Nat := []
  totals : Table (Nat × Nat × Nat) := []
  deriving DecidableEq, Repr, Inhabited

/-- A cellar ring (R167, R168): positions count slots since JOB.OPEN. -/
structure Cellar where
  va : Nat
  bytes : Nat
  head : Nat := 0
  tail : Nat := 0
  /-- instances of the tokens it holds, oldest first (R97) -/
  insts : List Nat := []
  /-- traffic held: 0 none, 1 SPILL_FULL, 2 frozen, 3 DARK, 4 while a write to another device is out -/
  hold : Nat := 0
  deriving DecidableEq, Repr, Inhabited

/-- What pre-emption takes from one core (Table 5.7). -/
structure SavedCore where
  core : Nat
  buffer : List Token
  slots : Table Slot
  frames : List Frame
  blocks : Table Block
  tiles : Table Tile
  store : Table Memory
  tileReqs : List TileReq
  mmaReqs : List TileReq
  fallocs : List FallocReq
  accs : List AccState
  /-- firings whose commit waits at step 4 (R350) -/
  groups : List Group
  walkers : Table Walker
  mailbox : List StealReq
  closed : List (Nat × Nat)
  kernels : Table KernelSlot
  xflags : BitVec 5
  deriving DecidableEq, Repr, Inhabited

/-- What pre-emption saves of a job (R119). -/
structure Saved where
  rect : Option Rect
  dx : Int
  dy : Int
  closing : Bool
  time : W64
  bytes : Nat
  cores : List SavedCore
  mem : List MemReq
  copies : List CopyReq
  parts : List Participant
  route : List RouteWork
  /-- answered accesses of its engines to other devices -/
  fabric : List FabReq
  deriving DecidableEq, Repr, Inhabited

/-- A part of a fabric instance that ended with its job, before the parts of its peers (R104, R126): what they still need from it. -/
structure EndedPart where
  job : Nat
  slot : Nat
  tag : Nat
  ordinal : Nat
  peers : List Nat
  sent : Nat
  received : Nat
  deriving DecidableEq, Repr, Inhabited

/-- A job (R59, R93 to R102). -/
structure Job where
  st : JobSt
  /-- saved from CLOSING, or closing while pre-empting -/
  wasClosing : Bool := false
  l3 : Nat := 0
  saveVa : Nat := 0
  trapVa : Nat := 0
  trapN : Nat := 1
  prio : Nat := 0
  policy : Nat := 0
  cellarVa : Nat := 0
  cellarBytes : Nat := 65536
  qwin : Nat := 16
  faultVa : Nat := 0
  faultN : Nat := 1
  reportVa : Nat := 0
  rect : Option Rect := none
  first : Nat × Nat := (0, 0)
  dx : Int := 0
  dy : Int := 0
  weight : Nat := 0
  resv : Nat := 0
  rate : Nat := 0
  sv : List W64 := List.replicate 32 0
  expo : W64 := 0
  /-- wake and byte counts per room, and their previous-phase copies (R79) -/
  wakes : Table Nat := []
  bytes : Table Nat := []
  prevWakes : Table Nat := []
  prevBytes : Table Nat := []
  wall : W32 := 0
  lostTrap : Nat := 0
  lostFault : Nat := 0
  period : Nat := 0
  /-- next tick edge in time-base ns -/
  nextEdge : Nat := 0
  owed : Nat := 0
  deadlines : Nat := 0
  /-- edges that passed while PREEMPTING (R101) -/
  heldEdges : List Nat := []
  edgePassed : Option Nat := none
  phases : List Phase := []
  insts : Table Instance := []
  seq : Nat := 0
  graphs : Table Graph := []
  nextGraph : Nat := 1
  halt : W32 := 0
  /-- time base at the halt (Table 5.6) -/
  haltTime : W64 := 0
  trapNext : Nat := 0
  faultNext : Nat := 0
  reportHalf : Nat := 0
  cellars : Table Cellar := []
  saved : Option Saved := none
  /-- curtains received in the sweep: (sender kind, SRC, channel, receiver) -/
  curtains : List (Nat × Nat × Nat × Nat) := []
  curtainsDue : Nat := 0
  /-- sending device core and time of the last WALL event (R66) -/
  wallTimes : Table Nat := []
  /-- next ordinal of each fabric tag (R124) -/
  ordinals : Table Nat := []
  /-- requests that entered each copy queue, by 16 × die + queue -/
  copyIndex : Table Nat := []
  /-- the participants (Table 7.1, `PART`) of the batches its cores have opened, by batch id: the model's own field, from
  which RCOMB finds a home's device (log entry 45) -/
  batches : Table (List Byte) := []
  /-- pending TICKs (R389): request, edges to go, and the time of its arrival, or, once none is to go, of the edge that answers it -/
  ticks : List (Req × Nat × Nat) := []
  /-- pending EXPO answers (R390): the request, the register as written, and the register that it replaced, whose rooms stay
  covered until the answer (R76) -/
  expos : List (Req × W64 × W64) := []
  /-- the copies of the shape variables that differ from the scheduler's, by job-logical core; and the SVWRs whose values have not
  reached every core (R387) -/
  svCopies : Table (List W64) := []
  svws : List Req := []
  endStatus : Nat := 0
  endFault : Nat := 0
  /-- JOB_END is queued and waits to be written -/
  ended : Bool := false
  /-- JOB.CANCEL accepted while PREEMPTING (R104) -/
  cancelAtSave : Bool := false
  /-- the draws with which the bytes of a save under way began: the model's own field -/
  saveDraw : Option Nat := none
  deriving DecidableEq, Repr, Inhabited

/-! ## The host interface -/

/-- A command that a queue has accepted: its record, and how far it has come. -/
structure Cmd where
  bytes : List Byte
  index : W32
  /-- its place in the order of acceptance over every queue (R56) -/
  order : Nat := 0
  /-- it has begun and waits (for floors, a save or a release) -/
  begun : Bool := false
  /-- time base at its acceptance (R101) -/
  time : Nat := 0
  /-- its job was cancelled while it waited (R59) -/
  cancelled : Bool := false
  /-- jobs whose saves it waits for, and those whose saves completed or failed (R111, R121) -/
  waits : List Nat := []
  done : List Nat := []
  failed : List Nat := []
  /-- CKPT: the first draw of its job-state section -/
  draw : Nat := 0
  /-- GRAPH.START and GRAPH.BATCH: the shape variables as they were read at acceptance, and the patches (target, width, value)
  once the list has passed (R62) -/
  svars : Option (List W64) := none
  /-- the instances that its predecessor mask named at acceptance (R96): slots, with the end status of those that have ended -/
  named : List (Nat × Option Nat) := []
  patches : Option (List (Nat × Nat × Nat)) := none
  deriving DecidableEq, Repr, Inhabited

/-- A command queue (Table 3.4). -/
structure Queue where
  qbase : W64 := 0
  cbase : W64 := 0
  en : Bool := false
  qerr : Bool := false
  vec : BitVec 6 := 0
  qlog : Nat := 4
  /-- a completion record is on its way to another device's memory: the command's `IRQ` (R57) -/
  posting : Option Bool := none
  prod : W32 := 0
  cons : W32 := 0
  cprod : W32 := 0
  ccons : W32 := 0
  cur : Option Cmd := none
  deriving DecidableEq, Repr, Inhabited

/-- An event (Table 3.12). -/
structure Event where
  type : Nat
  job : Nat
  seq : W32
  time : W64
  payload : List Byte
  deriving DecidableEq, Repr, Inhabited

/-- The event ring (Table 3.11). -/
structure EventRing where
  base : W64 := 0
  en : Bool := false
  vec : BitVec 6 := 0
  elog : Nat := 6
  prod : W32 := 0
  cons : W32 := 0
  lost : W32 := 0
  seq : W32 := 0
  /-- end events that wait for room, oldest first (R65) -/
  waiting : List Event := []
  deriving DecidableEq, Repr, Inhabited

/-- Error counts of a site or room (Table 2.8), and the corrected count when the retirement window began. -/
structure Ecnt where
  resid : Nat := 0
  uncorr : Nat := 0
  corr : Nat := 0
  windowClock : Nat := 0
  windowCorr : Nat := 0
  deriving DecidableEq, Repr, Inhabited

/-- The SPDM session (R42): none, between KEY_EXCHANGE and FINISH, or established. -/
inductive SpdmSession where
  | none | handshake | established
  deriving DecidableEq, Repr, Inhabited

/-- Service levels (Table 2.5). -/
inductive Level where
  | rom | romFail | proof | full | reduced | halted
  deriving DecidableEq, Repr, Inhabited

/-- The housekeeping controller, fuses and bring-up registers (chapter 02). -/
structure Hkc where
  aux : Bool := true
  main : Bool := true
  level : Level := .rom
  lastOff : BitVec 3 := 0
  /-- the watchdog has expired in this power-on: its cause stays latched (R36, R39) -/
  watchdog : Bool := false
  /-- fused security version: the blown bits -/
  svnFuses : BitVec 64 := 0
  revoked : List Bool := [false, false]
  /-- the unique device secret and the factory defect map, in fuses (R30) -/
  secret : List Byte := []
  fused : Defects := {}
  /-- the fuses read without an uncorrectable error, and the firmware of a verified image runs -/
  fuseOk : Bool := true
  fwRuns : Bool := false
  kslot : Bool := false
  edOk : Bool := false
  mlOk : Bool := false
  failCode : BitVec 8 := 0
  mboxOffset : W32 := 0
  mboxGo : Bool := false
  mboxDone : Bool := false
  /-- a chunk with `DONE` = 1 has been handed over, and verification is due (R32) -/
  imageIn : Bool := false
  mboxLen : BitVec 17 := 0
  /-- the data window, the staging memory and the bytes received -/
  fwdata : Memory := []
  staging : Memory := []
  received : Nat := 0
  commitSvn : Bool := false
  manifestSvn : Nat := 0
  /-- a commit under way: the value to which the counter is being raised, bit by bit (R36) -/
  committing : Option Nat := none
  signedHash : List Byte := []
  /-- the hashes of the running image's segments, in record order (Table 2.9), and the alias key (R42) -/
  segHashes : List (List Byte) := []
  aliasKey : List Byte := []
  /-- SPDM (R42): the requests taken since power-on, oldest first, and the session -/
  spdmLog : List (List Byte) := []
  session : SpdmSession := .none
  /-- the defect map in use: fused defects, those that BIST found at this power-on, and those met in service (R40) -/
  defects : Defects := {}
  skip : List Nat := [4, 4, 4, 4]
  meshValid : Bool := false
  coresOk : W64 := 0
  coresSus : W64 := 0
  pwrCap : BitVec 12 := 0x898
  pwrAvg : BitVec 12 := 0
  pwrPeak : BitVec 12 := 0
  cethr : BitVec 16 := 64
  tsense : Table (BitVec 16) := []
  ecnt : Table Ecnt := []
  /-- physical sites marked for retirement (R41) -/
  retire : List Nat := []
  /-- compute dies whose spare column is healthy, and the site columns that a retirement has still to skip (R8, R41) -/
  spareOk : List Bool := [false, false, false, false]
  /-- the jobs that the passage of R38 has halted, while it is under way -/
  passing : Option (List Nat) := none
  deriving DecidableEq, Repr, Inhabited

/-- The host-facing registers and rings (chapter 03). -/
structure HostIf where
  devnum : BitVec 10 := 0
  tmaster : Bool := false
  yroute : Table W32 := []
  ports : List CxlPort := [{}, {}]
  /-- low halves of 8-byte registers written in two parts (R48), by offset -/
  lowHalf : Table W32 := []
  /-- MSI-X table bytes, and the vectors unmasked, pending and sent (R51) -/
  msixTable : Memory := []
  unmasked : List Nat := []
  pending : List Nat := []
  sent : List Nat := []
  queues : Table Queue := []
  /-- the queue the processor last accepted from -/
  lastQueue : Nat := 15
  events : EventRing := {}
  /-- time of the last WALL event for tokens to a FREE job (R66, R112), by 256 × job + sender -/
  freeWalls : Table Nat := []
  /-- answers to host CXL.mem requests, oldest first -/
  answers : List CxlAnswer := []
  deriving DecidableEq, Repr, Inhabited

/-- What the job-state section of a checkpoint image says (Table 2.12): its bytes, which no rule lays out, stand in the attic. The
model's own record, from which RESTORE reads them. -/
structure Attic where
  base : Nat
  /-- the section's offset in the image, and its bytes without a layout: how many, and the first draw of them -/
  at_ : Nat
  len : Nat
  draw : Nat
  /-- the section layout version of the firmware that wrote it (R119) -/
  layout : Nat
  /-- the device id of the device that wrote it -/
  devnum : BitVec 10
  /-- live jobs as pre-empted, by id, and those that the checkpoint halted, whose tiles its tile-store bank section holds (R44) -/
  jobs : Table Job
  halted : List Nat
  /-- bytes of save areas outside HBM: job, VA and bytes (R44) -/
  copied : List (Nat × Nat × List Byte)
  /-- their pending faults, and the numbers that new requests and faults must pass -/
  faults : List Pending
  nextId : Nat
  faultSeq : Table Nat
  /-- the attic gives back what was written, as far as the device's own transfers go -/
  sound : Bool
  deriving DecidableEq, Repr, Inhabited

/-- What happens next, as the outside world brings it: clocks that pass, what the host writes in its own memory
meanwhile, and the event. -/
structure Input where
  clocks : Nat := 0
  host : Memory := []
  /-- the routing engines leave what reaches them now for events of its own (R235) -/
  rest : Bool := false
  event : Instr
  deriving DecidableEq, Repr

/-- The machine. -/
structure State where
  hkc : Hkc := {}
  host : HostIf := {}
  /-- 64-bit time base in ns (R26), clocks since power-on, and clocks within the current run of five -/
  time : W64 := 0
  clock : Nat := 0
  clockRem : Nat := 0
  /-- HBM bytes, poisoned 64-byte units, floors (16 × room + floor) and rooms -/
  mem : Memory := []
  poison : List Nat := []
  floors : Table Floor := []
  rooms : Table Room := []
  /-- the memory of the host's bus that the device can reach -/
  hostMem : Memory := []
  /-- what the job-state sections of checkpoint images say, by their first draw: the model's own field -/
  attics : Table Attic := []
  /-- L2 TLB of each die (R87) -/
  tlbs : Table (List TlbEntry) := []
  faults : List Pending := []
  /-- fault records waiting for a ring slot, and next sequence number, per die (R92) -/
  faultBuf : Table (List FaultRec) := []
  faultSeq : Table Nat := []
  /-- memory requests of the cores, in issue order -/
  memReqs : List MemReq := []
  wc : Table (List WcEntry) := []
  /-- accesses of the engines to other devices -/
  fabric : List FabReq := []
  posts : List Post := []
  cores : Table Core := []
  mesh : List MeshItem := []
  copies : List CopyReq := []
  parts : List Participant := []
  /-- work of the routing engines, in order of arrival -/
  routeWork : List RouteWork := []
  inbox : List LinkRec := []
  links : Table Link := []
  jobs : Table Job := []
  /-- parts of fabric instances that ended before their peers' (R126): the model's own field -/
  endedParts : List EndedPart := []
  /-- id of the next request -/
  nextId : Nat := 1
  /-- draws made from the free values: the model's own field, not the spec's -/
  draws : Nat := 0
  /-- the core and job whose group issues its next word now -/
  issue : Option (Nat × Nat) := none
  /-- the routing engines leave what reaches them for events of its own: the model's own field, not the spec's -/
  enginesRest : Bool := false
  /-- what happens next: the model's own field, not the spec's -/
  agenda : List Input := []
  deriving DecidableEq, Repr

/-- The machine right after reset: every register at the value the spec states, and at the values of log entry 2 where it
states none. -/
def State.reset : State := {}

end Sys2Proof.Machine
end

