-- ==== Sys2Proof/Machine/Access.lean ====
section
/-! DEFINITION. The accessors of cores, jobs and instances, the numbering of cores and dies (R7, R112), and the
layouts of handles, frame pointers and instance ids (Table 8.4, R95). -/

namespace Sys2Proof.Machine

/-! ## Cores -/

/-- A logical core; one that nothing has touched is as at power-on. -/
def State.core (s : State) (c : Nat) : Core := Table.getD s.cores c {}

/-- Put a core. -/
def State.setCore (s : State) (c : Nat) (k : Core) : State := { s with cores := Table.put s.cores c k }

/-- Change a core. -/
def State.onCore (s : State) (c : Nat) (f : Core → Core) : State := s.setCore c (f (s.core c))

/-- The compute die of a logical core (R7). -/
def dieOf (c : Nat) : Nat := 2 * (c / 8 / 4) + c % 8 / 4

/-- The physical site of a logical core, 10y + x (R7). -/
def siteOf (skip : List Nat) (c : Nat) : Nat :=
  let lx := c % 8
  let ly := c / 8
  let d := dieOf c
  let q := lx % 4
  let p := if q < skip.getD d 4 then q else q + 1
  10 * ly + (5 * (d % 2) + p)

/-! ## Jobs and instances -/

/-- A job, none when its id is FREE. -/
def State.job? (s : State) (j : Nat) : Option Job := Table.find s.jobs j

/-- A job, for reading. -/
def State.job (s : State) (j : Nat) : Job := Table.getD s.jobs j { st := .opened }

/-- Put a job. -/
def State.setJob (s : State) (j : Nat) (x : Job) : State := { s with jobs := Table.put s.jobs j x }

/-- Change a job that exists. -/
def State.onJob (s : State) (j : Nat) (f : Job → Job) : State :=
  match s.job? j with
  | some x => s.setJob j (f x)
  | none => s

/-- An instance of a job, by slot. -/
def State.inst? (s : State) (j i : Nat) : Option Instance :=
  match s.job? j with
  | some x => Table.find x.insts i
  | none => none

/-- Change an instance that exists. -/
def State.onInst (s : State) (j i : Nat) (f : Instance → Instance) : State :=
  s.onJob j (fun x =>
    match Table.find x.insts i with
    | some v => { x with insts := Table.put x.insts i (f v) }
    | none => x)

/-- The instance id: slot [7:0], sequence [31:8] (R95). -/
def Instance.id (v : Instance) (slot : Nat) : Nat := slot + 256 * v.seq

/-- The instance id in a slot; 0 when the slot is empty. -/
def State.instId (s : State) (j i : Nat) : Nat :=
  match s.inst? j i with
  | some v => v.id i
  | none => 0

/-- The instance takes part in nothing any more: cancelled or ended (R103). -/
def State.instGone (s : State) (j i : Nat) : Bool :=
  match s.inst? j i with
  | some v => v.cancelled || v.st == .ended
  | none => true

/-- A running job is OPEN or CLOSING (R93). -/
def Job.running (x : Job) : Bool := x.st == .opened || x.st == .closing

/-- The job is halted: none of its firings issues and none of its tokens is matched (R117). -/
def Job.halted (x : Job) : Bool := x.st == .preempting || x.st == .preempted

/-! ## Rectangles and relocation (R112) -/

/-- The rectangle contains a device logical core. -/
def Rect.has (r : Rect) (c : Nat) : Bool :=
  decide (r.col ≤ c % 8) && decide (c % 8 < r.col + r.cols) && decide (r.row ≤ c / 8) && decide (c / 8 < r.row + r.rows)

/-- The device logical cores of a rectangle in row-major order (R108). -/
def Rect.cores (r : Rect) : List Nat :=
  (List.range r.rows).flatMap (fun y => (List.range r.cols).map (fun x => 8 * (r.row + y) + (r.col + x)))

/-- Number of cores. -/
def Rect.size (r : Rect) : Nat := r.cols * r.rows

/-- The rectangle lies in the 8 × 8 grid and is not empty. -/
def Rect.legal (r : Rect) : Bool :=
  decide (1 ≤ r.cols) && decide (r.cols ≤ 8) && decide (1 ≤ r.rows) && decide (r.rows ≤ 8)
    && decide (r.col + r.cols ≤ 8) && decide (r.row + r.rows ≤ 8)

/-- Two rectangles share a core. -/
def Rect.overlaps (a b : Rect) : Bool :=
  decide (a.col < b.col + b.cols) && decide (b.col < a.col + a.cols) && decide (a.row < b.row + b.rows)
    && decide (b.row < a.row + a.rows)

/-- The device logical core of a job-logical core, none outside the rectangle (R112). -/
def Job.devCore (x : Job) (jc : Nat) : Option Nat :=
  let lx := ((jc % 8 : Nat) : Int) + x.dx
  let ly := ((jc / 8 : Nat) : Int) + x.dy
  if lx < 0 || ly < 0 || decide (7 < lx) || decide (7 < ly) || decide (64 ≤ jc) then none
  else
    let c := 8 * ly.toNat + lx.toNat
    match x.rect with
    | some r => if r.has c then some c else none
    | none => none

/-- The job-logical number of a device logical core. -/
def Job.jobCore (x : Job) (c : Nat) : Nat :=
  8 * (((c / 8 : Nat) : Int) - x.dy).toNat + (((c % 8 : Nat) : Int) - x.dx).toNat

/-- A job as it would stand in a rectangle. -/
def Job.placedAt (x : Job) (r : Option Rect) (dx dy : Int) : Job := { x with rect := r, dx := dx, dy := dy }

/-- A pre-empted job as it stood when it was halted. -/
def Job.asSaved (x : Job) : Job :=
  match x.saved with
  | some v => x.placedAt v.rect v.dx v.dy
  | none => x

/-- The device logical cores of a job. -/
def Job.cores (x : Job) : List Nat :=
  match x.rect with
  | some r => r.cores
  | none => []

/-- The device logical core of a job-logical core of job `j`. -/
def State.devCore (s : State) (j jc : Nat) : Option Nat :=
  match s.job? j with
  | some x => x.devCore jc
  | none => none

/-- The die that holds a job-logical core; 0 for one outside the rectangle. -/
def State.jobDie (s : State) (j jc : Nat) : Nat :=
  match s.devCore j jc with
  | some c => dieOf c
  | none => 0

/-! ## Layouts -/

/-- A tile handle (Table 8.4). -/
def tileHandle (gen index core : Nat) : W64 :=
  BitVec.ofNat 64 (gen % 256 * 2 ^ 56 + index % 4096 * 2 ^ 44 + core % 128 * 2 ^ 37)

/-- Tile index of a handle. -/
def handleIndex (v : W64) : Nat := bits v.toNat 44 12

/-- A frame pointer: base, job-logical core, device (Table 8.4). -/
def framePtr (base core dev : Nat) : W64 :=
  BitVec.ofNat 64 (base % 2 ^ 19 + core % 128 * 2 ^ 19 + dev % 1024 * 2 ^ 26)

/-- A range value (Table 8.4). -/
def rangeVal (lo hi : Nat) : W64 := BitVec.ofNat 64 (lo % 2 ^ 32 + hi % 2 ^ 32 * 2 ^ 32)

/-- A STATUS value: code [7:0], detail [63:8]. -/
def statusVal (code detail : Nat) : W64 := BitVec.ofNat 64 (code % 256 + detail * 256)

/-- Token word W0 (Table 10.7). -/
def Token.w0 (t : Token) : Nat :=
  t.dev.toNat * 2 ^ 54 + t.core.toNat * 2 ^ 47 + t.frame.toNat * 2 ^ 28 + t.block.toNat * 2 ^ 16 + t.entry.toNat * 2 ^ 9
    + t.port.toNat * 2 ^ 7 + t.job.toNat * 2

/-- Token word W1 (Table 10.7). -/
def Token.w1 (t : Token) : Nat :=
  t.tag.toNat * 2 ^ 32 + t.type.toNat * 2 ^ 27 + t.dim.toNat * 2 ^ 24 + b2n t.poison * 2 ^ 23 + t.cls.toNat * 2 ^ 21
    + t.src.toNat * 2 ^ 14

/-- A token from its three words and its sideband. -/
def Token.ofWords (w0 w1 : Nat) (w2 : W64) (inst : Nat) : Token where
  dev := BitVec.ofNat 10 (bits w0 54 10)
  core := BitVec.ofNat 7 (bits w0 47 7)
  frame := BitVec.ofNat 19 (bits w0 28 19)
  block := BitVec.ofNat 12 (bits w0 16 12)
  entry := BitVec.ofNat 7 (bits w0 9 7)
  port := BitVec.ofNat 2 (bits w0 7 2)
  job := BitVec.ofNat 6 (bits w0 1 6)
  tag := BitVec.ofNat 32 (bits w1 32 32)
  type := BitVec.ofNat 5 (bits w1 27 5)
  dim := BitVec.ofNat 3 (bits w1 24 3)
  poison := bitAt w1 23
  cls := BitVec.ofNat 2 (bits w1 21 2)
  src := BitVec.ofNat 7 (bits w1 14 7)
  w2 := w2
  inst := inst

/-! ## Draws -/

/-- The next draw from the free values. -/
def State.draw (s : State) : State × Nat := ({ s with draws := s.draws + 1 }, s.draws)

/-- A fresh request id. -/
def State.fresh (s : State) : State × Nat := ({ s with nextId := s.nextId + 1 }, s.nextId)

/-- The device runs in proof service (R37). -/
def State.proof (s : State) : Bool := s.hkc.level == .proof

/-- This device's id (R24). -/
def State.devnum (s : State) : Nat := s.host.devnum.toNat

end Sys2Proof.Machine
end

