-- ==== Sys2Proof/Machine/Physical.lean ====
section
/-! DEFINITION. The physical address space (R67 to R74, R81): homes, floors, rooms, the zero map and poison. -/

namespace Sys2Proof.Machine

/-- What a physical address names (Table 4.1). -/
inductive Home where
  /-- HBM at this device, by local address -/
  | hbm (pa : Nat)
  /-- the host bus -/
  | host (a : Nat)
  /-- another device, and the physical address there -/
  | fabric (dev pa : Nat)
  | hole
  deriving DecidableEq, Repr

/-- Bytes of HBM. -/
def hbmBytes : Nat := 2 ^ 39

/-- The home of a physical address at a device (R67, R69): a fabric address of the device's own id is local. -/
def homeOf (devnum pa : Nat) : Home :=
  if pa < hbmBytes then .hbm pa
  else if decide (2 ^ 49 ≤ pa) && decide (pa < 2 ^ 50) then .host (pa % 2 ^ 49)
  else if decide (2 ^ 51 ≤ pa) && decide (pa < 2 ^ 52) then
    let dev := bits pa 41 10
    let r := bits pa 0 41
    if dev = devnum then (if r < hbmBytes then .hbm r else .hole) else .fabric dev r
  else .hole

/-- The floor of an HBM address, 16 × room + floor (R68). -/
def floorOf (pa : Nat) : Nat := pa / 2 ^ 32

/-- The room of an HBM address. -/
def roomOf (pa : Nat) : Nat := pa / 2 ^ 36

/-- A floor. -/
def State.floor (s : State) (k : Nat) : Floor := Table.getD s.floors k {}

/-- A room. -/
def State.room (s : State) (r : Nat) : Room := Table.getD s.rooms r {}

/-- The floor's contents can be accessed (Table 4.2). -/
def FloorSt.open (f : FloorSt) : Bool := f == .lit || f == .safelight

/-- The failing rows of the floors that satisfy `p` are repaired (Table 2.7). -/
def State.repairRows (s : State) (p : Nat → Bool) : State :=
  { s with hkc := { s.hkc with defects := { s.hkc.defects with rows := s.hkc.defects.rows.filter (fun u => !p (floorOf (64 * u))) } } }

/-- Wake a room's channels: the room and its SAFELIGHT floors become LIT (R72), their failing rows repaired (R40). -/
def State.lightRoom (s : State) (r : Nat) : State :=
  { s.repairRows (fun k => k / 16 == r && (s.floor k).st == .safelight) with
    rooms := Table.modify s.rooms r {} (fun m => { m with lit := true, waking := false, last := s.clock })
    floors := s.floors.map (fun (k, f) => if k / 16 = r && f.st == .safelight then (k, { f with st := .lit }) else (k, f)) }

/-- Add to a job's byte and wake counts for a room (R79). -/
def Job.count (x : Job) (r bytes wakes : Nat) : Job :=
  { x with bytes := Table.modify x.bytes r 0 (· + bytes), wakes := Table.modify x.wakes r 0 (· + wakes) }

/-- A request of `job` (none for the host and for other devices) reaches a room: the room wakes if it must, the wait and
the bytes are counted (R72, R79). Log entry 20. -/
def State.touchRoom (s : State) (job : Option Nat) (r bytes : Nat) : State :=
  let asleep := !(s.room r).lit
  let s1 := if asleep then s.lightRoom r
    else { s with rooms := Table.modify s.rooms r {} (fun m => { m with last := s.clock }) }
  match job with
  | some j => s1.onJob j (fun x => x.count r bytes (b2n asleep))
  | none => s1

/-- A span of addresses cut at multiples of `step`: (address, length), at most `fuel` pieces. -/
def cut (step : Nat) : Nat → Nat → Nat → List (Nat × Nat)
  | 0, _, _ => []
  | fuel + 1, a, n =>
    if n = 0 then []
    else
      let k := min n (step - a % step)
      (a, k) :: cut step fuel (a + k) (n - k)

/-- A span cut at multiples of `step`. -/
def pieces (step a n : Nat) : List (Nat × Nat) := cut step (n / step + 2) a n

/-- What an access finds. -/
inductive Got where
  | data (bytes : List Byte)
  /-- a poisoned unit (R81) -/
  | poison
  /-- a DARK or ZEROING floor (R73) -/
  | dark
  deriving DecidableEq, Repr

/-- The 64-byte units that a span touches. -/
def unitsOf (pa n : Nat) : List Nat := if n = 0 then [] else upFrom (pa / 64) ((pa + n - 1) / 64 - pa / 64 + 1)

/-- Read bytes of HBM, which lie in one floor. A refused request wakes the room too (R72). -/
def State.hbmRead (s : State) (job : Option Nat) (pa n : Nat) : State × Got :=
  if (s.floor (floorOf pa)).st.open then
    let s1 := s.touchRoom job (roomOf pa) n
    if (unitsOf pa n).any (fun u => s.poison.contains u) then (s1, .poison) else (s1, .data (Memory.read s1.mem pa n))
  else (s.touchRoom job (roomOf pa) 0, .dark)

/-- The zero-map regions of 64 KiB that a write newly clears (R71): each counts as a wait of the job. -/
def State.clearRegions (s : State) (job : Option Nat) (pa n : Nat) : State :=
  let k := floorOf pa
  let f := s.floor k
  let rs := (if n = 0 then [] else upFrom (pa % 2 ^ 32 / 65536) ((pa + n - 1) % 2 ^ 32 / 65536 - pa % 2 ^ 32 / 65536 + 1)).filter
    (fun r => !f.cleared.contains r)
  if rs.isEmpty then s
  else
    let s1 := { s with floors := Table.put s.floors k { f with cleared := f.cleared ++ rs } }
    match job with
    | some j => s1.onJob j (fun x => x.count (roomOf pa) 0 rs.length)
    | none => s1

/-- A write of HBM performs every armed WATCH of these bytes that now holds another value than it expects (R240). -/
def State.notifyWatches (s : State) (pa n : Nat) : State :=
  { s with memReqs := s.memReqs.map (fun m =>
      match m.since, m.elems with
      | some _, [e] =>
        if m.begun || decide (pa + n ≤ e.dest) || decide (e.dest + e.len ≤ pa) then m
        else
          let v := Memory.readNat s.mem e.dest e.len
          if v = m.req.b.toNat % 2 ^ (8 * e.len) then m else { m with begun := true, val := v }
      | _, _ => m) }

/-- Write bytes of HBM, which lie in one floor. A write of a whole 64-byte unit clears its poison; a partial write to a
poisoned unit is not performed (R81). -/
def State.hbmWrite (s : State) (job : Option Nat) (pa : Nat) (bs : List Byte) : State × Got :=
  let n := bs.length
  if (s.floor (floorOf pa)).st.open then
    let s1 := s.touchRoom job (roomOf pa) n
    let whole : Nat → Bool := fun u => decide (pa ≤ 64 * u) && decide (64 * u + 64 ≤ pa + n)
    if (unitsOf pa n).any (fun u => s.poison.contains u && !whole u) then (s1, .poison)
    else
      let s2 := s1.clearRegions job pa n
      let s3 : State := { s2 with
          mem := Memory.write s2.mem pa bs
          poison := s2.poison.filter (fun u => !((unitsOf pa n).contains u && whole u)) }
      (s3.notifyWatches pa n, .data [])
  else (s.touchRoom job (roomOf pa) 0, .dark)

/-! ## The host bus (R16, R52) -/

/-- A CXL port is up, and refuses no traffic (R52). -/
def State.portUp (s : State) (n : Nat) : Bool := match s.host.ports[n]? with | some p => p.up | none => false

/-- The port passes traffic: up, and not refusing it (R52). -/
def State.portOpen (s : State) (n : Nat) : Bool :=
  match s.host.ports[n]? with | some p => p.up && !p.refused | none => false

/-- The port that carries device traffic to a bus address: even 4 KiB units by port 0 and odd ones by port 1, and all of it by
the other port while one is down (R16). -/
def State.busPort (s : State) (a : Nat) : Option Nat :=
  let n := a / 4096 % 2
  if s.portUp n then some n else if s.portUp (1 - n) then some (1 - n) else none

/-- Device traffic to a bus address passes: the port that carries it refuses none (R52). -/
def State.busPasses (s : State) (a : Nat) : Bool := match s.busPort a with | some n => s.portOpen n | none => false

/-- Device traffic to a run of bytes passes, each 4 KiB unit by its port. -/
def State.spanPasses (s : State) (a n : Nat) : Bool := (upFrom (a / 4096) ((a + n - 1) / 4096 - a / 4096 + 1)).all (fun u => s.busPasses (4096 * u))

/-- The bytes the host's memory holds. -/
def State.hostRead (s : State) (a n : Nat) : List Byte := Memory.read s.hostMem a n

/-- Write the host's memory. -/
def State.hostWrite (s : State) (a : Nat) (bs : List Byte) : State := { s with hostMem := Memory.write s.hostMem a bs }


end Sys2Proof.Machine
end

