-- ==== Sys2Proof/Machine/Flits.lean ====
section
/-! DEFINITION. Putting flits on the Yilyel links (R18 to R23, R49), and the requests that the device's rings make of another
device's memory (R54, R69). -/

namespace Sys2Proof.Machine

/-- A link. -/
def State.link (s : State) (n : Nat) : Link := Table.getD s.links n {}

/-- Change a link. -/
def State.onLink (s : State) (n : Nat) (f : Link → Link) : State :=
  { s with links := Table.put s.links n (f (s.link n)) }

/-- The flit header (Table 1.5). -/
def flitHeader (ftype vc ntok seq ack cred cvc : Nat) : Nat :=
  ftype % 16 * 2 ^ 60 + vc % 8 * 2 ^ 57 + ntok % 16 * 2 ^ 53 + seq % 4096 * 2 ^ 41 + ack % 4096 * 2 ^ 29
    + cred % 256 * 2 ^ 21 + cvc % 8 * 2 ^ 18

/-- A flit of 256 bytes (R18): header, 240 bytes of payload, CRC. -/
def flitBytes (ftype vc ntok seq ack cred cvc : Nat) (payload : List Byte) : List Byte :=
  let body := natLe 8 (flitHeader ftype vc ntok seq ack cred cvc) ++ (payload ++ zeros (240 - payload.length)).take 240
  body ++ natLe 8 (Config.flitCrc body).toNat

/-- The credits that the next flit returns: the lowest channel that owes some, at most 255. -/
def Link.credit (l : Link) : Nat × Nat :=
  match l.owed.find? (fun p => decide (0 < p.2)) with
  | some (vc, n) => (min n 255, vc)
  | none => (0, 0)

/-- Put one flit on the wire; a data flit takes a sequence number and a place in the replay buffer. -/
def Link.emit (l : Link) (ftype vc ntok : Nat) (payload : List Byte) : Link :=
  let (cred, cvc) := l.credit
  let bytes := flitBytes ftype vc ntok (if ftype = 0 then l.txSeq.toNat else 0) l.ack.toNat cred cvc payload
  let l1 := { l with wire := l.wire ++ [bytes], owed := Table.put l.owed cvc (Table.getD l.owed cvc 0 - cred) }
  if ftype = 0 then
    { l1 with
      replay := l.replay ++ [(l.txSeq, bytes)]
      txSeq := l.txSeq + 1
      credits := Table.put l.credits vc (Table.getD l.credits vc 0 - 1) }
  else l1

/-- Send waiting data flits while there is credit and room, at most `n` of them: the first whose channel has credit. -/
def Link.pump (l : Link) : Nat → Link
  | 0 => l
  | n + 1 =>
    if l.up && decide (l.replay.length < 1024) then
      match takeFirst (fun f => decide (0 < Table.getD l.credits f.vc 0)) l.waiting with
      | some (f, rest) => Link.pump ({ l with waiting := rest }.emit 0 f.vc f.ntok f.payload) n
      | none => l
    else l

/-- Queue data flits on a link and send what can go. -/
def State.sendFlits (s : State) (n : Nat) (fs : List FlitReq) : State :=
  s.onLink n (fun l =>
    let l1 := { l with waiting := l.waiting ++ fs }
    l1.pump l1.waiting.length)

/-- The egress link for traffic of a compute die (R49): none without a route. -/
def State.egress (s : State) (die dev : Nat) : Option Nat :=
  let r := (Table.getD s.host.yroute dev 0).toNat
  if bitAt r 16 then some (bits r (4 * die) 4) else none

/-- The bytes of a link record (Table 1.9). -/
def LinkRec.bytes (r : LinkRec) : List Byte :=
  natLe 1 r.kind ++ natLe 1 (b2n r.poison) ++ natLe 1 r.job ++ natLe 1 0 ++ natLe 4 r.body.length ++ natLe 2 r.dst
    ++ natLe 2 r.src ++ natLe 4 r.rid ++ r.body

/-- A record's flits: its bytes, 240 at a time. -/
def recordFlits (vc : Nat) : Nat → List Byte → List FlitReq
  | 0, _ => []
  | n + 1, bs => if bs.isEmpty then [] else { vc := vc, ntok := 0, payload := bs.take 240 } :: recordFlits vc n (bs.drop 240)

/-! ## Rings (R54, R64) -/

/-- Where a ring's byte lies: `LOC` in bit 63, the address in [51:0] (Table 3.4). Log entry 16. -/
def State.ringAt (s : State) (base : W64) (off : Nat) : Home :=
  let a := bits base.toNat 0 52 + off
  if bitAt base.toNat 63 then homeOf s.devnum a else .host a

/-- Owner of what a queue asks of another device to fetch its next record. -/
def fetchOwner (q : Nat) : List Nat := [11, q]

/-- Owner of a record that a ring posts to another device: 0 for a completion of queue `n`, 1 for an event of vector `n`, and 2 for an
event whose own refusal raises none. -/
def ringOwner (kind n id : Nat) : List Nat := [12, kind, n, id]

/-- The request of a ring for one unit of another device's memory (Table 1.10); no job makes it. -/
def State.askUnit (s : State) (owner : List Nat) (dev pa n : Nat) (data : Option (List Byte)) : State :=
  let (s1, rid) := s.fresh
  let q : FabReq := { owner := owner, write := data.isSome, va := 2 ^ 51 + dev * 2 ^ 41 + pa, dev := dev, pa := pa, len := n, rid := rid }
  let r : LinkRec := {
    kind := if data.isSome then 3 else 2
    dst := dev
    src := s.devnum
    rid := rid
    body := natLe 8 pa ++ natLe 4 n ++ zeros 4 ++ data.getD [] }
  let s2 : State := { s1 with fabric := s1.fabric ++ [q] }
  match s2.egress 0 dev with
  | some l => s2.sendFlits l (recordFlits 2 (r.bytes.length / 240 + 1) r.bytes)
  | none => s2

/-- Ask for a run of bytes, by units of at most 64: they leave as the traffic of compute die 0 does (log entry 16). -/
def State.askRing (s : State) (owner : List Nat) (dev pa n : Nat) (data : Option (List Byte)) : State :=
  (pieces 64 pa n).foldl (fun t p => t.askUnit owner dev p.1 p.2 (data.map (fun bs => (bs.drop (p.1 - pa)).take p.2))) s

/-- The answers that an owner has had, once all are here: the bytes in order, or none where one is refused; with the fabric-window
address that FLOOR_DARK names (R69). -/
def State.ringAnswer (s : State) (owner : List Nat) : Option (Option (List Byte) × Option Nat) :=
  let rs := s.fabric.filter (fun f => f.owner == owner)
  if rs.isEmpty || rs.any (fun f => f.answer.isNone) then none
  else
    let good := rs.all (fun f => match f.answer with | some (0, _) => true | _ => false)
    let dark := rs.find? (fun f => match f.answer with | some (1, _) => Config.freeDark f.rid | _ => false)
    some (if good then some (rs.flatMap (fun f => match f.answer with | some (_, bs) => bs | none => [])) else none, dark.map (·.va))

/-- Forget the answers that an agent has used. -/
def State.dropOwner (s : State) (owner : List Nat) : State := { s with fabric := s.fabric.filter (fun r => r.owner != owner) }

end Sys2Proof.Machine
end

