-- ==== Sys2Proof/Machine/Reports.lean ====
section
/-! DEFINITION. What the device reports to the host: MSI-X messages (R51), completion records (R57), the event ring
and the events (R64 to R66), and the error counts of R41. -/

namespace Sys2Proof.Machine

/-- A source fires an MSI-X vector: sent at once by port 0's function, or its pending bit set while masked (R16, R51). A port
that is down or refuses traffic passes no message (R52). -/
def State.msix (s : State) (v : Nat) : State :=
  if s.host.unmasked.contains v then (if s.portOpen 0 then { s with host := { s.host with sent := s.host.sent ++ [v] } } else s)
  else if s.host.pending.contains v then s
  else { s with host := { s.host with pending := s.host.pending ++ [v] } }

/-- A command queue. -/
def State.queue (s : State) (q : Nat) : Queue := Table.getD s.host.queues q {}

/-- Put a command queue. -/
def State.setQueue (s : State) (q : Nat) (x : Queue) : State :=
  { s with host := { s.host with queues := Table.put s.host.queues q x } }

/-- Entries of a queue. -/
def Queue.entries (x : Queue) : Nat := 2 ^ x.qlog

/-- `PHASE` of the record with this index: 1 on the first pass, alternating (R57). -/
def phaseBit (index log : Nat) : Nat := 1 - index / 2 ^ log % 2

/-! ## Events -/

/-- The end events, which are never discarded (R65). -/
def Event.isEnd (e : Event) : Bool := e.type == 1 || e.type == 2 || e.type == 3

/-- The event ring is full. -/
def EventRing.full (r : EventRing) : Bool := decide (2 ^ r.elog ≤ (r.prod - r.cons).toNat)

/-- The payload of FLOOR_DARK: room, floor, address, and who asked (Table 3.13). -/
def darkPayload (job : Option Nat) (pa : Nat) : List Byte :=
  natLe 1 (bits pa 36 3) ++ natLe 1 (bits pa 32 4) ++ natLe 8 pa ++ natLe 1 (match job with | some _ => 0 | none => 1)

/-- The payload of UNROUTABLE: destination device and token W0 (Table 3.13). -/
def unroutablePayload (dev w0 : Nat) : List Byte := natLe 2 dev ++ natLe 8 w0

/-- A ring posts a record to another device's memory. -/
def State.postRing (s : State) (kind n dev pa : Nat) (bytes : List Byte) : State :=
  let (s1, id) := s.fresh
  s1.askRing (ringOwner kind n id) dev pa bytes.length (some bytes)

/-- Write an event's record (Table 3.12), then send the ring's vector: at once, or when another device has answered. With the event
that a refused floor (R73) or a missing route (R24) raises in turn: type and payload. Of a `last` event no more is raised. -/
def State.writeEvent (s : State) (e : Event) (last : Bool) : State × Option (Nat × List Byte) :=
  let r := s.host.events
  let bytes := natLe 2 e.type ++ natLe 1 e.job ++ natLe 1 (phaseBit r.prod.toNat r.elog) ++ natLe 4 e.seq.toNat
    ++ natLe 8 e.time.toNat ++ (e.payload ++ zeros (48 - e.payload.length))
  let advance (t : State) : State := { t with host := { t.host with events := { r with prod := r.prod + 1 } } }
  match s.ringAt r.base (r.prod.toNat % 2 ^ r.elog * 64) with
  | .hbm pa =>
    match s.hbmWrite none pa bytes with
    | (t, .dark) => ((advance t).msix r.vec.toNat, some (0x000F, darkPayload none pa))
    | (t, _) => ((advance t).msix r.vec.toNat, none)
  | .host h => ((advance (if s.spanPasses h bytes.length then s.hostWrite h bytes else s)).msix r.vec.toNat, none)
  | .fabric dev pa =>
    (advance (s.postRing (if last then 2 else 1) r.vec.toNat dev pa bytes),
      if (s.egress 0 dev).isSome then none else some (0x000C, unroutablePayload dev 0))
  | .hole => ((advance s).msix r.vec.toNat, none)

/-- What a written end event gives back: the slot, the phase id or the job id (R65). -/
def State.endWritten (s : State) (e : Event) : State :=
  match e.type with
  | 1 => s.onJob e.job (fun x => { x with insts := Table.del x.insts (recNat e.payload 0 1) })
  | 2 => s.onJob e.job (fun x => { x with phases := x.phases.filter (fun p => !(p.id == recNat e.payload 0 2 && p.ended)) })
  | 3 => { s with jobs := Table.del s.jobs e.job }
  | _ => s

/-- An event is detected (R65, R66): numbered, then written, held or discarded. With what its own writing raises. -/
def State.note (s : State) (type job : Nat) (payload : List Byte) (last : Bool) : State × Option (Nat × List Byte) :=
  let r := s.host.events
  let e : Event := { type := type, job := job, seq := r.seq, time := s.time, payload := payload }
  let s1 := { s with host := { s.host with events := { r with seq := r.seq + 1 } } }
  if e.isEnd then
    if r.en && !r.full && r.waiting.isEmpty then
      let (t, f) := s1.writeEvent e last
      (t.endWritten e, f)
    else ({ s1 with host := { s1.host with events := { s1.host.events with waiting := s1.host.events.waiting ++ [e] } } }, none)
  else if r.en && !r.full then s1.writeEvent e last
  else
    ({ s1 with host := { s1.host with events := { s1.host.events with
        lost := if r.lost = 0xFFFFFFFF then r.lost else r.lost + 1 } } }, none)

/-- What the writing of an event raises: it is noted in its turn, and a refusal of that one raises none (log entry 16). -/
def State.follow (p : State × Option (Nat × List Byte)) : State :=
  match p with
  | (s, some (type, payload)) => (s.note type 0xFF payload true).1
  | (s, none) => s

/-- An event, with the one that its own writing raises. -/
def State.event (s : State) (type job : Nat) (payload : List Byte) : State := State.follow (s.note type job payload false)

/-- Write waiting end events while the ring has room, at most `n` of them. -/
def State.drainEvents (s : State) : Nat → State
  | 0 => s
  | n + 1 =>
    let r := s.host.events
    match r.waiting with
    | [] => s
    | e :: rest =>
      if r.en && !r.full then
        let s1 := { s with host := { s.host with events := { r with waiting := rest } } }
        State.drainEvents ((State.follow (s1.writeEvent e false)).endWritten e) n
      else s

/-- FLOOR_DARK (R73); the job field is 0xFF for the host and for other devices. -/
def State.floorDark (s : State) (job : Option Nat) (pa : Nat) : State := s.event 0x000F (job.getD 0xFF) (darkPayload job pa)

/-- UNROUTABLE (R24). -/
def State.unroutable (s : State) (dev w0 : Nat) : State := s.event 0x000C 0xFF (unroutablePayload dev w0)

/-! ## Physical accesses of the device's own agents, with their events -/

/-- Read HBM for an agent, raising FLOOR_DARK where the floor is refused. -/
def State.devRead (s : State) (job : Option Nat) (pa n : Nat) : State × Got :=
  match s.hbmRead job pa n with
  | (s1, .dark) => (s1.floorDark job pa, .dark)
  | r => r

/-- Write HBM for an agent, raising FLOOR_DARK where the floor is refused. -/
def State.devWrite (s : State) (job : Option Nat) (pa : Nat) (bs : List Byte) : State × Got :=
  match s.hbmWrite job pa bs with
  | (s1, .dark) => (s1.floorDark job pa, .dark)
  | r => r

/-! ## Command queues -/

/-- What the fetch of a record finds. -/
inductive RingGot where
  | bytes (bs : List Byte)
  /-- an error or poison -/
  | failed
  /-- another device has still to answer -/
  | waits
  deriving DecidableEq, Repr

/-- Read `n` bytes of queue `q`'s ring, which may lie in another device's memory. -/
def State.busRead (s : State) (q : Nat) (base : W64) (off n : Nat) : State × RingGot :=
  match s.ringAt base off with
  | .hbm pa => (match s.devRead none pa n with | (t, .data bs) => (t, .bytes bs) | (t, _) => (t, .failed))
  | .host h => (s, if s.spanPasses h n then .bytes (s.hostRead h n) else .failed)
  | .fabric dev pa =>
    if s.fabric.all (fun f => f.owner != fetchOwner q) then
      let t := s.askRing (fetchOwner q) dev pa n none
      (if (s.egress 0 dev).isSome then t else t.unroutable dev 0, .waits)
    else
      match s.ringAnswer (fetchOwner q) with
      | none => (s, .waits)
      | some (got, dark) =>
        let t := s.dropOwner (fetchOwner q)
        (match dark with | some a => t.floorDark none a | none => t, match got with | some bs => .bytes bs | none => .failed)
  | .hole => (s, .failed)

/-- Write queue `q`'s completion ring; a refused floor raises FLOOR_DARK (R73). True when the record is on its way to another device. -/
def State.busWrite (s : State) (q : Nat) (base : W64) (off : Nat) (bs : List Byte) : State × Bool :=
  match s.ringAt base off with
  | .hbm pa => ((s.devWrite none pa bs).1, false)
  | .host h => (if s.spanPasses h bs.length then s.hostWrite h bs else s, false)
  | .fabric dev pa =>
    let t := s.postRing 0 q dev pa bs
    (if (s.egress 0 dev).isSome then t else t.unroutable dev 0, true)
  | .hole => (s, false)

/-- Owner of the accesses of a queue's command to other devices. -/
def cmdOwner (q : Nat) : List Nat := [4, q]

/-- The command's completion record (Table 3.5), then `CPROD`, then the queue's vector if `IRQ` is set: at once, or when another device
has answered for the record. -/
def State.complete (s : State) (q status r0 r1 : Nat) : State :=
  let x := s.queue q
  match x.cur with
  | none => s
  | some cmd =>
    let rec_ := cmd.bytes.drop 4 |>.take 4
    let bytes := rec_ ++ natLe 2 status ++ (cmd.bytes.take 1) ++ ((cmd.bytes.drop 8).take 1) ++ natLe 8 r0 ++ natLe 8 r1
      ++ natLe 4 cmd.index.toNat ++ zeros 3 ++ natLe 1 (phaseBit x.cprod.toNat x.qlog)
    let irq := bitAt (recNat cmd.bytes 1 1) 0
    let (s1, away) := s.busWrite q x.cbase (x.cprod.toNat % x.entries * 32) bytes
    let s2 : State := { s1 with fabric := s1.fabric.filter (fun r => r.owner.take 2 != cmdOwner q) }
    if away then s2.setQueue q { x with cur := none, posting := some irq }
    else
      let s3 := s2.setQueue q { x with cprod := x.cprod + 1, cur := none }
      if irq then s3.msix x.vec.toNat else s3

/-- Another device has answered for a ring's record: once the whole is performed, `CPROD` advances and the vector follows (R57). -/
def State.ringAnswered (s : State) (kind n id : Nat) : State :=
  match s.ringAnswer (ringOwner kind n id) with
  | none => s
  | some (_, dark) =>
    let t := s.dropOwner (ringOwner kind n id)
    let u := match dark with | some a => if kind = 2 then t else t.floorDark none a | none => t
    if kind = 0 then
      let x := u.queue n
      match x.posting with
      | some irq =>
        let v := u.setQueue n { x with cprod := x.cprod + 1, posting := none }
        if irq then v.msix x.vec.toNat else v
      | none => u
    else u.msix n

/-- `SERVICE_LIMIT`: instance and format code (R37). -/
def State.serviceLimit (s : State) (j i code : Nat) : State :=
  s.event 0x000A j (natLe 4 (s.instId j i) ++ natLe 1 code)

/-! ## Error counts and retirement (R41) -/

/-- A saturating 16-bit count. -/
def sat16 (n : Nat) : Nat := if n < 0xFFFF then n + 1 else n

/-- Error counts of a site or room. -/
def State.ecntOf (s : State) (i : Nat) : Ecnt := Table.getD s.hkc.ecnt i {}

/-- Change the error counts of a site or room. -/
def State.onEcnt (s : State) (i : Nat) (f : Ecnt → Ecnt) : State :=
  { s with hkc := { s.hkc with ecnt := Table.put s.hkc.ecnt i (f (s.ecntOf i)) } }

/-- Mark a core for retirement and raise RETIRE_PENDING: cause 0 residue, 1 corrected count, 2 uncorrectable. A core that is
marked already raises it again at each further cause (the model's choice, log entry 87). -/
def State.markRetire (s : State) (c cause : Nat) : State :=
  let site := siteOf s.hkc.skip c
  let s1 := if s.hkc.retire.contains site then s else { s with hkc := { s.hkc with retire := s.hkc.retire ++ [site] } }
  s1.event 0x000B 0xFF (natLe 1 site ++ natLe 1 cause)

/-- A corrected error of a core's storage: counted, and a cause for retirement once the window's rise reaches `CETHR`. A window
of 2^30 clocks opens at the first corrected error after the last one has ended (the model's choice, log entry 87). -/
def State.corrected (s : State) (c : Nat) : State :=
  let site := siteOf s.hkc.skip c
  let e := s.ecntOf site
  let fresh := decide (e.windowClock + 2 ^ 30 ≤ s.clock)
  let base := if fresh then e.corr else e.windowCorr
  let at_ := if fresh then s.clock else e.windowClock
  let corr := (e.corr + 1) % 2 ^ 32
  let s1 := s.onEcnt site (fun e => { e with corr := corr, windowCorr := base, windowClock := at_ })
  let th := s.hkc.cethr.toNat
  if th ≠ 0 && decide (th ≤ (corr + 2 ^ 32 - base) % 2 ^ 32) then s1.markRetire c 1 else s1

/-- An uncorrectable error of a core's storage; `marks` for the frame store and the instruction memory. -/
def State.uncorrectable (s : State) (c : Nat) (marks : Bool) : State :=
  let s1 := s.onEcnt (siteOf s.hkc.skip c) (fun e => { e with uncorr := sat16 e.uncorr })
  if marks then s1.markRetire c 2 else s1

/-! ## The memory's error-correcting code (R81) -/

/-- The 64 KiB region of an HBM address is still to be zeroed, so that a read of it gives zeros with valid ECC (R71). -/
def State.cleanRegion (s : State) (pa : Nat) : Bool := !(s.floor (floorOf pa)).cleared.contains (pa % 2 ^ 32 / 65536)

/-- What the memory's error-correcting code found at a read of `n` bytes, which lie in one 64 KiB region (R81): counted in the
room's `ECNT`, and an uncorrectable error poisons the units and names a row to be repaired (R40). -/
def State.hbmEcc (s : State) (pa n : Nat) (e : EccOutcome) : State :=
  if s.cleanRegion pa then s else
  match e with
  | .clean => s
  | .corrected => s.onEcnt (80 + roomOf pa) (fun x => { x with corr := (x.corr + 1) % 2 ^ 32 })
  | .uncorrectable =>
    let s1 := s.onEcnt (80 + roomOf pa) (fun x => { x with uncorr := sat16 x.uncorr })
    { s1 with
      poison := s1.poison ++ (unitsOf pa n).filter (fun u => !s1.poison.contains u)
      hkc := { s1.hkc with defects := { s1.hkc.defects with
        rows := s1.hkc.defects.rows ++ (unitsOf pa n).filter (fun u => !s1.hkc.defects.rows.contains u) } } }

end Sys2Proof.Machine
end

