-- ==== Sys2Proof/Machine/LinkOps.lean ====
section
/-! DEFINITION. Sending over the Yilyel links: link records, credits and route tables (R20 to R24), and the internal
delivery of records between engines of one device. -/

namespace Sys2Proof.Machine

/-- The VC4 and VC5 credits that a job has withheld are owed to the peers (R117); those of VC4 are not while a home of it still holds
selection records (R180). -/
def Link.release (l : Link) (j : Nat) (holds : Bool) : Link :=
  let due (p : Nat × Nat) : Bool := p.1 == j && !(holds && p.2 == 4)
  { l with
    owed := (l.withheld.filter due).foldl (fun o p => Table.modify o p.2 0 (· + 1)) l.owed
    withheld := l.withheld.filter (fun p => !due p) }

/-- What held a job's routing flits back has ended: idle flits carry the credit of both channels back to the peers. -/
def State.releaseCredits (s : State) (j : Nat) (holds : Bool) : State :=
  { s with links := s.links.map (fun p =>
      (p.1, if p.2.up && p.2.withheld.any (fun w => w.1 == j) then ((p.2.release j holds).emit 1 0 0 []).emit 1 0 0 []
        else p.2.release j holds)) }

/-- The egress link for transit traffic that arrived at an I/O die (R24). -/
def State.transit (s : State) (io dev : Nat) : Option Nat :=
  let r := (Table.getD s.host.yroute dev 0).toNat
  if bitAt r 16 then some (bits r (20 + 4 * io) 4) else none

/-- The I/O die that carries a link: links 0 to 7 at I/O die 0, links 8 to 15 at I/O die 1 (R6). -/
def ioDieOf (link : Nat) : Nat := link / 8

/-- Send a record to a device: to this one it passes over the die switches. Table 3.13 gives UNROUTABLE a token's W0, which a record has
not: it is reported as 0 (the model's choice, log entry 92). -/
def State.sendRec (s : State) (die vc : Nat) (r : LinkRec) : State :=
  if r.dst = s.devnum then { s with inbox := s.inbox ++ [r] }
  else
    match s.egress die r.dst with
    | none => s.unroutable r.dst 0
    | some n => s.sendFlits n (recordFlits vc (r.bytes.length / 240 + 1) r.bytes)

/-- The 24 bytes of a token on a link, with W1[13:6] naming the instance at the receiver (R23). -/
def Token.linkBytes (t : Token) (slot : Nat) : List Byte :=
  natLe 8 t.w0 ++ natLe 8 (t.w1 + slot % 256 * 2 ^ 6) ++ natLe 8 t.w2.toNat

/-- A participant of a record's batch is open here, and is the home of the group that a selection record names (Tables 1.10, 7.1). -/
def Participant.homeOf (x : Participant) (b : LinkRec) : Bool :=
  let g := recNat b.body 4 2
  x.job == b.job && x.batch == b.rid && recNat x.desc (0xC0 + g) 1 == x.p && decide (g < recNat x.desc 8 1)

/-- A home here holds selection records of a batch that it has not opened (R180). -/
def State.holdsSelections (s : State) (j : Nat) : Bool :=
  let held (b : LinkRec) : Bool := b.kind == 7 && b.job == j && b.dst == s.devnum && !s.parts.any (fun x => x.homeOf b)
  s.inbox.any held || s.routeWork.any (fun w => match w.what with | .record b => held b | _ => false)

end Sys2Proof.Machine
end

