-- ==== Sys2Proof/Machine/Paging.lean ====
section
/-! DEFINITION. Page tables, translation and permissions (R82 to R88), and the raising and joining of faults (R89 to
R92). -/

namespace Sys2Proof.Machine

/-- Kinds of access (Table 4.9). -/
inductive Acc where
  | read | write | atomic | prefetch
  deriving DecidableEq, Repr, Inhabited

/-- A fault of a walk or of a permission: kind, reason (Table 4.8), the level and the entry at which the walk ended, and
the address of a table in a refused floor. -/
structure WalkFault where
  kind : Nat
  reason : Nat
  level : Nat := 0
  entry : Nat := 0
  dark : Option Nat := none
  deriving DecidableEq, Repr, Inhabited

/-! ## Walks -/

/-- Fields of an entry (Table 4.7). -/
def pteValid (e : Nat) : Bool := bitAt e 0
/-- `LEAF`. -/
def pteLeaf (e : Nat) : Bool := bitAt e 1
/-- `TYPE`. -/
def pteType (e : Nat) : Nat := bits e 2 2
/-- `CONTIG`. -/
def pteContig (e : Nat) : Nat := bits e 7 2
/-- `HOST`. -/
def pteHost (e : Nat) : Bool := bitAt e 9
/-- `PA`, in units of 64 KiB. -/
def ptePa (e : Nat) : Nat := bits e 16 36

/-- `malformed(e, n)` (R83). -/
def malformed (e level : Nat) : Bool :=
  let zero := bits e 52 12 != 0 || bits e 10 6 != 0
  let pa := ptePa e * 65536
  let inHost := decide (2 ^ 49 ≤ pa) && decide (pa < 2 ^ 50)
  let inDev := decide (pa < hbmBytes) || decide (2 ^ 51 ≤ pa)
  if zero then true
  else if pteLeaf e then
    level == 3 || pteContig e == 3 || (level == 1 && pteContig e == 2) || (level == 2 && pteContig e == 1)
      || (level == 2 && ptePa e % 8192 != 0) || !(if pteHost e then inHost else inDev)
  else level == 1 || bits e 2 8 != 0

/-- `read_entry` (R86): a table word, or the fault of a poisoned or refused read. Tables lie in device memory (R82): a read that an
entry leads elsewhere, to the host window or to another device, is refused (log entry 88). -/
def State.readEntry (s : State) (pa level : Nat) : Except WalkFault Nat :=
  let bad (dark : Option Nat) : Except WalkFault Nat := .error ⟨1, 7, level, 0, dark⟩
  match homeOf s.devnum pa with
  | .hbm a =>
    if (s.floor (floorOf a)).st.open then
      if s.poison.contains (a / 64) then bad none else .ok (Memory.readNat s.mem a 8)
    else bad (some a)
  | _ => bad none

/-- `group_ok` (R84): the whole aligned group of `n` leaves from `base`, with leaf size in 64 KiB units. -/
def State.groupOk (s : State) (base n unit level : Nat) : Except WalkFault Bool := do
  let first ← s.readEntry base level
  let es ← (List.range n).mapM (fun k => s.readEntry (base + 8 * k) level)
  return (es.zipIdx).all (fun p => pteValid p.1 && bits p.1 0 10 == bits first 0 10 && ptePa p.1 == ptePa first + p.2 * unit)
    && ptePa first % (n * unit) == 0

/-- `translate` without the permission check (R86): a translation, with the level and the entry that gave it, or a fault. -/
def State.walk (s : State) (j va : Nat) : Except WalkFault TlbEntry := do
  if bits va 55 9 ≠ 0 then throw ⟨1, 0x0A, 0, 0, none⟩
  let np (level e : Nat) : WalkFault := ⟨0, 0, level, e, none⟩
  let mf (level e : Nat) : WalkFault := ⟨1, 4, level, e, none⟩
  let e3 ← s.readEntry ((s.job j).l3 + 8 * bits va 42 13) 3
  if !pteValid e3 then throw (np 3 e3)
  if malformed e3 3 then throw (mf 3 e3)
  let t2 := ptePa e3 * 65536
  let e2 ← s.readEntry (t2 + 8 * bits va 29 13) 2
  if !pteValid e2 then throw (np 2 e2)
  if malformed e2 2 then throw (mf 2 e2)
  let (e, level, table, index) ←
    (if pteLeaf e2 then .ok (e2, 2, t2, bits va 29 13)
     else do
      let t1 := ptePa e2 * 65536
      let e1 ← s.readEntry (t1 + 8 * bits va 16 13) 1
      if !pteValid e1 then throw (np 1 e1)
      if malformed e1 1 then throw (mf 1 e1)
      return (e1, 1, t1, bits va 16 13) : Except WalkFault (Nat × Nat × Nat × Nat))
  let leafSize := if level = 1 then 65536 else 2 ^ 29
  if pteContig e = 0 then
    return { job := j, va := va / leafSize * leafSize, size := leafSize, pa := ptePa e * 65536, leaf := bits e 0 10, level := level, entry := e }
  else
    let n := if level = 1 then 32 else 4
    let base := table + 8 * (index / n * n)
    let ok ← s.groupOk base n (leafSize / 65536) level
    if !ok then throw ⟨1, 5, level, e, none⟩
    let first ← s.readEntry base level
    let size := n * leafSize
    return { job := j, va := va / size * size, size := size, pa := ptePa first * 65536, leaf := bits e 0 10, level := level, entry := e }

/-- The entries that a walk reads, in order: those of the group of a contiguous page lie beside the last (R84, R86). -/
def State.tableReads (s : State) (j va : Nat) : List Nat :=
  let p3 := (s.job j).l3 + 8 * bits va 42 13
  match s.readEntry p3 3 with
  | .error _ => [p3]
  | .ok e3 =>
    if !pteValid e3 || malformed e3 3 then [p3]
    else
      let p2 := ptePa e3 * 65536 + 8 * bits va 29 13
      match s.readEntry p2 2 with
      | .error _ => [p3, p2]
      | .ok e2 => if !pteValid e2 || malformed e2 2 || pteLeaf e2 then [p3, p2] else [p3, p2, ptePa e2 * 65536 + 8 * bits va 16 13]

/-- The reads of a walk reach their rooms: each wakes its room and counts as a request to it (R72). -/
def State.touchTables (s : State) (j va : Nat) : State :=
  (s.tableReads j va).foldl (fun t p => match homeOf t.devnum p with | .hbm a => t.touchRoom none (roomOf a) 0 | _ => t) s

/-- `allowed` and `reason_for` (Table 4.9): the first missing permission, in the order `RD`, `W`, `AT`. -/
def denied (leaf : Nat) (acc : Acc) : Option Nat :=
  let rd := bitAt leaf 4
  let w := bitAt leaf 5
  let at_ := bitAt leaf 6
  match acc with
  | .read => if rd then none else some 1
  | .write => if w then none else some 2
  | .atomic => if !rd then some 1 else if !w then some 2 else if !at_ then some 3 else none
  | .prefetch => none

/-- The physical address of `va` under a translation. -/
def TlbEntry.at (e : TlbEntry) (va : Nat) : Nat := e.pa + (va - e.va)

/-- A translation covers an address of its job. -/
def TlbEntry.covers (e : TlbEntry) (j va : Nat) : Bool := e.job == j && decide (e.va ≤ va) && decide (va < e.va + e.size)

/-- The permission fault of an access through a translation: its record names the leaf (Table 4.11). -/
def TlbEntry.denies (e : TlbEntry) (reason : Nat) : WalkFault := ⟨1, reason, e.level, e.entry, none⟩

/-- `translate`: a fresh walk and the permission check. The address, and the translation used. -/
def State.translate (s : State) (j va : Nat) (acc : Acc) : Except WalkFault (Nat × TlbEntry) := do
  let e ← s.walk j va
  match denied e.leaf acc with
  | some r => throw (e.denies r)
  | none => return (e.at va, e)

/-- Fill a TLB of `n` entries; the oldest makes way. -/
def fillTlb (n : Nat) (es : List TlbEntry) (e : TlbEntry) : List TlbEntry :=
  let kept := es.filter (fun x => !(x.job == e.job && decide (x.va < e.va + e.size) && decide (e.va < x.va + x.size)))
  (if n ≤ kept.length then kept.drop (kept.length + 1 - n) else kept) ++ [e]

/-- Fill the L2 TLB of a die. -/
def State.fillL2 (s : State) (die : Nat) (e : TlbEntry) : State :=
  { s with tlbs := Table.put s.tlbs die (fillTlb 8192 (Table.getD s.tlbs die []) e) }

/-- The page walker of a die translates for an agent without a TLB of its own: what the die's L2 TLB holds needs no table read. -/
def State.look (s : State) (die j va : Nat) : State :=
  if (Table.getD s.tlbs die []).any (fun e => e.covers j va) then s
  else
    let s1 := s.touchTables j va
    match s.walk j va with
    | .ok e => s1.fillL2 die e
    | .error _ => s1

/-! ## Faults -/

/-- The access code of a fault record: 3 only for `TABLE_POISON` (Table 4.11). -/
def accessCode (acc : Acc) (reason : Nat) : Nat :=
  if reason = 7 then 3 else match acc with | .read | .prefetch => 0 | .write => 1 | .atomic => 2

/-- The fault id: job, die, sequence (Table 4.11). -/
def faultId (j die seq : Nat) : Nat := j * 2 ^ 58 + die * 2 ^ 56 + seq % 2 ^ 48

/-- The next fault id of a die. -/
def State.nextFault (s : State) (j die : Nat) : State × Nat :=
  let q := Table.getD s.faultSeq die 0
  ({ s with faultSeq := Table.put s.faultSeq die (q + 1) }, faultId j die q)

/-- FAULT event: id, ring index, kind (Table 3.13). -/
def State.faultEvent (s : State) (j id index kind : Nat) : State :=
  s.event 0x0007 j (natLe 8 id ++ natLe 4 index ++ natLe 1 kind)

/-- Count a discarded record and report it (R92). -/
def State.loseFault (s : State) (j id kind : Nat) : State :=
  (s.onJob j (fun x => { x with lostFault := min (x.lostFault + 1) (2 ^ 32 - 1) })).faultEvent j id 0xFFFFFFFF kind

/-- Queue a record in its die's buffer of 64; a permission-fault record that finds it full is discarded (R92). -/
def State.queueFault (s : State) (die : Nat) (r : FaultRec) : State :=
  let buf := Table.getD s.faultBuf die []
  if r.kind = 1 && decide (64 ≤ buf.length) then s.loseFault r.job r.id 1
  else { s with faultBuf := Table.put s.faultBuf die (buf ++ [r]) }

/-- FLOOR_DARK for the table that a walk could not read (R73). -/
def State.darkWalk (s : State) (j : Nat) (f : WalkFault) : State :=
  match f.dark with
  | some pa => s.floorDark (some j) pa
  | none => s

/-- The part of a record that the port fills in: type, numbers, instance and port state (Table 4.11). -/
structure PortInfo where
  die : Nat
  job : Nat
  type : Nat
  num : Nat := 0
  walker : Nat := 0
  inst : Nat := 0xFFFFFFFF
  bytes : List Byte := []
  deriving DecidableEq, Repr, Inhabited

/-- A permission fault (R91): its record is queued, and nothing freezes. -/
def State.permFault (s : State) (p : PortInfo) (va : Nat) (acc : Acc) (f : WalkFault) : State :=
  let s0 := s.darkWalk p.job f
  let (s1, id) := s0.nextFault p.job p.die
  s1.queueFault p.die
    { id := id, job := p.job, kind := 1, reason := f.reason, access := accessCode acc f.reason, portType := p.type,
      portNum := p.num, walker := p.walker, va := va, entry := f.entry, level := f.level, inst := BitVec.ofNat 32 p.inst,
      port := p.bytes, time := s1.time }

/-- A not-present fault freezes its port (R89): it joins the job's pending fault on the same 64 KiB unit, or makes one
with its record. The fault's id is given back. The walk that ended so has read its tables (R72). -/
def State.absentFault (s0 : State) (p : PortInfo) (inst : Nat) (port : FaultPort) (va : Nat) (acc : Acc) (f : WalkFault) :
    State × Nat :=
  let s := s0.touchTables p.job va
  let unit := bits va 16 39
  match s.faults.find? (fun q => q.job == p.job && q.unit == unit && q.resolved.isNone) with
  | some q =>
    let s1 := { s with
      faults := s.faults.map (fun r => if r.id = q.id then { r with ports := r.ports ++ [port], insts := inst :: r.insts } else r)
      faultBuf := s.faultBuf.map (fun (k, rs) => (k, rs.map (fun r => if r.id = q.id then { r with joined := r.joined + 1 } else r))) }
    (s1, q.id)
  | none =>
    let (s1, id) := s.nextFault p.job p.die
    let s2 := s1.queueFault p.die
      { id := id, job := p.job, kind := 0, reason := 0, access := accessCode acc 0, portType := p.type, portNum := p.num,
        walker := p.walker, va := va, entry := f.entry, level := f.level, inst := BitVec.ofNat 32 p.inst, port := p.bytes,
        time := s1.time }
    ({ s2 with faults := s2.faults ++ [{ id := id, job := p.job, insts := [inst], unit := unit, ports := [port] }] }, id)

/-! ## Whole accesses by virtual address, for engines and for the command processor -/

/-- What an access by virtual address finds. -/
inductive VGot where
  | data (bytes : List Byte)
  /-- poisoned or refused -/
  | bad
  /-- a not-present fault at this address, nothing performed -/
  | absent (va : Nat) (f : WalkFault)
  /-- another device has still to answer -/
  | wait
  deriving DecidableEq, Repr

/-- The request of an agent for its bytes at a virtual address, on another device: its answer, or its sending. It was translated
when it was sent, and keeps that translation (R88). -/
def State.fabricFind (s : State) (owner : List Nat) (write : Bool) (va len : Nat) : Option FabReq :=
  s.fabric.find? (fun r => r.owner == owner && r.write == write && r.va == va && r.len == len)

/-- Each piece of a span, cut at 64 KiB pages: address, physical address, length; or the first fault. An address above another
device's memory faults as its answer would (R69). A piece that has been asked of another device stays there. -/
def State.vpieces (s : State) (owner : List Nat) (j va n : Nat) (acc : Acc) : Except (Nat × WalkFault) (List (Nat × Nat × Nat)) :=
  (pieces 65536 va n).mapM (fun (a, k) =>
    match s.fabric.find? (fun r => r.owner == owner && r.write == (acc == .write) && r.va == a) with
    | some r => .ok (a, 2 ^ 51 + r.dev * 2 ^ 41 + r.pa, k)
    | none =>
      match s.translate j a acc with
      | .ok (pa, e) =>
        (match homeOf s.devnum pa with
          | .fabric _ r => if hbmBytes ≤ r then .error (a, e.denies 6) else .ok (a, pa, k)
          | .hole => .error (a, e.denies 6)
          | _ => .ok (a, pa, k))
      | .error f => .error (a, f))

/-- A read or a write request to another device (Table 1.10). -/
def State.sendAccess (s : State) (die j dev pa n : Nat) (data : Option (List Byte)) (poison : Bool) (rid : Nat) : State :=
  match data with
  | none => s.sendRec die 2 { kind := 2, job := j, dst := dev, src := s.devnum, rid := rid, body := natLe 8 pa ++ natLe 4 n ++ zeros 4 }
  | some bs => s.sendRec die 2
      { kind := 3, poison := poison, job := j, dst := dev, src := s.devnum, rid := rid, body := natLe 8 pa ++ natLe 4 n ++ zeros 4 ++ bs }

/-- Ask another device for a unit unless it has been asked; true when its answer is here. -/
def State.askFabric (s : State) (owner : List Nat) (die j va dev pa n : Nat) (data : Option (List Byte)) (poison : Bool) : State × Bool :=
  match s.fabricFind owner data.isSome va n with
  | some r => (s, r.answer.isSome)
  | none =>
    let (s1, rid) := s.fresh
    let page := match s.walk j va with | .ok e => some e | .error _ => none
    let q : FabReq := { owner := owner, write := data.isSome, va := va, dev := dev, pa := pa, len := n, rid := rid, page := page }
    ({ s1 with fabric := s1.fabric ++ [q] }.sendAccess die j dev pa n data poison rid, false)

/-- Forget what the owners that begin so have used. -/
def State.dropWork (s : State) (work : List Nat) : State := { s with fabric := s.fabric.filter (fun r => r.owner.take work.length != work) }

/-- Owner of a request that its instance, cancelled meanwhile, has still to see performed (R244). -/
def goneOwner (j i jc : Nat) : List Nat := [0, j, i, jc]

/-- The work of an agent is given up, whose owners begin so: answers here are forgotten, and requests that are out still count for the
instance until they are answered (R103, R244); those of a copy queue hold its later requests back (R239). -/
def State.leaveWork (s : State) (work : List Nat) (j i jc : Nat) (queue : List Nat := []) : State :=
  let mine (r : FabReq) : Bool := r.owner.take work.length == work
  { s with fabric := (s.fabric.filter (fun r => !mine r || r.answer.isNone)).map (fun r =>
      if mine r then { r with owner := goneOwner j i jc ++ queue } else r) }

/-- What went out while an attempt waits: requests to other devices, and nothing that the attempt did beside. -/
def State.keepSent (s t : State) : State :=
  { s with fabric := t.fabric, links := t.links, inbox := t.inbox, nextId := t.nextId, draws := t.draws }

/-- The same, with what its requests did to the rooms they reached and to the TLBs (R72, R88). -/
def State.keepAsks (s t : State) : State :=
  { s.keepSent t with
    rooms := t.rooms, floors := t.floors, tlbs := t.tlbs, hkc := t.hkc
    jobs := s.jobs.map (fun (j, x) => (j, { x with wakes := (t.job j).wakes })) }

/-- A unit of another device's memory: virtual address, device, address there, length, and offset in the access. -/
structure AwayUnit where
  va : Nat
  dev : Nat
  pa : Nat
  len : Nat
  off : Nat
  deriving DecidableEq, Repr

/-- The unit that a request asks for. -/
def FabReq.unit (r : FabReq) : AwayUnit := { va := r.va, dev := r.dev, pa := r.pa, len := r.len, off := 0 }

/-- The units of at most 64 bytes in a piece of another device's memory. -/
def awayOf (va dev pa n off : Nat) : List AwayUnit :=
  (pieces 64 pa n).map (fun p => { va := va + (p.1 - pa), dev := dev, pa := p.1, len := p.2, off := off + (p.1 - pa) })

/-- The units of other devices in the pieces of a span. -/
def State.awayUnits (s : State) : List (Nat × Nat × Nat) → Nat → List AwayUnit
  | [], _ => []
  | (a, pa, n) :: rest, o =>
    (match homeOf s.devnum pa with | .fabric dev r => awayOf a dev r n o | _ => []) ++ State.awayUnits s rest (o + n)

/-- Every piece in host memory passes a port (R16, R52). -/
def State.piecesPass (s : State) (ps : List (Nat × Nat × Nat)) : Bool :=
  ps.all (fun p => match homeOf s.devnum p.2.1 with | .host a => s.spanPasses a p.2.2 | _ => true)

/-- Ask for every unit of other devices: true when all of the answers are here. -/
def State.askAll (s : State) (owner : List Nat) (die j : Nat) (data : Option (List Byte)) (us : List AwayUnit) : State × Bool :=
  us.foldl (fun (p : State × Bool) u =>
    let (t, here) := p.1.askFabric owner die j u.va u.dev u.pa u.len (data.map (fun bs => (bs.drop u.off).take u.len)) false
    (t, p.2 && here)) (s, true)

/-- The answers of another device for units (R69): the bytes in order, or poison. -/
def State.fabricUnits (s : State) (owner : List Nat) (j : Nat) (write : Bool) : List AwayUnit → State × Got
  | [] => (s, .data [])
  | u :: rest =>
    let (s1, h) := State.fabricUnits s owner j write rest
    match s.fabricFind owner write u.va u.len with
    | some q =>
      match q.answer with
      | some (0, bs) => (s1, match h with | .data cs => .data (bs ++ cs) | g => g)
      | some (1, _) => (if Config.freeDark q.rid then s1.floorDark (some j) (2 ^ 51 + u.dev * 2 ^ 41 + u.pa) else s1, .poison)
      | _ => (s1, .poison)
    | none => (s1, .poison)

/-- Whether a permission fault of this reader is recorded: the command processor is no port (R62), and leaves no more than the
FLOOR_DARK of a refused table read (R73). -/
def State.denyFor (s : State) (p : Option PortInfo) (j va : Nat) (acc : Acc) (f : WalkFault) : State :=
  match p with
  | some q => s.permFault q va acc f
  | none => s.darkWalk j f

/-- Read one piece of physical memory for job `j`: at home, in the host's memory, or from another device's answers. -/
def State.readPiece (s : State) (owner : List Nat) (j va pa n : Nat) : State × Got :=
  match homeOf s.devnum pa with
  | .hbm a => s.devRead (some j) a n
  | .host a => (s, .data (s.hostRead a n))
  | .fabric dev a => s.fabricUnits owner j false (awayOf va dev a n 0)
  | .hole => (s, .poison)

/-- Read every piece in order; the first poisoned or refused one spoils the whole. -/
def State.readPieces (s : State) (owner : List Nat) (j : Nat) : List (Nat × Nat × Nat) → State × Option (List Byte)
  | [] => (s, some [])
  | (va, pa, n) :: rest =>
    let (s1, g) := s.readPiece owner j va pa n
    let (s2, r) := State.readPieces s1 owner j rest
    match g, r with
    | .data bs, some cs => (s2, some (bs ++ cs))
    | _, _ => (s2, none)

/-- The die of an agent: its port's, or that of the command processor. -/
def portDie (p : Option PortInfo) : Nat := match p with | some q => q.die | none => 0

/-- The die's page walker looks at each piece of a span. -/
def State.lookAll (s : State) (die j : Nat) (ps : List (Nat × Nat × Nat)) : State := ps.foldl (fun t p => t.look die j p.1) s

/-- Read `n` bytes at a virtual address at once (R223): translated, permitted and performed, or waited for at another device. -/
def State.vread (s : State) (owner : List Nat) (p : Option PortInfo) (j va n : Nat) : State × VGot :=
  match s.vpieces owner j va n .read with
  | .error (a, f) => if f.kind = 0 then (s.touchTables j a, .absent a f) else ((s.touchTables j a).denyFor p j a .read f, .bad)
  | .ok ps =>
    if !s.piecesPass ps then (s, .wait)
    else
      match (s.lookAll (portDie p) j ps).askAll owner (portDie p) j none (s.awayUnits ps 0) with
      | (s1, false) => (s1, .wait)
      | (s1, true) =>
        match s1.readPieces owner j ps with
        | (s2, some bs) => (s2, .data bs)
        | (s2, none) => (s2, .bad)

/-- Write one piece. -/
def State.writePiece (s : State) (owner : List Nat) (j va pa : Nat) (bs : List Byte) : State × Got :=
  match homeOf s.devnum pa with
  | .hbm a => s.devWrite (some j) a bs
  | .host a => (s.hostWrite a bs, .data [])
  | .fabric dev a => s.fabricUnits owner j true (awayOf va dev a bs.length 0)
  | .hole => (s, .poison)

/-- Write the pieces of a span in order; the result says whether every one was performed. -/
def State.writePieces (s : State) (owner : List Nat) (j : Nat) : List (Nat × Nat × Nat) → List Byte → State × Bool
  | [], _ => (s, true)
  | (va, pa, n) :: rest, bs =>
    let (s1, g) := s.writePiece owner j va pa (bs.take n)
    let (s2, ok) := State.writePieces s1 owner j rest (bs.drop n)
    (s2, ok && (match g with | .data _ => true | _ => false))

/-- Write bytes at a virtual address at once, or wait for another device. -/
def State.vwrite (s : State) (owner : List Nat) (p : Option PortInfo) (j va : Nat) (bs : List Byte) : State × VGot :=
  match s.vpieces owner j va bs.length .write with
  | .error (a, f) => if f.kind = 0 then (s.touchTables j a, .absent a f) else ((s.touchTables j a).denyFor p j a .write f, .bad)
  | .ok ps =>
    if !s.piecesPass ps then (s, .wait)
    else
      match (s.lookAll (portDie p) j ps).askAll owner (portDie p) j (some bs) (s.awayUnits ps 0) with
      | (s1, false) => (s1, .wait)
      | (s1, true) =>
        match s1.writePieces owner j ps bs with
        | (s2, true) => (s2, .data [])
        | (s2, false) => (s2, .bad)

/-! ## Owners of requests to other devices

Walkers, copy engines and routing engines use owners that begin with 1, 2 and 3. -/

/-- A trap record or a report, by its id. -/
def postOwner (id : Nat) : List Nat := [5, id]
/-- A fault record, by its id. -/
def faultOwner (id : Nat) : List Nat := [6, id]
/-- The spill engine of a job at a job-logical core: writes, and reads. -/
def spillOwner (j jc : Nat) : List Nat := [7, j, jc]
/-- Refills. -/
def refillOwner (j jc : Nat) : List Nat := [8, j, jc]
/-- The save of a job. -/
def saveOwner (j : Nat) : List Nat := [9, j]

end Sys2Proof.Machine
end

