-- ==== Sys2Proof/Machine/TileOps.lean ====
section
/-! DEFINITION. The tile table and the tile store of a core (R146 to R153, R80): handles, references, states, space, and
the elements of a tile. -/

namespace Sys2Proof.Machine

/-! ## Entries, handles and references -/

/-- A tile-table entry. -/
def Core.tile (k : Core) (i : Nat) : Tile := Table.getD k.tiles i {}

/-- Put a tile-table entry. -/
def Core.setTile (k : Core) (i : Nat) (t : Tile) : Core := { k with tiles := Table.put k.tiles i t }

/-- Change a tile-table entry. -/
def Core.onTile (k : Core) (i : Nat) (f : Tile → Tile) : Core := k.setTile i (f (k.tile i))

/-- The entry's state is EMPTY, PENDING or FULL. -/
def TileSt.live (x : TileSt) : Bool := x == .empty || x == .pending || x == .full

/-- The handle is valid for a firing of `job` on job-logical core `jcore` (R147). -/
def Core.handleOk (k : Core) (jcore job : Nat) (v : W64) : Bool :=
  let t := k.tile (handleIndex v)
  bits v.toNat 37 7 == jcore && t.st.live && t.job == job && t.gen.toNat == bits v.toNat 56 8 && bits v.toNat 0 37 == 0

/-- The handle of an entry. -/
def Core.handle (k : Core) (jcore i : Nat) : W64 := tileHandle (k.tile i).gen.toNat i jcore

/-- The last element of a PENDING tile is written: FULL. Of one whose count has reached 0 it only ends the write (Table 6.5). -/
def Tile.written (t : Tile) : Tile := { t with st := if t.st == .pending then .full else t.st }

/-- One more reference. -/
def Core.retain (k : Core) (i : Nat) : Core := k.onTile i (fun t => { t with refcnt := t.refcnt + 1 })

/-- One reference fewer; at 0 the entry passes to FREEING (Table 6.5). -/
def Core.release (k : Core) (i : Nat) : Core :=
  k.onTile i (fun t =>
    if !t.st.live then t
    else if t.refcnt ≤ 1 then { t with refcnt := 0, st := .freeing } else { t with refcnt := t.refcnt - 1 })

/-- Release the reference of a handle, if it is still valid. -/
def Core.releaseHandle (k : Core) (jcore job : Nat) (v : W64) : Core :=
  if k.handleOk jcore job v then k.release (handleIndex v) else k

/-- Release the handle that a token of type TILE brought to this core. -/
def Core.releaseToken (k : Core) (jcore : Nat) (t : Token) : Core :=
  if t.type = 12 then k.releaseHandle jcore t.job.toNat t.w2 else k

/-! ## Space and banks -/

/-- Units of 64 bytes in the tile store, and in a group of banks (R153). -/
def storeUnits : Nat := 24 * 1024 * 1024 / 64
/-- Units of a group. -/
def groupUnits : Nat := 3 * 1024 * 1024 / 64

/-- Row pitch of a new tile, in 64-byte units (R326). -/
def minPitch (fmt cols : Nat) : Nat := cdiv (cols * elemBits fmt) 512

/-- 512-byte stripes of a tile (R153). -/
def stripesOf (rows pitch : Nat) : Nat := cdiv (rows * pitch * 64) 512

/-- Units that an entry's space takes; a view has none of its own. -/
def Tile.units (t : Tile) : Nat := if t.view then 0 else stripesOf (t.rows + 1) t.pitch * 8

/-- The space [base, base + units) is free of every tile's space. -/
def Core.spaceFree (k : Core) (base units : Nat) : Bool :=
  k.tiles.all (fun (_, t) =>
    t.st == .free || t.view || decide (t.base + t.units ≤ base) || decide (base + units ≤ t.base))

/-- The logical banks of a span of units: all of a group serve together (R153). -/
def banksOf (base units : Nat) : List Nat :=
  if units = 0 then []
  else (upFrom (base / groupUnits) ((base + units - 1) / groupUnits - base / groupUnits + 1)).flatMap (fun g => upFrom (8 * g) 8)

/-- The logical bank and the place in it of a tile-store byte address (R153). -/
def bankAt (a : Nat) : Nat × Nat :=
  let n := a % (groupUnits * 64) / 64
  (8 * (a / (groupUnits * 64)) + n % 8, n / 8 * 64 + a % 64)

/-- How late the allocator turns to a span (R80): 0 when all its banks are LIT, 1 with one in SAFELIGHT, 2 with one DARK. -/
def Core.spanRank (k : Core) (base units : Nat) : Nat :=
  (banksOf base units).foldl (fun m b =>
    max m (match (Table.getD k.banks b {}).st with | .lit => 0 | .safelight => 1 | .dark => 2)) 0

/-- The lowest places of a span: after each tile, and at each group's start. -/
def Core.freeBases (k : Core) (units : Nat) : List Nat :=
  ((k.tiles.map (fun p => p.2.base + p.2.units)) ++ (List.range 8).map (fun g => g * groupUnits)).filter (fun b =>
    b % 8 == 0 && decide (b + units ≤ storeUnits) && k.spaceFree b units)

/-- A grant that the allocator may make for a tile of this shape (R80, R146, R148, R153): a FREE entry, and free stripes
in the banks it prefers. -/
def Core.grantOk (k : Core) (g : TileGrant) (rows pitch : Nat) : Bool :=
  let units := stripesOf rows pitch * 8
  decide (g.index < 4096) && (k.tile g.index).st == .free && g.base % 8 == 0 && decide (g.base + units ≤ storeUnits)
    && k.spaceFree g.base units
    && (k.freeBases units).all (fun b => decide (k.spanRank g.base units ≤ k.spanRank b units))

/-- A FREE entry, the lowest. -/
def Core.freeEntry (k : Core) : Option Nat := (List.range 4096).find? (fun i => (k.tile i).st == .free)

/-- A grant that could be made now, if there is one. -/
def Core.firstFit (k : Core) (rows pitch : Nat) : Option TileGrant :=
  match k.freeEntry, (k.freeBases (stripesOf rows pitch * 8)).head? with
  | some i, some b => some { index := i, base := b }
  | _, _ => none

/-- Banks that a tile is placed in, or that serve a request, are LIT (Table 4.5). -/
def Core.lightBanks (k : Core) (bs : List Nat) (clock : Nat) : Core :=
  { k with banks := bs.foldl (fun b i => Table.put b i { st := .lit, last := clock }) k.banks }

/-- Units from an entry's first element to its last: for a view those of its own columns in its parent's space. -/
def Tile.reach (t : Tile) : Nat := t.rows * t.pitch + minPitch t.fmt (t.cols + 1)

/-- A request of an entry's banks: it wakes them, and their idle time begins again (R80). An EMPTY tile's space is not read. -/
def Core.touchTile (k : Core) (t : Tile) (clock : Nat) : Core :=
  if t.st == .free || t.st == .empty then k else k.lightBanks (banksOf t.base t.reach) clock

/-- A request of an entry's banks and of those of the scale or metadata tile that is attached to it. -/
def Core.touchWith (k : Core) (t : Tile) (clock : Nat) : Core :=
  if t.scv then (k.touchTile t clock).touchTile (k.tile t.scale) clock else k.touchTile t clock

/-- Make a tile in a granted entry and space. -/
def Core.makeTile (k : Core) (g : TileGrant) (clock job inst fmt rows cols : Nat) (st : TileSt) : Core :=
  let pitch := minPitch fmt cols
  let t := k.tile g.index
  let k1 := k.setTile g.index
    { gen := t.gen, job := job, inst := inst, st := st, refcnt := 1, fmt := fmt, pitch := pitch, cols := cols - 1,
      rows := rows - 1, base := g.base }
  k1.lightBanks (banksOf g.base (stripesOf rows pitch * 8)) clock

/-- The next spare bank, 64 and then 65 (R153): a spare in use is never released, also when it fails itself (R40). -/
def Core.nextSpare (k : Core) : Option Nat :=
  if k.spares.any (fun p => p.2 == 65) then none else if k.spares.isEmpty then some 64 else some 65

/-- A failing bank that has turned DARK is replaced by a spare, while the core has one (R40). Log entry 53. -/
def Core.replaceBanks (k : Core) : Core :=
  k.failing.foldl (fun k b =>
    match (Table.getD k.banks b {}).st == .dark, k.nextSpare with
    | true, some n => { k with spares := Table.put k.spares b n, failing := k.failing.filter (· != b) }
    | _, _ => k) k

/-- Banks in which no tile lies any more go DARK (Table 4.5), and failing ones among them are replaced (R40). -/
def Core.darkenBanks (k : Core) (bs : List Nat) : Core :=
  let used (b : Nat) : Bool := k.tiles.any (fun (_, t) => t.st != .free && !t.view && (banksOf t.base t.units).contains b)
  { k with banks := bs.foldl (fun m b => if used b then m else Table.put m b { st := .dark, last := 0 }) k.banks }.replaceBanks

/-- The entry becomes FREE (Table 6.5): its space is returned, what it referred to is released, its generation rises. -/
def Core.freeTile (k : Core) (i : Nat) : Core :=
  let t := k.tile i
  let k1 := k.setTile i { gen := t.gen + 1 }
  let k2 := if t.view then k1.release t.parent else k1
  let k3 := if t.scv then k2.release t.scale else k2
  if t.view then k3
  else { k3 with store := Memory.clear k3.store (t.base * 64) ((t.base + t.units) * 64) }.darkenBanks (banksOf t.base t.units)

/-! ## Elements -/

/-- Columns and rows. -/
def Tile.ncols (t : Tile) : Nat := t.cols + 1
/-- Rows. -/
def Tile.nrows (t : Tile) : Nat := t.rows + 1
/-- Bytes of a row of elements. -/
def Tile.rowLen (t : Tile) : Nat := rowBytes t.fmt t.ncols
/-- Byte address of row r in the tile store. -/
def Tile.rowAt (t : Tile) (r : Nat) : Nat := (t.base + r * t.pitch) * 64

/-- The bytes of a row; an EMPTY tile reads as zeros (R148). -/
def Core.row (k : Core) (t : Tile) (r : Nat) : List Byte :=
  if t.st == .empty then zeros t.rowLen else Memory.read k.store (t.rowAt r) t.rowLen

/-- The element codes of a row. -/
def Core.rowCodes (k : Core) (t : Tile) (r : Nat) : List Nat := rowElems (k.row t r) (elemBits t.fmt) t.ncols

/-- The element codes of a tile, by rows. -/
def Core.codes (k : Core) (t : Tile) : List (List Nat) := (List.range t.nrows).map (k.rowCodes t)

/-- The bytes of a tile, by rows. -/
def Core.rowsOf (k : Core) (t : Tile) : List (List Byte) := (List.range t.nrows).map (k.row t)

/-- Write a row's bytes. -/
def Core.putRow (k : Core) (t : Tile) (r : Nat) (bs : List Byte) : Core :=
  { k with store := Memory.write k.store (t.rowAt r) (bs.take t.rowLen) }

/-- Write rows of bytes from row `r` on. -/
def Core.putRows (k : Core) (t : Tile) : Nat → List (List Byte) → Core
  | _, [] => k
  | r, b :: bs => Core.putRows (k.putRow t r b) t (r + 1) bs

/-- Write every element of a tile from its codes, by rows. -/
def Core.putCodes (k : Core) (t : Tile) (rows : List (List Nat)) : Core :=
  k.putRows t 0 (rows.map (packRow (elemBits t.fmt)))

/-- The scale tile in force, if one is attached. -/
def Core.scaleOf (k : Core) (t : Tile) : Option Tile := if t.scv then some (k.tile t.scale) else none

/-- The tile or its scale tile is poisoned (R328). -/
def Core.tilePoison (k : Core) (t : Tile) : Bool :=
  t.poison || (match k.scaleOf t with | some s => s.poison | none => false)

end Sys2Proof.Machine
end

