-- ==== Sys2Proof/Machine/TokenOps.lean ====
section
/-! DEFINITION. Tokens on their way: answers of requests (R357), sends and the wall (R112, R284), and admission to a core's
token buffer or to the job's cellar (R115, R130, R167). -/

namespace Sys2Proof.Machine

/-! ## Counts of R97 that are stored -/

/-- Add to the sent count of an instance at a core or I/O die. -/
def State.countSent (s : State) (j i x : Nat) : State :=
  s.onInst j i (fun v => { v with sent := Table.modify v.sent x 0 (· + 1) })

/-- Add to the received count of an instance at a core or I/O die. -/
def State.countReceived (s : State) (j i x : Nat) : State :=
  s.onInst j i (fun v => { v with received := Table.modify v.received x 0 (· + 1) })

/-- The instance makes progress now (R170). -/
def State.progress (s : State) (j i : Nat) : State := s.onInst j i (fun v => { v with progress := s.clock })

/-! ## References that tokens and operands carry -/

/-- Release what a token holds on its destination core, by job-logical core `jc` (Table 6.6). -/
def State.releaseTokenAt (s : State) (j jc : Nat) (t : Token) : State :=
  if t.type = 12 then
    match s.devCore j jc with
    | some c => s.onCore c (fun k => k.releaseToken jc t)
    | none => s
  else s

/-- Release a tile handle on the core it names, if that core is `jc`. -/
def State.releaseHandleAt (s : State) (j jc : Nat) (v : W64) : State :=
  match s.devCore j jc with
  | some c => s.onCore c (fun k => k.releaseHandle jc j v)
  | none => s

/-! ## Answers -/

/-- The answer token of a request: to its continuation, in its frame on its core (R357). -/
def Req.token (r : Req) (dev type : Nat) (w2 : W64) (poison : Bool) : Token where
  dev := BitVec.ofNat 10 dev
  core := BitVec.ofNat 7 r.core
  frame := BitVec.ofNat 19 r.frame
  block := BitVec.ofNat 12 r.block
  entry := BitVec.ofNat 7 r.cent
  port := BitVec.ofNat 2 r.cport
  job := BitVec.ofNat 6 r.job
  tag := r.tag
  type := BitVec.ofNat 5 type
  dim := BitVec.ofNat 3 r.dim
  poison := poison
  cls := if type = 12 then 1 else 0
  src := BitVec.ofNat 7 r.core
  w2 := w2
  inst := r.inst

/-- Send a token to a core of this device from an engine or controller. A cancelled instance receives none (R103). -/
def State.deliver (s : State) (src : Nat) (t : Token) : State :=
  let j := t.job.toNat
  if s.instGone j t.inst then s.releaseTokenAt j t.core.toNat t
  else { s with mesh := s.mesh ++ [{ job := j, src := src, dst := t.core.toNat, vc := t.cls.toNat, what := .value t }] }

/-- The sender of a matrix array's answers: those of a core keep their order (R164). Other answers come from 128. -/
def arraySrc : Nat := 129

/-- Answer a request, from a sender. -/
def State.answerFrom (s : State) (src : Nat) (r : Req) (type : Nat) (w2 : W64) (poison : Bool) : State :=
  s.deliver src (r.token s.devnum type w2 poison)

/-- Answer a request. -/
def State.answer (s : State) (r : Req) (type : Nat) (w2 : W64) (poison : Bool) : State := s.answerFrom 128 r type w2 poison

/-- Answer CTRL. -/
def State.answerCtrl (s : State) (r : Req) (poison : Bool) : State := s.answer r 0 0 poison

/-- Answer STATUS. -/
def State.answerStatus (s : State) (r : Req) (code detail : Nat) (poison : Bool) : State :=
  s.answer r 15 (statusVal code detail) poison

/-- Answer with a tile's handle: its reference passes to the token (R326). -/
def State.answerTile (s : State) (c : Nat) (r : Req) (i : Nat) : State :=
  let k := s.core c
  s.answer r 12 (k.handle r.core i) (k.tile i).poison

/-! ## Sends (R112, R284) -/

/-- A router has raised WALL for a job at this time, and 10 µs have not passed (R66). -/
def State.wallSoon (s : State) (last : Option Nat) : Bool :=
  match last with
  | some t => decide (s.time.toNat < t + 10000)
  | none => false

/-- The WALL event of a token that a router drops: a core's router names its device logical core, and that of an I/O die, 64 or 65,
names 0xFF (R112). -/
def State.wallEvent (s : State) (j sender w0 w1 : Nat) : State :=
  s.event 0x0004 j (natLe 1 (if sender < 64 then sender else 255) ++ natLe 8 w0 ++ natLe 8 w1)

/-- A token is dropped at the wall: counted, and WALL raised for the first of its router and job within 10 µs (R66, R112). The windows
of a job that is FREE here, which has no counter, are kept apart (log entry 53). -/
def State.wallDrop (s : State) (j sender : Nat) (w0 w1 : Nat) : State :=
  match s.job? j with
  | none =>
    let key := 256 * j + sender
    if s.wallSoon (Table.find s.host.freeWalls key) then s
    else { s with host := { s.host with freeWalls := Table.put s.host.freeWalls key s.time.toNat } }.wallEvent j sender w0 w1
  | some x =>
    let s1 := s.setJob j { x with wall := if x.wall = 0xFFFFFFFF then x.wall else x.wall + 1 }
    let s2 := if sender < 64 then
      s1.onCore sender (fun k => { k with perf := Table.modify k.perf (64 * j + 19) 0 (· + 1) }) else s1
    if s.wallSoon (Table.find x.wallTimes sender) then s2
    else (s2.onJob j (fun y => { y with wallTimes := Table.put y.wallTimes sender s.time.toNat })).wallEvent j sender w0 w1

/-- Send a token from core `c` (job-logical `jc`): on the mesh, at the wall, or over a link (R24, R112, R126). -/
def State.sendToken (s : State) (c jc : Nat) (t : Token) : State :=
  let j := t.job.toNat
  let dst := t.core.toNat
  let tile := t.type = 12
  if t.dev.toNat = s.devnum then
    match s.devCore j dst with
    | none =>
      let s1 := s.wallDrop j c t.w0 t.w1
      if tile then s1.releaseHandleAt j jc t.w2 else s1
    | some _ =>
      let what : Flight := if tile && dst != jc then .tile t none else .value t
      let s1 := { s with mesh := s.mesh ++ [{ job := j, src := jc, dst := dst, vc := t.cls.toNat, what := what }] }
      if dst = jc then s1 else s1.countSent j t.inst jc
  else
    match s.egress (dieOf c) t.dev.toNat with
    | none =>
      let s1 := s.unroutable t.dev.toNat t.w0
      if tile then s1.releaseHandleAt j jc t.w2 else s1
    | some n =>
      let s1 := s.countSent j t.inst (64 + ioDieOf n)
      if tile then { s1 with mesh := s1.mesh ++ [{ job := j, src := jc, dst := dst, vc := 1, what := .tile t none }] }
      else
        let slot := match s.inst? j t.inst with
          | some v => Table.getD v.ready t.dev.toNat 0
          | none => 0
        s1.sendFlits n [{ vc := 0, ntok := 1, payload := t.linkBytes slot }]

/-! ## Shape variables (R61, R387) -/

/-- The shape variables as a job-logical core reads them: its copy. -/
def Job.varsAt (x : Job) (jc : Nat) : List W64 := Table.getD x.svCopies jc x.sv

/-- SVAR.SET and the routing engines' exports write shape variables at the scheduler and in every core's copy at once; what a SVWR still
has on its way is older, and reaches its core as the new value (the model's choice, log entry 42). -/
def State.setVars (s : State) (j : Nat) (f : List W64 → List W64) : State :=
  let old := (s.job j).sv
  let t := s.onJob j (fun x => { x with sv := f x.sv, svCopies := x.svCopies.map (fun p => (p.1, f p.2)) })
  { t with mesh := t.mesh.map (fun m =>
      match m.what with
      | .svar i v id => if m.job = j then { m with what := .svar i ((f (setAt old i v)).getD i v) id } else m
      | _ => m) }

/-- SVWR is performed at the scheduler (R387): the variable takes the value, which is sent to each core's copy. -/
def State.sendVar (s : State) (r : Req) (i : Nat) (v : W64) : State :=
  let cores := (s.job r.job).cores.map (s.job r.job).jobCore
  let t := s.onJob r.job (fun x => { x with
    sv := setAt x.sv i v, svCopies := cores.map (fun jc => (jc, x.varsAt jc)), svws := x.svws ++ [r] })
  { t with mesh := t.mesh ++ cores.map (fun jc => { job := r.job, src := 130, dst := jc, vc := 0, what := .svar i v r.id }) }

/-- A shape variable's value reaches a core's copy. The SVWR is answered once every core of the rectangle holds it. -/
def State.takeVar (s : State) (j jc i : Nat) (v : W64) (id : Nat) : State :=
  let more (p : MeshItem → Nat → Bool) : Bool := s.mesh.any (fun m => match m.what with | .svar _ _ n => m.job == j && p m n | _ => false)
  let s1 := s.onJob j (fun x => { x with
    svCopies := if more (fun m _ => m.dst == jc) then Table.put x.svCopies jc (setAt (x.varsAt jc) i v) else Table.del x.svCopies jc })
  if more (fun _ n => n == id) then s1
  else
    ((s.job j).svws.filter (fun r => r.id == id)).foldl (fun t r =>
      (t.onJob j (fun x => { x with svws := x.svws.filter (fun q => q.id != id) })).answerCtrl r false) s1

/-! ## Admission (R115, R167) -/

/-- Entries of the token buffer of a core. -/
def bufferEntries : Nat := 16384

/-- Tokens that a job holds in a buffer. -/
def Core.holds (k : Core) (j : Nat) : Nat := (k.buffer.filter (fun t => t.job.toNat == j)).length

/-- The running jobs whose rectangle contains a core, in ascending id. -/
def State.jobsAt (s : State) (c : Nat) : List (Nat × Job) :=
  s.jobs.filter (fun (_, x) => x.running && (match x.rect with | some r => r.has c | none => false))

/-- The jobs whose rectangle contains a core, halted and cancelled ones among them. -/
def State.placedAt (s : State) (c : Nat) : List (Nat × Job) :=
  s.jobs.filter (fun (_, x) => match x.rect with | some r => r.has c | none => false)

/-- A token of job `j` is admitted to the buffer: below its reservation, or by a free entry of the remainder, which is what
the reservations of running jobs leave over (R115). -/
def State.admits (s : State) (c j : Nat) : Bool :=
  let k := s.core c
  let js := s.placedAt c
  let kept (x : Job) : Nat := if x.running then x.resv else 0
  let total := js.foldl (fun n (_, x) => n + kept x) 0
  let used := js.foldl (fun n (i, x) => n + (k.holds i - kept x)) 0
  decide (k.buffer.length < bufferEntries) && (decide (k.holds j < (s.job j).resv) || decide (used + total < bufferEntries))

/-- The cellar of a job on a job-logical core (R167). -/
def Job.cellar (x : Job) (jc : Nat) : Cellar :=
  Table.getD x.cellars jc { va := x.cellarVa + jc * x.cellarBytes, bytes := x.cellarBytes }

/-- Tokens in a cellar. -/
def Cellar.count (x : Cellar) : Nat := x.tail - x.head

/-- Slots of a cellar. -/
def Cellar.slots (x : Cellar) : Nat := x.bytes / 32

/-- Put a cellar. -/
def State.setCellar (s : State) (j jc : Nat) (v : Cellar) : State :=
  s.onJob j (fun x => { x with cellars := Table.put x.cellars jc v })

/-- The 32 bytes of a cellar slot: the token, and the check word with the write count and the sideband (R168). -/
def cellarBytes (t : Token) (count : Nat) : List Byte :=
  natLe 8 t.w0 ++ natLe 8 t.w1 ++ natLe 8 t.w2.toNat ++ natLe 8 (count % 2 ^ 32 * 2 ^ 32 + t.inst % 256 * 2 ^ 24)

/-- The spill engine's port at a core (Tables 4.10, 4.11), by its logical core; by the job's own number while the job has no cores. -/
def spillPort (s : State) (j jc off : Nat) : PortInfo :=
  { die := s.jobDie j jc, job := j, type := 4, num := (s.devCore j jc).getD jc, bytes := natLe 8 off ++ zeros 40 }

/-- Whether the slot's page maps a DARK floor: then the traffic holds (R73). -/
def State.darkAt (s : State) (j va : Nat) (acc : Acc) : Bool :=
  match s.translate j va acc with
  | .ok (pa, _) =>
    match homeOf s.devnum pa with
    | .hbm a => !(s.floor (floorOf a)).st.open
    | _ => false
  | .error _ => false

/-- Write a token to the tail of the cellar of job-logical core `jc` (R167 to R169), `c` being its logical core, or 64 while
the job has none: true when it was taken. A full cellar holds the traffic and raises SPILL_FULL, a not-present page freezes
it, and a DARK floor holds it. A ring in another device's memory holds later traffic until the write's response is here
(R241). -/
def State.spillTo (s : State) (c j jc : Nat) (t : Token) : State × Bool :=
  let v := (s.job j).cellar jc
  if decide (v.slots ≤ v.count) then
    let s1 := s.setCellar j jc { v with hold := 1 }
    if v.hold = 1 then (s1, false)
    else (s1.event 0x0008 j (natLe 1 (if c < 64 then c else jc) ++ natLe 4 (v.count * 32)), false)
  else
    let off := v.tail % v.slots * 32
    if s.darkAt j (v.va + off) .write then
      let s1 := s.setCellar j jc { v with hold := 3 }
      match s.translate j (v.va + off) .write with
      | .ok (pa, _) => (if v.hold = 3 then s1 else s1.floorDark (some j) (pa % 2 ^ 41), false)
      | .error _ => (s1, false)
    else
      match s.vwrite (spillOwner j jc) (some (spillPort s j jc off)) j (v.va + off) (cellarBytes t v.tail) with
      | (s1, .absent va f) =>
        let (s2, _) := s1.absentFault (spillPort s j jc off) 256 (.spill jc false) va .write f
        (s2.setCellar j jc { v with hold := 2 }, false)
      | (s1, g) =>
        let out := g == .wait
        if out && !s1.fabric.any (fun r => r.owner == spillOwner j jc) then (s1, false) else
        let s2 := (if out then s1 else s1.dropOwner (spillOwner j jc)).setCellar j jc
          { v with tail := v.tail + 1, hold := if out then 4 else 0, insts := v.insts ++ [t.inst] }
        (if c < 64 then s2.onCore c (fun k => { k with perf := Table.modify k.perf (64 * j + 8) 0 (· + 1) }) else s2, true)

/-- The response to a spill into another device's memory lets the traffic go on. A refused write has lost the token's slot,
which the refill finds by its check word (R168). -/
def State.spillAnswered (s : State) (j jc : Nat) : State :=
  let v := (s.job j).cellar jc
  let rs := s.fabric.filter (fun r => r.owner == spillOwner j jc)
  if v.hold = 4 && rs.all (fun r => r.answer.isSome) then
    let (s1, _) := s.fabricUnits (spillOwner j jc) j true (rs.map FabReq.unit)
    (s1.dropOwner (spillOwner j jc)).setCellar j jc { v with hold := 0 }
  else s

/-- Spill a token at a core of its job. -/
def State.spillToken (s : State) (c j : Nat) (t : Token) : State × Bool := s.spillTo c j ((s.job j).jobCore c) t

/-- A token that has reached its core is admitted, or spilled; false when it must wait (R130 stage 1). -/
def State.letIn (s : State) (c : Nat) (t : Token) : State × Bool :=
  let j := t.job.toNat
  let x := s.job j
  let v := x.cellar (x.jobCore c)
  if v.hold ≠ 0 then (s, false)
  else if decide (0 < v.count) || !s.admits c j then s.spillToken c j t
  else
    (s.onCore c (fun k => { k with
      buffer := k.buffer ++ [t]
      perf := Table.modify k.perf (64 * j + 7) 0 (· + 1) }), true)

/-- Send a steal reply with a range (R296 to R298). -/
def State.stealAnswer (s : State) (c jc : Nat) (reply : Token) (range : W64) (poison : Bool) : State :=
  s.sendToken c jc { reply with w2 := range, poison := poison, src := BitVec.ofNat 7 jc }

end Sys2Proof.Machine
end

