-- ==== Sys2Proof/Machine/FrameOps.lean ====
section
/-! DEFINITION. Frames of a core: the allocator (R143, R145), the end of a frame (R144), parked operands and kept slots
(R131, R292). -/

namespace Sys2Proof.Machine

/-- Slots of the frame store. -/
def frameSlots : Nat := 524288

/-- A frame-store slot. -/
def Core.slot (k : Core) (i : Nat) : Slot := Table.getD k.slots i {}

/-- Put a frame-store slot: bits that an error struck are written over (R173). -/
def Core.setSlot (k : Core) (i : Nat) (x : Slot) : Core := { k with slots := Table.put k.slots i x, badSlots := k.badSlots.filter (· != i) }

/-- The live frame of a job at a base. -/
def Core.frameAt (k : Core) (j base : Nat) : Option Frame := k.frames.find? (fun f => f.base == base && f.job == j)

/-- A block of the block table, for its job (R106). -/
def Core.blockOf (k : Core) (j b : Nat) : Option Block :=
  match Table.find k.blocks b with
  | some x => if x.job = j then some x else none
  | none => none

/-- Live frames of a block. -/
def Core.liveFrames (k : Core) (j b : Nat) : Nat := (k.frames.filter (fun f => f.job == j && f.block == b)).length

/-- The run [base, base + size) is free. -/
def Core.runFree (k : Core) (base size : Nat) : Bool :=
  decide (base + size ≤ frameSlots)
    && k.frames.all (fun f => decide (f.base + f.size ≤ base) || decide (base + size ≤ f.base))

/-- The block's occupancy limit leaves room for one more frame; a limit of 0 sets no cap (R143). -/
def Core.underLimit (k : Core) (j b : Nat) (x : Block) : Bool := x.limit == 0 || decide (k.liveFrames j b < x.limit)

/-- The lowest base at which a run of `size` slots is free. -/
def Core.lowestRun (k : Core) (size : Nat) : Option Nat :=
  let cands := (0 :: k.frames.map (fun f => f.base + f.size)).filter (fun b => k.runFree b size)
  cands.foldl (fun m b => match m with | some x => some (min x b) | none => some b) none

/-- The slots of a new frame: presence, poison and kept bits cleared; a value the same job left may stay, as the free
draws say, and every other slot reads zero (R145). Log entry 5. -/
def freshSlots (slots : Table Slot) (j base size draw : Nat) : Table Slot :=
  slots.filterMap (fun (i, x) =>
    if decide (base ≤ i) && decide (i < base + size) then
      if x.owner = some j && Config.freeKeepsOld (draw + (i - base)) then some (i, { val := x.val, owner := x.owner }) else none
    else some (i, x))

/-- Give a frame of a block to an instance. -/
def State.giveFrame (s : State) (c j inst b base : Nat) : State :=
  let k := s.core c
  match k.blockOf j b with
  | none => s
  | some x =>
    let k1 := { k with
      frames := k.frames ++ [{ base := base, size := x.fsize, block := b, job := j, inst := inst }]
      slots := freshSlots k.slots j base x.fsize s.draws
      badSlots := k.badSlots.filter (fun i => decide (i < base) || decide (base + x.fsize ≤ i) || (Table.find (freshSlots k.slots j base x.fsize s.draws) i).isSome)
      blocks := Table.put k.blocks b { x with framesGiven := true } }
    { s.setCore c k1 with draws := s.draws + x.fsize }

/-- Release what a slot holds when its contents are discarded: a kept handle, or a parked TILE operand whose second slot
gives its type (R144, R292). -/
def Core.discardSlot (k : Core) (jc j i : Nat) : Core :=
  let x := k.slot i
  let k1 := if x.kept then k.releaseHandle jc j x.val else k
  if x.present && bits (k.slot (i + 1)).val.toNat 27 5 == 12 then k1.releaseHandle jc j x.val else k1

/-- End a frame (R144): parked operands and kept handles are discarded, the run returns to the allocator, and the RACS
accumulators of the frame end (R349). -/
def Core.endFrame (k : Core) (jc j base : Nat) : Core :=
  match k.frameAt j base with
  | none => k
  | some f =>
    let idx := upFrom f.base f.size
    let k1 := idx.foldl (fun k i => k.discardSlot jc j i) k
    { k1 with
      frames := k1.frames.filter (fun g => !(g.base == base && g.job == j))
      slots := k1.slots.map (fun (i, x) =>
        if decide (f.base ≤ i) && decide (i < f.base + f.size) then
          (i, { x with present := false, kept := false, poison := false }) else (i, x))
      accs := k1.accs.filter (fun a => a.isTile || !(a.name == base && a.job == j)) }

/-- End a frame at a core. -/
def State.endFrame (s : State) (c j base : Nat) : State := s.onCore c (fun k => k.endFrame ((s.job j).jobCore c) j base)

end Sys2Proof.Machine
end

