-- ==== Sys2Proof/Machine/Operands.lean ====
section
/-! DEFINITION. What a lane reads and writes while a word issues: operand specifiers (R253), destinations (R254), frame
slots (R141), predicates (R252), and the checks a word makes at run time (R147, R280, R358). -/

namespace Sys2Proof.Machine

/-! ## Traps -/

/-- A trap: its code (Table 13.10), and the immediate of TRAP or BRK. -/
structure Trap where
  code : Nat
  imm : W32 := 0
  deriving DecidableEq, Repr

/-- TYPE. -/
def Trap.type : Trap := { code := 1 }
/-- TILE_SHARED. -/
def Trap.tileShared : Trap := { code := 2 }
/-- TILE_STALE. -/
def Trap.tileStale : Trap := { code := 3 }
/-- FRAME_BAD. -/
def Trap.frameBad : Trap := { code := 4 }
/-- BLOCK_ABSENT. -/
def Trap.blockAbsent : Trap := { code := 5 }
/-- CFG_ALIGN. -/
def Trap.cfgAlign : Trap := { code := 6 }
/-- ALIGN. -/
def Trap.align : Trap := { code := 7 }
/-- SOFT. -/
def Trap.soft (imm : W32) : Trap := { code := 8, imm := imm }
/-- BRK. -/
def Trap.brk (imm : W32) : Trap := { code := 9, imm := imm }

/-- A check that a word makes when it executes. -/
def check (t : Trap) (ok : Bool) : Except Trap Unit := if ok then .ok () else .error t

/-! ## Predicates -/

/-- P0 reads true; P1 to P3 are the lane's (R135). -/
def Firing.pred (l : Firing) (i : Nat) : Bool := if i = 0 then true else l.preds.getD (i - 1) false

/-- The word executes in the lane (R252). -/
def Firing.executes (l : Firing) (h : Hdr) : Bool := (l.pred h.pidx.val) != h.pneg

/-- Write P1, P2 or P3. -/
def Firing.setPred (l : Firing) (i : Nat) (b : Bool) : Firing := { l with preds := setAt l.preds (i - 1) b }

/-! ## Temporaries and slots -/

/-- A temporary. -/
def Firing.temp (l : Firing) (i : Nat) : W64 := l.temps.getD i 0

/-- Write a temporary. -/
def Firing.setTemp (l : Firing) (i : Nat) (v : W64) : Firing := { l with temps := setAt l.temps i v }

/-- Put a staged item at the end of the outbound buffer. -/
def Firing.stage (l : Firing) (x : Staged) : Firing := { l with staged := l.staged ++ [x] }

/-- What the item leaves in a slot, if it writes that slot. -/
def Staged.slotVal (a : Nat) : Staged → Option W64
  | .write i v => if i = a then some v else none
  | .keep i v _ => if i = a then some v else none
  | .drop i => if i = a then some 0 else none
  | _ => none

/-- The firing's own staged write to the slot at address `a`: the last one in program order. -/
def Firing.stagedSlot (l : Firing) (a : Nat) : Option W64 :=
  l.staged.foldl (fun m x => match x.slotVal a with | some v => some v | none => m) none

/-- Read slot `i` of the firing's frame (R141): the firing's own staged write, or the committed value. A poisoned slot, or
one struck by an uncorrectable error, puts the firing in shadow (R136, R173). A frameless firing traps (R134). -/
def Firing.readSlot (l : Firing) (k : Core) (i : Nat) : Except Trap (W64 × Firing) :=
  if l.frameless then .error .frameBad
  else
    let a := l.frame + i
    match l.stagedSlot a with
    | some v => .ok (v, l)
    | none =>
      let x := k.slot a
      .ok (x.val, { l with shadow := l.shadow || x.poison || k.badSlots.contains a })

/-- Stage a write of slot `i` of the firing's frame. -/
def Firing.writeSlot (l : Firing) (i : Nat) (v : W64) : Except Trap Firing :=
  if l.frameless then .error .frameBad else .ok (l.stage (.write (l.frame + i) v))

/-! ## Specifiers -/

/-- The value of a specifier that names no frame slot (Table 10.3); `jc` is the job-logical core. -/
def Firing.named (l : Firing) (dev jc : Nat) (sp : Spec) : W64 :=
  match sp with
  | .temp i => l.temp i.val
  | .zero => 0
  | .frame => framePtr l.frame jc dev
  | .tag => BitVec.ofNat 64 l.tag.toNat
  | .core => BitVec.ofNat 64 jc
  | .job => BitVec.ofNat 64 l.job
  | .lane => BitVec.ofNat 64 l.lane
  | .dim => BitVec.ofNat 64 l.dim
  | .type => BitVec.ofNat 64 (l.tyL % 32 + 32 * (l.tyR % 32))
  | .lit i => BitVec.ofNat 64 i.val
  | .slot _ => 0

/-- The job-logical number of the core `c` on which a firing runs. -/
def State.coreFor (s : State) (c : Nat) (l : Firing) : Nat := (s.job l.job).jobCore c

/-- Read a source specifier. -/
def Firing.read (l : Firing) (s : State) (c : Nat) (sp : Spec) : Except Trap (W64 × Firing) :=
  match sp with
  | .slot i => l.readSlot (s.core c) i.val
  | other => .ok (l.named s.devnum (s.coreFor c l) other, l)

/-- Write a result to the destination `D` of the R and I formats (R254). -/
def Firing.writeD (l : Firing) (d : Spec) (v : W64) : Except Trap Firing :=
  match d with
  | .temp i => .ok (l.setTemp i.val v)
  | .slot i => l.writeSlot i.val v
  | _ => .ok l

/-- Write a comparison's result: a predicate, or the PRED layout (R304). -/
def Firing.writeCond (l : Firing) (d : Spec) (b : Bool) : Except Trap Firing :=
  match d with
  | .lit i => .ok (l.setPred i.val b)
  | other => l.writeD other (if b then 1 else 0)

/-- The value of a specifier for the trap record: 0 where the read itself traps. -/
def Firing.peek (l : Firing) (s : State) (c : Nat) (sp : Spec) : W64 :=
  match l.read s c sp with
  | .ok (v, _) => v
  | .error _ => 0

/-- Raise flags, staged in program order (R279, R392). -/
def Firing.raise (l : Firing) (f : BitVec 5) : Firing := if f = 0 then l else l.stage (.flagsRaise f)

/-! ## Reading operands through types (R278) -/

/-- A value read as Z32. -/
def z32 (v : W64) : Nat := bits v.toNat 0 32
/-- Frame base of a FRAMEP. -/
def fpBase (v : W64) : Nat := bits v.toNat 0 19
/-- Core of a FRAMEP. -/
def fpCore (v : W64) : Nat := bits v.toNat 19 7
/-- Device of a FRAMEP. -/
def fpDev (v : W64) : Nat := bits v.toNat 26 10
/-- A value read as ADDR. -/
def addrOf (v : W64) : Nat := bits v.toNat 0 55

/-- The handle is valid for the firing on core `c` (R147). -/
def Firing.handleOk (l : Firing) (s : State) (c : Nat) (v : W64) : Bool :=
  (s.core c).handleOk (s.coreFor c l) l.job v

/-- The tile that a checked handle names. -/
def State.tileOf (s : State) (c : Nat) (v : W64) : Tile := (s.core c).tile (handleIndex v)

/-! ## Words -/

/-- What a word does in one lane: the state is read, and returned where the word itself changes it (RSPLIT). -/
abbrev LaneFn := State → Nat → Firing → Except Trap (State × Firing)

/-- A word that changes nothing but its lane. -/
def lane (f : State → Nat → Firing → Except Trap Firing) : LaneFn :=
  fun s c l => (f s c l).map (fun x => (s, x))

end Sys2Proof.Machine

namespace Sys2Proof

/-- The header and the specifiers of an instruction's body. -/
def Body.hdr : Body → Hdr
  | .r w => w.hdr
  | .i w => w.hdr
  | .s w => w.hdr
  | .m w => w.hdr
  | .t w => w.hdr

/-- The specifiers whose values the trap record holds: A, B, and D or C (Table 13.11). -/
def Body.sources : Body → Spec × Spec × Spec
  | .r w => (w.a, w.b, w.c)
  | .i w => (w.a, w.b, .zero)
  | .s w => (if w.sty = .ctrl then .zero else w.a, w.b, w.d)
  | .m w => (w.a, w.b, w.d)
  | .t w => (w.a, w.b, w.d)

end Sys2Proof
end

