-- ==== Sys2Proof/Machine/Counts.lean ====
section
/-! DEFINITION. The objects that an instance's completion counter counts (R97, Table 5.3). Held counts are taken from the
objects themselves; sent and received counts are stored. -/

namespace Sys2Proof.Machine

/-- A request belongs to an instance. -/
def Req.of (r : Req) (j i : Nat) : Bool := r.job == j && r.inst == i

/-- Number of elements that satisfy a test. -/
def countIf {α : Type} (p : α → Bool) (xs : List α) : Nat := (xs.filter p).length

/-- The instance's parked operands in a core's frames: their presence bits are set. -/
def Core.parkedOf (k : Core) (j i : Nat) : Nat :=
  (k.frames.filter (fun f => f.job == j && f.inst == i)).foldl (fun n f =>
    n + countIf (fun (a, x) => x.present && decide (f.base ≤ a) && decide (a < f.base + f.size)) k.slots) 0

/-- What a core's own structures hold for an instance. -/
def Core.heldOf (k : Core) (j i : Nat) : Nat :=
  let fire (l : Firing) : Bool := l.job == j && l.inst == i && !l.dead
  countIf (fun t => t.job.toNat == j && t.inst == i) k.buffer + k.parkedOf j i
    + countIf fire k.ready + k.groups.foldl (fun n g => n + countIf fire g.lanes) 0
    + countIf (fun r => r.req.of j i) k.tileReqs + countIf (fun r => r.req.of j i) k.mmaReqs
    + countIf (fun r => r.req.of j i) k.fallocs
    + k.accs.foldl (fun n a => n + countIf (fun r => !r.mark && r.req.of j i) a.held) 0
    + k.walkers.foldl (fun n (_, w) => n + countIf (fun r => r.of j i) (w.queue ++ w.stopping.toList) + b2n (w.running && !w.shape.store && w.cur.of j i)) 0
    + countIf (fun m => m.job == j && m.inst == i) k.mailbox

/-- The instance that a mesh item belongs to; none for what no instance counts. -/
def Flight.inst? : Flight → Option Nat
  | .value t => some t.inst
  | .tile t _ => some t.inst
  | .steal _ _ _ i => some i
  | .curtain _ => none
  | .ffree _ _ _ _ => none
  | .svar _ _ _ => none

/-- Held work of an instance at one place: a job-logical core, or an I/O die 64 or 65. Traffic between two cores is
counted by the sent and received counts; everything else in flight is held at its destination. -/
def State.heldAt (s : State) (j i x : Nat) : Nat :=
  let core := match s.devCore j x with
    | some c => (s.core c).heldOf j i
    | none => 0
  let cellar := countIf (· == i) ((s.job j).cellar x).insts
  let mesh := countIf (fun m => m.job == j && m.what.inst? == some i && m.dst == x && (decide (64 ≤ m.src) || m.src == m.dst)) s.mesh
  let at_ (r : Req) : Bool := r.of j i && r.core == x
  let xjob := s.job j
  core + cellar + mesh + countIf (fun m => at_ m.req) s.memReqs + countIf (fun m => at_ m.req) s.copies
    + countIf (fun r => r.owner.take 4 == goneOwner j i x) s.fabric
    + countIf (fun w => match w.what with | .form r => at_ r | _ => false) s.routeWork
    + s.parts.foldl (fun n p => n + (match p.closing with | some r => b2n (at_ r) | none => 0)
        + countIf (fun w => at_ w.req) p.rrow) 0
    + countIf (fun (r, _) => at_ r) xjob.ticks + countIf (fun (r, _) => at_ r) xjob.expos
    + countIf at_ xjob.svws

/-- Primed tokens still to be placed count one each (R109). -/
def State.primesOf (s : State) (j i : Nat) : Nat :=
  match s.inst? j i with
  | some v => v.primes.length
  | none => 0

/-- The places where an instance can hold work: the job-logical cores of its job, and the two I/O dies. -/
def State.placesOf (s : State) (j : Nat) : List Nat :=
  let x := s.job j
  x.cores.map x.jobCore ++ [64, 65]

/-- `collect(i)`: held, sent and received sums (R98). -/
def State.collect (s : State) (j i : Nat) : Nat × Nat × Nat :=
  let ps := s.placesOf j
  let h := ps.foldl (fun n x => n + s.heldAt j i x) 0 + s.primesOf j i
  match s.inst? j i with
  | some v =>
    (h, (v.sent.foldl (fun n p => n + p.2.toNat) 0) % 2 ^ 32, (v.received.foldl (fun n p => n + p.2.toNat) 0) % 2 ^ 32)
  | none => (h, 0, 0)

end Sys2Proof.Machine
end

