-- ==== Sys2Proof/Machine/Sched.lean ====
section
/-! DEFINITION. The job scheduler: instances, phases, placement, cancellation and the ends of levels (R93 to R104, R108,
R109), with what an end releases. -/

namespace Sys2Proof.Machine

/-! ## The write combiner, as the ends of instances and jobs flush it (R237) -/

/-- The bytes of an entry that lies in HBM are written as one access: a partly filled entry leaves the other bytes as they are,
and is not performed on a poisoned unit (R81). The bytes that it holds count as transferred (R79). -/
def State.writeUnit (s : State) (e : WcEntry) (a : Nat) : State :=
  if (s.floor (floorOf a)).st.open then
    let s1 := s.touchRoom (some e.job) (roomOf a) e.bytes.length
    let new := ((Memory.read s1.mem a 64).zipIdx).map (fun (b, i) => match e.bytes.find? (fun p => p.1 == i) with | some p => p.2 | none => b)
    if e.bytes.length < 64 && s.poison.contains (a / 64) then s1
    else ((s1.clearRegions (some e.job) a 64).hbmWrite none a new).1
  else (s.touchRoom (some e.job) (roomOf a) 0).floorDark (some e.job) a

/-- Runs of neighbouring bytes. -/
def runsOf : List (Nat × Byte) → List (Nat × List Byte)
  | [] => []
  | (i, b) :: rest =>
    match runsOf rest with
    | (k, bs) :: more => if k = i + 1 then (i, b :: bs) :: more else (i, [b]) :: (k, bs) :: more
    | [] => [(i, [b])]

/-- Owner of a combiner entry's write to another device. -/
def wcOwner (die job unit : Nat) : List Nat := [10, die, job, unit]

/-- Write one combiner entry of a die to its home. An entry for another device stays until its writes, one for each run of bytes,
are answered (R241, log entry 53); one for the host waits for a port that passes it (R16). -/
def State.flushEntry (s : State) (die : Nat) (e : WcEntry) : State :=
  let drop (t : State) : State := { t with wc := Table.put t.wc die ((Table.getD t.wc die []).filter (· != e)) }
  let pa := e.unit * 64
  match homeOf s.devnum pa with
  | .hbm a => drop (s.writeUnit e a)
  | .host a => if s.spanPasses a 64 then drop (e.bytes.foldl (fun t p => t.hostWrite (a + p.1) [p.2]) s) else s
  | .hole => drop s
  | .fabric dev a =>
    let es := Table.getD s.wc die []
    if es.any (fun x => x.sent && x.job == e.job && x.unit == e.unit) then s
    else
      (runsOf e.bytes).foldl (fun t (i, bs) => (t.askFabric (wcOwner die e.job e.unit) die e.job (pa + i) dev (a + i) bs.length (some bs) false).1)
        { s with wc := Table.put s.wc die (es.map (fun x => if x == e then { x with sent := true } else x)) }

/-- The writes of a combiner entry to another device are answered: the entry is performed, and gone. -/
def State.wcAnswered (s : State) (die j unit : Nat) : State :=
  let rs := s.fabric.filter (fun r => r.owner == wcOwner die j unit)
  if rs.all (fun r => r.answer.isSome) then
    let (s1, _) := s.fabricUnits (wcOwner die j unit) j true (rs.map FabReq.unit)
    let es := Table.getD s1.wc die []
    { s1.dropOwner (wcOwner die j unit) with wc := Table.put s1.wc die (es.filter (fun e => !(e.sent && e.job == j && e.unit == unit))) }
  else s

/-- Flush the entries of one die's combiner that satisfy a test. -/
def State.flushDie (s : State) (die : Nat) (p : WcEntry → Bool) : State :=
  ((Table.getD s.wc die []).filter p).foldl (fun t e => t.flushEntry die e) s

/-- An entry that satisfies a test is still to be performed. -/
def State.wcHolds (s : State) (p : WcEntry → Bool) : Bool := s.wc.any (fun (_, es) => es.any p)

/-- Flush the combiner entries that satisfy a test, on every die. -/
def State.flushWhere (s : State) (p : WcEntry → Bool) : State := (List.range 4).foldl (fun t die => t.flushDie die p) s

/-! ## Release of routing participants (R195) -/

/-- Device and anchor core of participant q in a descriptor (Table 7.1). -/
def partEntry (desc : List Byte) (q : Nat) : Nat × Nat :=
  let e := recNat desc (0x80 + 4 * q) 4
  (bits e 16 10, bits e 0 7)

/-- Participants of a descriptor. -/
def npartOf (desc : List Byte) : Nat := recNat desc 0x65 1

/-- Send a record from a participant to participant q. -/
def State.toPart (s : State) (x : Participant) (q vc kind : Nat) (poison : Bool) (body : List Byte) : State :=
  let (dev, _) := partEntry x.desc q
  let die := match (s.job x.job).asSaved.devCore x.anchor with | some c => dieOf c | none => 0
  s.sendRec die vc
    { kind := kind, poison := poison, job := x.job, dst := dev, src := s.devnum, rid := x.batch, body := body }

/-- A participant returns to FREE and sends a release mark to every other participant. -/
def State.releasePart (s : State) (x : Participant) : State :=
  let s1 := { s with parts := s.parts.filter (fun y => !(y.job == x.job && y.batch == x.batch && y.p == x.p)) }
  ((List.range (npartOf x.desc)).filter (· != x.p)).foldl (fun t q =>
    t.toPart x q 5 0x10 false (natLe 1 x.p ++ zeros 7)) s1

/-- Release the participants that satisfy a test. -/
def State.releaseParts (s : State) (p : Participant → Bool) : State :=
  (s.parts.filter p).foldl (fun t x => t.releasePart x) s

/-! ## What the end of an instance frees (R98) -/

/-- Free every frame, tile, walker, steal entry and accumulator of an instance on a core. -/
def Core.freeInst (k : Core) (jc j i : Nat) : Core :=
  let k1 := (k.frames.filter (fun f => f.job == j && f.inst == i)).foldl (fun k f => k.endFrame jc j f.base) k
  let mine := (k1.tiles.filter (fun (_, t) => t.st != .free && t.job == j && t.inst == i)).map (fun p => p.1)
  let k2 := mine.foldl (fun k n => k.freeTile n) k1
  { k2 with
    walkers := k2.walkers.map (fun (n, w) =>
      if w.claimed && w.job == j && w.inst == i then (n, { number := w.number }) else (n, w))
    mailbox := k2.mailbox.filter (fun m => !(m.job == j && m.inst == i))
    closed := k2.closed.filter (· != (j, i))
    accs := k2.accs.filter (fun a => !(a.job == j && a.inst == i)) }

/-- Free an instance's frames and tiles on every core of its job, with its combiner entries written and its routing
participants released. -/
def State.freeInst (s : State) (j i : Nat) : State :=
  let x := s.job j
  let s1 := s.flushWhere (fun e => e.job == j)
  let s2 := x.cores.foldl (fun t c => t.onCore c (fun k => k.freeInst (x.jobCore c) j i)) s1
  s2.releaseParts (fun p => p.job == j && p.inst == i)

/-! ## Ends -/

/-- The order of R99: CANCELLED, FAULT, POISONED, DONE. -/
def statusRank (st : Nat) : Nat :=
  match st with
  | 2 => 3 | 3 => 2 | 1 => 1 | _ => 0

/-- The worst of two end statuses. -/
def worst (a b : Nat) : Nat := if statusRank a < statusRank b then b else a

/-- Opcode of a command record. -/
def Cmd.op (c : Cmd) : Nat := recNat c.bytes 0 1

/-- A command names a job (R58). -/
def Cmd.names (c : Cmd) (j : Nat) : Bool :=
  !(c.op == 0x0D || c.op == 0x0E || c.op == 0x13 || c.op == 0x14) && recNat c.bytes 8 1 == j

/-- Change every accepted command that names a job. -/
def State.onCmds (s : State) (j : Nat) (f : Cmd → Cmd) : State :=
  { s with host := { s.host with queues := s.host.queues.map (fun (q, x) =>
      (q, { x with cur := x.cur.map (fun c => if c.names j then f c else c) })) } }

/-- A command whose predecessor mask named an instance that has ended keeps its end status (R96). -/
def Cmd.noteEnd (c : Cmd) (i status : Nat) : Cmd :=
  { c with named := c.named.map (fun p => if p.1 = i ∧ p.2.isNone then (i, some status) else p) }

/-- An instance reaches its end (R96, R98, R99): its resources are freed, its phase takes its status, its successors lose a
predecessor, and INSTANCE_END is queued. -/
def State.endInst (s : State) (j i status : Nat) : State :=
  match s.inst? j i with
  | none => s
  | some v =>
    if v.st == .ended then s
    else
      let s1 := s.freeInst j i
      let bad := status == 2 || status == 3
      let s2 := s1.onJob j (fun x => { x with
        insts := x.insts.map (fun (n, w) =>
          if n = i then (n, { w with st := .ended, status := status, primes := [], roots := [], marks := [] })
          else if w.preds.contains i then (n, { w with preds := w.preds.filter (· != i), doomed := w.doomed || bad })
          else (n, w))
        phases := x.phases.map (fun p => if p.id = v.phase && !p.ended then { p with statuses := status :: p.statuses } else p) })
      (s2.onCmds j (fun c => c.noteEnd i status)).event 0x0001 j (natLe 4 (v.id i) ++ natLe 1 status ++ natLe 4 v.poison)

/-- The end status of a completed instance (R99). -/
def Instance.endStatus (v : Instance) : Nat :=
  if v.cancelled then 2 else if v.faulted then 3 else if v.poison ≠ 0 then 1 else 0

/-- Drop every TLB entry of a job (R88). -/
def State.dropTlbs (s : State) (j : Nat) : State :=
  { s with
    tlbs := s.tlbs.map (fun (d, es) => (d, es.filter (fun e => e.job != j)))
    cores := s.cores.map (fun (c, k) => (c, { k with tlb := k.tlb.filter (fun e => e.job != j) })) }

/-! ## Slot tables (R113) -/

/-- `build_slots`: 64 entries from the owners' weights, the free owner being 64. -/
def buildSlots (weights : List (Nat × Nat)) : List Nat :=
  let owners := weights ++ [(64, 64 - weights.foldl (fun n p => n + p.2) 0)]
  let pick (cs : List (Nat × Int)) : Nat × Int :=
    cs.foldl (fun m p => if decide (m.2 < p.2) then p else m) (cs.headD (64, 0))
  let rec go : Nat → List (Nat × Int) → List Nat
    | 0, _ => []
    | n + 1, cs =>
      let up := (cs.zip owners).map (fun (p, w) => (p.1, p.2 + (w.2 : Int)))
      let k := pick up
      k.1 :: go n (up.map (fun p => if p.1 = k.1 then (p.1, p.2 - 64) else p))
  go 64 (owners.map (fun p => (p.1, 0)))

/-- The weights in force on a core: the jobs', or their reservations' shares in proof service and in recovery (R113,
R116). -/
def State.weightsAt (s : State) (c : Nat) : List (Nat × Nat) :=
  (s.jobsAt c).map (fun (j, x) =>
    (j, if s.proof || (s.core c).recovery.isSome then 64 * x.resv / bufferEntries else x.weight))

/-- Rebuild a core's slot table. -/
def State.rebuildSlots (s : State) (c : Nat) : State :=
  s.onCore c (fun k => { k with slotTable := buildSlots (s.weightsAt c) })

/-- Rebuild the slot tables of a job's cores. -/
def State.rebuildFor (s : State) (cs : List Nat) : State := cs.foldl (fun t c => t.rebuildSlots c) s

/-! ## Leaving cores -/

/-- What a job that leaves the core has written in a slot is given up: no later job of its id reads it (R145). -/
def Slot.disown (x : Slot) (j : Nat) : Slot := if x.owner = some j then { x with val := 0, owner := none } else x

/-- Remove every trace of a job from a core: what it releases at its end, or after its state was saved (R94, R117). -/
def Core.dropJob (k : Core) (j : Nat) : Core :=
  let mine := (k.tiles.filter (fun (_, t) => t.st != .free && t.job == j)).map (fun p => p.1)
  let k1 := mine.foldl (fun k n => k.freeTile n) { k with accs := k.accs.filter (fun a => a.job != j) }
  { k1 with
    buffer := k1.buffer.filter (fun t => t.job.toNat != j)
    slots := k1.slots.map (fun (i, x) =>
      if k1.frames.any (fun f => f.job == j && decide (f.base ≤ i) && decide (i < f.base + f.size)) then
        (i, ({ x with present := false, kept := false, poison := false } : Slot).disown j) else (i, x.disown j))
    frames := k1.frames.filter (fun f => f.job != j)
    blocks := k1.blocks.filter (fun (_, b) => b.job != j)
    ready := k1.ready.filter (fun l => l.job != j)
    groups := k1.groups.filter (fun g => g.job != j)
    tileReqs := k1.tileReqs.filter (fun r => r.req.job != j)
    mmaReqs := k1.mmaReqs.filter (fun r => r.req.job != j)
    fallocs := k1.fallocs.filter (fun r => r.req.job != j)
    walkers := k1.walkers.map (fun (n, w) => if w.claimed && w.job == j then (n, { number := w.number }) else (n, w))
    mailbox := k1.mailbox.filter (fun m => m.job != j)
    closed := k1.closed.filter (fun p => p.1 != j)
    kernels := k1.kernels.filter (fun (_, x) => x.1 != j)
    xflags := Table.del k1.xflags j
    perf := k1.perf.filter (fun (n, _) => n / 64 != j)
    window := Table.del k1.window j }

/-- A job leaves its cores: cores, engines and TLBs hold nothing of it, and slot tables are rebuilt. -/
def State.leaveCores (s : State) (j : Nat) : State :=
  let cs := (s.job j).cores
  let s1 := cs.foldl (fun t c => t.onCore c (fun k => k.dropJob j)) s
  let s2 := { s1 with
    memReqs := s1.memReqs.filter (fun m => m.req.job != j)
    copies := s1.copies.filter (fun m => m.req.job != j)
    parts := s1.parts.filter (fun p => p.job != j)
    routeWork := s1.routeWork.filter (fun w => w.job != j)
    mesh := s1.mesh.filter (fun m => m.job != j)
    issue := match s1.issue with | some (_, i) => if i = j then none else s1.issue | none => none }
  s2.dropTlbs j

/-- The job whose records, reports, cellars or save an access to another device serves. -/
def State.accessJob (s : State) (owner : List Nat) : Option Nat :=
  match owner with
  | [5, id] => (s.posts.find? (fun p => p.id == id)).map (fun p => p.job)
  | [6, id] => some (bits id 58 6)
  | 7 :: j :: _ | 8 :: j :: _ | 9 :: j :: _ => some j
  | _ => none

/-- The job reaches its end (R94): it releases what it holds and JOB_END is queued with the status and fault code. -/
def State.endJob (s : State) (j status fault : Nat) : State :=
  let cs := (s.job j).cores
  let s0 := s.flushWhere (fun e => e.job == j)
  let s1 := s0.releaseParts (fun p => p.job == j)
  let s2 := s1.leaveCores j
  let s3 := s2.onJob j (fun x => { x with
    rect := none, weight := 0, resv := 0, rate := 0, period := 0, expo := 0, graphs := [], ended := true
    st := if x.st == .cancelling then .cancelling else .closing, saved := none })
  let s4 := { s3 with
    faults := s3.faults.filter (fun f => f.job != j)
    faultBuf := s3.faultBuf.map (fun (p : Nat × List FaultRec) => (p.1, p.2.filter (fun r => r.job != j)))
    posts := s3.posts.filter (fun p => p.job != j)
    fabric := s3.fabric.filter (fun r => s3.accessJob r.owner != some j) }
  ((s4.releaseCredits j false).rebuildFor cs).event 0x0003 j (natLe 1 status ++ natLe 1 fault)

/-! ## Marks to the peers of a fabric instance (R125, R126) -/

/-- Fabric tag and peers of an instance of a cut graph. -/
def Job.fabricOf (x : Job) (v : Instance) : Option (Nat × List Nat) :=
  match Table.find x.graphs v.graph with
  | some g => g.fabric
  | none => none

/-- Send a record of the fabric to every peer, on VC6: its body begins with the ordinal. The scheduler and the command processor
sit on I/O die 0; their records take compute die 0's column of `YROUTE`, for R24 gives the I/O dies no column of their own traffic
(the model's choice, log entry 11). -/
def State.tellPeers (s : State) (j kind tag ordinal : Nat) (peers : List Nat) (rest : List Byte) : State :=
  peers.foldl (fun t d => t.sendRec 0 6
    { kind := kind, job := j, dst := d, src := s.devnum, rid := tag, body := natLe 4 ordinal ++ rest }) s

/-- The totals of one collection, for the peers. -/
def State.tellTotals (s : State) (j tag ordinal : Nat) (peers : List Nat) (coll : Nat) (n : Nat × Nat × Nat) : State :=
  s.tellPeers j 0x12 tag ordinal peers (natLe 1 coll ++ zeros 3 ++ natLe 8 n.1 ++ natLe 4 n.2.1 ++ natLe 4 n.2.2)

/-! ## Placement (R108, R109) -/

/-- The instances of a job that count toward a set of device cores: LIVE or FROZEN, with a core among them (R108). -/
def Job.instancesOn (x : Job) (cores : List Nat) : Nat :=
  countIf (fun (_, v) =>
    (v.st == .live || v.st == .frozen) &&
      (match Table.find x.graphs v.graph with
       | some g => (List.range g.cores).any (fun n => cores.contains ((x.cores).getD (v.window * g.cores + n) 64))
       | none => false)) x.insts

/-- The window with the fewest instances, ties to the lowest (R108). -/
def Job.window (x : Job) (n : Nat) : Nat :=
  let w := x.cores.length / n
  let load (i : Nat) : Nat := x.instancesOn ((upFrom (i * n) n).map (fun q => x.cores.getD q 64))
  (List.range w).foldl (fun m i => if load i < load m then i else m) 0

/-- The root frames of an instance: one for each block and core that a primed token targets (R109). -/
def rootsOf (primes : List Prime) (coreAt : Nat → Nat) : List Root :=
  primes.foldl (fun rs p =>
    let c := coreAt p.gcore
    if rs.any (fun r => r.core == c && r.block == p.block) then rs else rs ++ [{ core := c, block := p.block }]) []

/-- Give the root frames that can be given now: below the block's limit, at the lowest free run. Log entry 23. -/
def State.giveRoots (s : State) (j i : Nat) : State :=
  match s.inst? j i with
  | none => s
  | some v =>
    (v.roots.zipIdx).foldl (fun t (r, n) =>
      if r.base.isSome then t
      else
        let k := t.core r.core
        match k.blockOf j r.block with
        | none => t
        | some b =>
          match (if k.underLimit j r.block b then k.lowestRun b.fsize else none) with
          | none => t
          | some base =>
            (t.giveFrame r.core j i r.block base).onInst j i (fun w =>
              { w with roots := setAt w.roots n { r with base := some base } })) s

/-- An instance reaches LIVE (R108, R109): placed in a window, its root frames asked for, its primed tokens waiting. A
part of a cut graph tells its peers that it is ready (R125). -/
def State.placeInst (s : State) (j i : Nat) : State :=
  match s.inst? j i, s.job? j with
  | some v, some x =>
    match Table.find x.graphs v.graph with
    | none => s.onInst j i (fun w => { w with st := .live, progress := s.clock })
    | some g =>
      let w := x.window g.cores
      let at_ (n : Nat) : Nat := x.cores.getD (w * g.cores + n) 64
      let s1 := s.onInst j i (fun u =>
        { u with st := .live, window := w, primes := g.primes, roots := rootsOf g.primes at_, progress := s.clock })
      let s2 := s1.giveRoots j i
      match g.fabric with
      | none => s2
      | some (tag, peers) =>
        s2.tellPeers j 0x11 tag v.ordinal peers (natLe 1 i ++ zeros 3)
  | _, _ => s

/-! ## Cancellation of an instance (R102, R103, R126) -/

/-- The scheduler's totals of a part that has ended, of one collection, for its peers: it holds nothing (R126). -/
def State.tellEnded (s : State) (p : EndedPart) (coll : Nat) : State :=
  s.tellTotals p.job p.tag p.ordinal p.peers coll (0, p.sent, p.received)

/-- A part of a fabric instance is cancelled: its peers are told. A part that was never placed, or whose job is PREEMPTED, ends at once:
its totals go with the mark, and are kept for the peers, which end only when the totals of all parts agree (R104, R126, log entry 70). -/
def State.tellCancel (s : State) (j i : Nat) : State :=
  match s.inst? j i, s.job? j with
  | some v, some x =>
    match x.fabricOf v with
    | none => s
    | some (tag, peers) =>
      let s1 := s.tellPeers j 0x13 tag v.ordinal peers (zeros 4)
      if v.st == .waiting || v.st == .held || x.st == .preempted then
        let sum (t : Table W32) : Nat := t.foldl (fun n p => n + p.2.toNat) 0 % 2 ^ 32
        let p : EndedPart :=
          { job := j, slot := i, tag := tag, ordinal := v.ordinal, peers := peers, sent := sum v.sent, received := sum v.received }
        ({ s1 with endedParts := p :: s1.endedParts.filter (fun e => !(e.job == j && e.tag == tag && e.ordinal == v.ordinal)) }.tellEnded
          p 1).tellEnded p 2
      else s1
  | _, _ => s

/-- Cancel one instance: WAITING and HELD end at once; a LIVE or FROZEN one is cancelled on each core as the mark reaches
it. A part of a cut graph tells its peers (R126). -/
def State.cancelInst (s : State) (j i : Nat) : State :=
  match s.inst? j i with
  | some v =>
    match v.st with
    | .waiting | .held => (s.tellCancel j i).endInst j i 2
    | .live | .frozen =>
      if v.cancelled then s
      else (s.tellCancel j i).onInst j i (fun w => { w with cancelled := true, primes := [], marks := (s.job j).cores })
    | .ended => s
  | none => s

/-! ## The phase timeline -/

/-- Phases not yet ended, in order. -/
def Job.open_ (x : Job) : List Phase := x.phases.filter (fun p => !p.ended)

/-- Change the phase in use with an id. -/
def Job.onPhase (x : Job) (id : Nat) (f : Phase → Phase) : Job :=
  { x with phases := x.phases.map (fun p => if p.id = id && !p.ended then f p else p) }

/-- Every instance entered in a phase has ended. -/
def Job.phaseIdle (x : Job) (id : Nat) : Bool := x.insts.all (fun (_, v) => v.phase != id || v.st == .ended)

/-- The job can start work: it runs and is not being cancelled or pre-empted. -/
def Job.canStart (x : Job) : Bool := x.running

/-- The HELD instance to be placed next: of a released phase, lowest in phase order and then in sequence (R108). -/
def Job.nextHeld (x : Job) : Option Nat :=
  (x.open_.filter (fun p => p.released && !p.cancelled)).findSome? (fun p =>
    let hs := x.insts.filter (fun (_, v) => v.phase == p.id && v.st == .held)
    hs.foldl (fun (m : Option (Nat × Nat)) (n, v) =>
      match m with
      | some (a, q) => if v.seq < q then some (n, v.seq) else some (a, q)
      | none => some (n, v.seq)) none |>.map (fun r => r.1))

/-- One transition of a job's instances and phases that needs nothing from outside; none when the job is settled. -/
def State.settleOnce (s : State) (j : Nat) : Option State :=
  match s.job? j with
  | none => none
  | some x =>
    if x.ended || x.st == .preempting then none
    else
      match x.insts.find? (fun (_, v) => v.st == .waiting && v.preds.isEmpty) with
      | some (i, v) =>
        if v.doomed then some (s.cancelInst j i) else some (s.onInst j i (fun w => { w with st := .held }))
      | none =>
        let front := x.open_.head?
        let releasable := match front with
          | some p => !p.released && (p.cancelled || (x.canStart && (!p.ticked || x.period == 0 || x.owed != 0)))
          | none => false
        match front with
        | some p =>
          if releasable then
            let takes := !p.cancelled && p.ticked && x.period != 0
            some (s.setJob j { x.onPhase p.id (fun q => { q with released := true }) with owed := if takes then x.owed - 1 else x.owed })
          else if p.released && p.closed && x.phaseIdle p.id then
            let st := p.statuses.foldl worst (if p.cancelled then 2 else 0)
            some ((s.setJob j (x.onPhase p.id (fun q => { q with ended := true }))).event 0x0002 j (natLe 2 p.id ++ natLe 1 st))
          else if x.canStart then (x.nextHeld).map (fun i => s.placeInst j i)
          else none
        | none =>
          if x.st == .closing && x.insts.all (fun (_, v) => v.st == .ended) then some (s.endJob j 0 0)
          else if x.st == .cancelling && x.insts.all (fun (_, v) => v.st == .ended) then some (s.endJob j x.endStatus x.endFault)
          else none

/-- Settle a job: at most `n` transitions. -/
def State.settle (s : State) (j : Nat) : Nat → State
  | 0 => s
  | n + 1 =>
    match s.settleOnce j with
    | some t => State.settle t j n
    | none => s

/-- Transitions that settling can take at most: each instance moves at most three times and each phase twice. -/
def settleBound : Nat := 1024

/-! ## Cancellation (R102 to R104) -/

/-- Cancel a phase in use: every instance entered in it, and none may enter later. -/
def State.cancelPhase (s : State) (j id : Nat) : State :=
  match s.job? j with
  | none => s
  | some x =>
    if x.open_.any (fun p => p.id == id) then
      let s1 := s.setJob j (x.onPhase id (fun p => { p with cancelled := true, closed := true }))
      (x.insts.filter (fun (_, v) => v.phase == id)).foldl (fun t (i, _) => t.cancelInst j i) s1
    else s

/-- The commands that wait on a job which is cancelled learn of it (R59). A JOB.OPEN waits on a job that is PREEMPTING; behind another
command it waits on no job (the model's choice, log entry 93). -/
def State.cancelCmds (s : State) (j : Nat) : State :=
  match s.job? j with
  | none => s
  | some x => if x.ended then s else s.onCmds j (fun c => if c.op != 1 || x.st == .preempting then { c with cancelled := true } else c)

/-- Cancel a job (R102): every phase and instance; the job ends with this status and fault code once every count is zero.
A PREEMPTED job ends at once, and one in PREEMPTING is cancelled when its save ends (R104). -/
def State.cancelLevels (s : State) (j status fault : Nat) : State :=
  match s.job? j with
  | none => s
  | some x =>
    if x.ended then s
    else if x.st == .preempted then
      let parts := match x.saved with | some v => v.parts | none => []
      let s0 := parts.foldl (fun t p => t.releasePart p) s
      let s1 := x.insts.foldl (fun t (i, v) => (if v.st == .ended then t else t.tellCancel j i).endInst j i 2) s0
      let s2 := s1.onJob j (fun y => { y with
        st := .cancelling, endStatus := status, endFault := fault,
        phases := y.phases.map (fun p => if p.ended then p else { p with cancelled := true, closed := true }) })
      (s2.releaseCredits j false).settle j settleBound
    else if x.st == .cancelling || (x.st == .preempting && x.cancelAtSave) then s
    else if x.st == .preempting then s.setJob j { x with cancelAtSave := true, endStatus := status, endFault := fault }
    else
      let s1 := s.setJob j { x with
        st := .cancelling, endStatus := status, endFault := fault, curtains := [], curtainsDue := 0,
        phases := x.phases.map (fun p => if p.ended then p else { p with cancelled := true, closed := true }) }
      let s2 := x.insts.foldl (fun t (i, _) => t.cancelInst j i) s1
      let s3 := { s2 with faults := s2.faults.filter (fun f => f.job != j) }
      (s3.dropTlbs j).settle j settleBound

/-- Cancel a job, and tell the commands that wait on it. -/
def State.cancelJob (s : State) (j status fault : Nat) : State := (s.cancelCmds j).cancelLevels j status fault

end Sys2Proof.Machine
end

