-- ==== Sys2Proof/Machine/Ops.lean ====
section
/-! DEFINITION. Traps and aborts: the one operation by which a firing takes a trap (R127, R394 to R396), with its record
and the job's policy, and the abort that gives a firing's inputs back (R142). -/

namespace Sys2Proof.Machine

/-- Add to a performance counter of a job on a core (Table 6.13). -/
def Core.count (k : Core) (j index n : Nat) : Core :=
  { k with perf := Table.modify k.perf (64 * j + index) 0 (· + BitVec.ofNat 64 n) }

/-- Add to a performance counter. -/
def State.count (s : State) (c j index n : Nat) : State := s.onCore c (fun k => k.count j index n)

/-! ## Entries (R250) -/

/-- Index and word of the `n`-th MATCH word of a block's code, whose first word has this index. -/
def matchAt : List W64 → Nat → Nat → Option (Nat × W64)
  | [], _, _ => none
  | w :: ws, i, n =>
    if bits w.toNat 55 9 = 1 then (if n = 0 then some (i, w) else matchAt ws (i + 1) (n - 1)) else matchAt ws (i + 1) n

/-- Entry `n` of a block: the index of its MATCH word, the word, and what it declares. -/
def Block.entryAt (b : Block) (n : Nat) : Option (Nat × W64 × Entry) :=
  match matchAt b.code 0 n with
  | some (i, w) =>
    match decodeMatch w with
    | .ok e => some (i, w, e)
    | .error _ => none
  | none => none

/-! ## Abort (R142) -/

/-- Put a parked operand that a match consumed back in its place. -/
def Core.unpark (k : Core) (p : Parked) : Core :=
  (k.setSlot p.slot { p.first with present := true }).setSlot (p.slot + 1) p.second

/-- Ids of the mailbox entries that a firing has reserved (R297). -/
def Firing.reserves (l : Firing) : List Nat :=
  l.staged.filterMap (fun x => match x with | .stealReply n _ => some n | _ => none)

/-- Give a firing's mailbox reservations back (R297). -/
def Core.unreserve (k : Core) (l : Firing) : Core :=
  { k with mailbox := k.mailbox.map (fun m => if l.reserves.contains m.id then { m with reserved := false } else m) }

/-- Give a firing's mailbox reservations back at core `c`. A request that finds the core closed meanwhile receives the empty reply
that GDONE gave the others (R298). -/
def State.unreserve (s : State) (c : Nat) (l : Firing) : State :=
  let k := s.core c
  let shut (m : StealReq) : Bool := l.reserves.contains m.id && k.closed.contains (m.job, m.inst)
  let k1 := { k with mailbox := k.mailbox.filter (fun m => !shut m) }
  (k.mailbox.filter shut).foldl (fun t m => t.stealAnswer c (s.coreFor c l) m.reply 0 false) (s.setCore c (k1.unreserve l))

/-- Restore the inputs of a firing: its tokens to the head of the queue, its parked operands to their places. -/
def Core.restoreInputs (k : Core) (l : Firing) : Core :=
  let k1 := l.parked.foldl (fun k p => k.unpark p) k
  { k1 with buffer := l.inputs ++ k1.buffer }

/-- Restore what an aborted firing took: its reservations and its inputs. -/
def State.restoreInputs (s : State) (c : Nat) (l : Firing) : State := (s.unreserve c l).onCore c (fun k => k.restoreInputs l)

/-- Abort firings, given oldest first: nothing is committed, and their inputs return in their original order. -/
def State.abortFirings (s : State) (c : Nat) (ls : List Firing) : State :=
  ls.reverse.foldl (fun t l => (t.restoreInputs c l).onCore c (fun k => k.count l.job 2 1)) s

/-! ## The trap record -/

/-- Where a trap stands: the word and its index, the values it read, and the input token of the record. -/
structure TrapSite where
  word : W64 := 0
  index : Nat := 0
  a : W64 := 0
  b : W64 := 0
  cd : W64 := 0
  input : Option Token := none
  deriving DecidableEq, Repr

/-- The policy that a trap applies: BRK freezes under POISON and FREEZE (R393). -/
def policyOf (policy code : Nat) : Nat := if code = 9 && policy != 2 then 1 else policy

/-- The trap record (Table 13.11). -/
def trapBytes (s : State) (c : Nat) (l : Firing) (t : Trap) (x : TrapSite) (policy : Nat) : List Byte :=
  natLe 2 t.code ++ natLe 1 l.job ++ natLe 1 l.lane ++ natLe 1 (s.coreFor c l) ++ natLe 1 policy ++ natLe 2 l.block
    ++ natLe 4 l.frame ++ natLe 1 l.entry ++ natLe 1 x.index ++ zeros 2 ++ natLe 4 (s.instId l.job l.inst)
    ++ natLe 4 t.imm.toNat ++ natLe 8 x.word.toNat ++ natLe 8 x.a.toNat ++ natLe 8 x.b.toNat ++ natLe 8 x.cd.toNat
    ++ (match x.input with
        | some k => natLe 8 k.w0 ++ natLe 8 k.w1 ++ natLe 8 k.w2.toNat
        | none => zeros 24)
    ++ natLe 4 l.tag.toNat ++ natLe 1 l.dim ++ zeros 1 ++ natLe 2 (l.tyL % 32 + 32 * (l.tyR % 32)) ++ natLe 8 s.time.toNat
    ++ zeros 31 ++ natLe 1 1

/-- A record that cannot be written is counted (R127, R396). -/
def State.loseTrap (s : State) (j : Nat) : State :=
  s.onJob j (fun x => { x with lostTrap := min (x.lostTrap + 1) (2 ^ 32 - 1) })

/-- Write a trap record at the next slot of the job's ring, if that slot is free (R396), or a DEADLOCK report before its event
(R171). False while another device's answer, or a port of the host, is waited for. -/
def State.tryPost (s : State) (p : Post) : State × Bool :=
  let o := postOwner p.id
  let j := p.job
  let done (t : State) : State × Bool := (t.dropOwner o, true)
  match p.report with
  | some (va, payload) =>
    match s.vwrite o none j va p.bytes with
    | (t, .wait) => (s.keepAsks t, false)
    | (t, _) => done (t.event 0x0005 j payload)
  | none =>
    let x := s.job j
    let va := x.trapVa + 128 * (x.trapNext % x.trapN)
    match s.vread o none j (va + 0x7F) 1 with
    | (t, .wait) => (s.keepAsks t, false)
    | (s1, .data [b]) =>
      if b = 0 then
        match s1.vwrite o none j va p.bytes with
        | (t, .wait) => (s.keepAsks t, false)
        | (s2, .data _) => done (s2.onJob j (fun y => { y with trapNext := y.trapNext + 1 }))
        | (s2, _) => done (s2.loseTrap j)
      else done (s1.loseTrap j)
    | (s1, _) => done (s1.loseTrap j)

/-- Post a record or a report. One that must wait holds later ones of its job behind it. -/
def State.post (s : State) (j : Nat) (bytes : List Byte) (report : Option (Nat × List Byte)) : State :=
  let p : Post := { id := s.nextId, job := j, bytes := bytes, report := report }
  match (if s.posts.any (fun q => q.job == j) then (s, false) else s.tryPost p) with
  | (t, true) => t
  | (t, false) => { t with posts := t.posts ++ [p], nextId := max t.nextId (s.nextId + 1) }

/-- Write a record at the next slot of the job's trap ring. -/
def State.putTrap (s : State) (j : Nat) (bytes : List Byte) : State := s.post j bytes none

/-- Try what waits again: the first of each job. -/
def State.runPosts (s : State) : State :=
  s.posts.foldl (fun t p =>
    if (t.posts.takeWhile (fun q => q.id != p.id)).any (fun q => q.job == p.job) then t
    else
      match t.tryPost p with
      | (u, true) => { u with posts := u.posts.filter (fun q => q.id != p.id) }
      | (u, false) => u) s

/-! ## Taking a trap -/

/-- Release the handles of the inputs that a firing consumed (Table 6.6). -/
def State.releaseInputs (s : State) (c : Nat) (l : Firing) : State :=
  let jc := s.coreFor c l
  s.onCore c (fun k => l.release.foldl (fun k v => k.releaseHandle jc l.job v) k)

/-- The instance is FROZEN. -/
def State.isFrozen (s : State) (j i : Nat) : Bool :=
  match s.inst? j i with
  | some v => v.st == .frozen
  | none => false

/-- The lanes on core `c` that have words left and whose instance is FROZEN stop where they stand (R127, Table 5.9). -/
def State.stopLanes (s : State) (c : Nat) : State :=
  s.onCore c (fun k => { k with groups := k.groups.map (fun g => { g with lanes := g.lanes.map (fun l =>
    if s.isFrozen l.job l.inst && !l.dead && !l.ended then { l with ended := true, stopped := true } else l) }) })

/-- The same on every core of a job: none of its FROZEN instances' firings issues on any core. -/
def State.stopFrozen (s : State) (j : Nat) : State := (s.job j).cores.foldl (fun t c => t.stopLanes c) s

/-- The job's trap policy on a firing that trapped (Table 5.9): its inputs, its instance, its job. Under FREEZE the firing is aborted
(R142), and counts as such (R174). -/
def State.applyPolicy (s : State) (c : Nat) (l : Firing) (policy : Nat) : State :=
  match policy with
  | 0 =>
    let s1 := (s.unreserve c l).releaseInputs c l
    s1.onInst l.job l.inst (fun v => { v with faulted := true })
  | 1 =>
    let s1 := (s.restoreInputs c l).count c l.job 2 1
    (s1.onInst l.job l.inst (fun v => if v.st == .live then { v with st := .frozen } else v)).stopFrozen l.job
  | _ =>
    let s1 := (s.unreserve c l).releaseInputs c l
    s1.cancelJob l.job 4 3

/-- A firing on core `c` takes a trap: nothing of it is committed, its record is written, and the policy applies. The
caller takes the firing out of its group. -/
def State.takeTrap (s : State) (c : Nat) (l : Firing) (t : Trap) (x : TrapSite) : State :=
  let policy := policyOf (s.job l.job).policy t.code
  let s1 := (s.putTrap l.job (trapBytes s c l t x policy)).count c l.job 3 1
  s1.applyPolicy c l policy

end Sys2Proof.Machine
end

