-- ==== Sys2Proof/Machine/Kernels.lean ====
section
/-! DEFINITION. Kernel slots: their tables as PWLD and LUTLD read them (R317, R318), and the evaluation of piecewise
polynomials and tables (R220, R221). -/

namespace Sys2Proof.Machine

/-- A kernel slot as a job reads it: EMPTY to every job but its owner (R316). -/
def Core.kernel (k : Core) (j slot : Nat) : KernelSlot :=
  match Table.find k.kernels slot with
  | some (owner, x) => if owner = j then x else .empty
  | none => .empty

/-- Empty the slots of a TABLE group whose member `slot` is, whoever owns it (R316). -/
def Core.breakGroup (k : Core) (slot : Nat) : Core :=
  match Table.find k.kernels slot with
  | some (_, .table head _ _ _) => { k with kernels := (upFrom head 4).foldl (fun t q => Table.del t q) k.kernels }
  | _ => k

/-- Load a segment table into a slot, which becomes the job's own. -/
def Core.loadPoly (k : Core) (j slot : Nat) (x : KernelSlot) : Core :=
  let k1 := k.breakGroup slot
  { k1 with kernels := Table.put k1.kernels slot (j, x) }

/-- Make four slots a TABLE group, each with 64 of the pairs (R318). -/
def Core.loadTable (k : Core) (j head : Nat) (lo inv : W32) (pairs : List (W32 × W32)) : Core :=
  let k1 := (upFrom head 4).foldl (fun k q => k.breakGroup q) k
  { k1 with kernels := (List.range 4).foldl (fun t q =>
      Table.put t (head + q) (j, .table head lo inv ((pairs.drop (64 * q)).take 64))) k1.kernels }

/-- A segment table in memory (R317, R271): 1,344 bytes with the count n, 63 breakpoints and 64 segments of four
coefficients; none where n or a zero field is wrong. -/
def polyOf (bs : List Byte) : Option KernelSlot :=
  let n := recNat bs 0 4
  let word (o : Nat) : W32 := BitVec.ofNat 32 (recNat bs o 4)
  if n = 0 || decide (64 < n) || !recZero bs 4 60 || !recZero bs (0x40 + 4 * (n - 1)) (4 * (64 - n) + 4)
      || !recZero bs (0x140 + 16 * n) (16 * (64 - n)) then none
  else some (.poly n ((List.range (n - 1)).map (fun i => word (0x40 + 4 * i)))
    ((List.range n).map (fun i => (List.range 4).map (fun c => word (0x140 + 16 * i + 4 * c)))))

/-- A TLY-16 table in memory (R318): lo, inv and the pairs; none where a reserved byte is not zero. -/
def tableOf (bs : List Byte) : Option (W32 × W32 × List (W32 × W32)) :=
  let word (o : Nat) : W32 := BitVec.ofNat 32 (recNat bs o 4)
  if !recZero bs 8 56 then none
  else some (word 0, word 4, (List.range 256).map (fun j => (word (0x40 + 8 * j), word (0x44 + 8 * j))))

/-- x × y + z rounded once to FP32, on codes. -/
def fmaCode (x y z : Nat) : Nat × Flags :=
  let (v, f) := fmaVal (FloatFmt.fp32.val x) (FloatFmt.fp32.val y) (FloatFmt.fp32.val z) false
  let (c, g) := roundTo .fp32 v .rne false 0
  (c, f ||| g)

/-- The segment of R220: the largest i with b[i] ≤ x, 0 if none; and its breakpoint. -/
def segmentOf (breaks : List W32) (x : Nat) : Nat × Option Nat :=
  (breaks.zipIdx).foldl (fun m (b, i) =>
    match cmpVal (FloatFmt.fp32.val b.toNat) (FloatFmt.fp32.val x) with
    | some .lt => (i + 1, some b.toNat)
    | some .eq => (i + 1, some b.toNat)
    | _ => m) (0, none)

/-- Evaluate a piecewise polynomial at an FP32 code (R220). -/
def evalPoly (breaks : List W32) (coef : List (List W32)) (x : Nat) : Nat × Flags :=
  let (i, b) := segmentOf breaks x
  let (t, f0) : Nat × Flags :=
    match b with
    | some b =>
      let (v, f) := addVal (FloatFmt.fp32.val x) (FloatFmt.fp32.val b).negate false
      let (c, g) := roundTo .fp32 v .rne false 0
      (c, f ||| g)
    | none => (x, flNone)
  let c (n : Nat) : Nat := ((coef.getD i []).getD n 0).toNat
  let (y1, f1) := fmaCode t (c 3) (c 2)
  let (y2, f2) := fmaCode t y1 (c 1)
  let (y3, f3) := fmaCode t y2 (c 0)
  (y3, f0 ||| f1 ||| f2 ||| f3)

/-- Evaluate a kernel slot by PWEV's rule: a slot that is not POLY gives the canonical NaN and IV (R319). -/
def KernelSlot.poly? (s : KernelSlot) (x : Nat) : Nat × Flags :=
  match s with
  | .poly _ breaks coef => evalPoly breaks coef x
  | _ => (FloatFmt.fp32.nanCode, flIV)

/-- ⌊v⌋ of an exact finite value. -/
def floorVal (v : Val) : Int :=
  match v with
  | .fin n m e s => (roundInt n m e s .rd 0).1
  | _ => 0

/-- The index of R221, clamped to 0 to 255; where `lo` or `inv` is no finite number the spec states none. Log entry 24. -/
def tableIndex (x lo inv : W32) : Nat :=
  let f := FloatFmt.fp32
  match f.val x.toNat, f.val lo.toNat, f.val inv.toNat with
  | .inf n, _, _ => if n then 0 else 255
  | _, .nan _, _ => Config.freeIndex x lo inv % 256
  | _, .inf _, _ => Config.freeIndex x lo inv % 256
  | _, _, .nan _ => Config.freeIndex x lo inv % 256
  | _, _, .inf _ => Config.freeIndex x lo inv % 256
  | v, l, i =>
    let d := (addVal v l.negate false).1
    (max 0 (min 255 (floorVal (mulVal d i).1))).toNat

/-- Evaluate the TABLE group that the four slots from `head` hold (R221); a slot that is no head gives the canonical NaN
and IV (R320). -/
def Core.evalTable (k : Core) (j head : Nat) (x : Nat) : Nat × Flags :=
  match k.kernel j head with
  | .table h lo inv _ =>
    if h = head then
      if FloatFmt.fp32.isNan x then (FloatFmt.fp32.nanCode, flWhen (FloatFmt.fp32.isSNan x) flIV)
      else
        let n := tableIndex (BitVec.ofNat 32 x) lo inv
        let pair := match k.kernel j (head + n / 64) with
          | .table _ _ _ ps => ps.getD (n % 64) (0, 0)
          | _ => (0, 0)
        fmaCode x pair.1.toNat pair.2.toNat
    else (FloatFmt.fp32.nanCode, flIV)
  | _ => (FloatFmt.fp32.nanCode, flIV)

end Sys2Proof.Machine
end

