-- ==== Sys2Proof/Machine/TileCompute.lean ====
section
/-! DEFINITION. The elements of tile results (R202, R208 to R212, R219 to R221, R335 to R345): every tile form as a
function of the element codes of its source tiles. -/

namespace Sys2Proof.Machine

/-! ## Reading sources -/

/-- The exact value of an element, or of a 32-bit integer accumulator element (R218). -/
def readVal (acc : Bool) (code raw : Nat) : Val := if acc then intVal (sext 32 raw) else elemVal code raw 0

/-- A tile reads its scale tile: its code needs one, or it is RS8 (R202). -/
def Tile.scaled (t : Tile) : Bool := fmtScaled t.fmt || (t.scv && (t.fmt == 3 || t.fmt == 8))

/-- The scale tile that a tile carries agrees with R201. -/
def scaleFits (t sc : Tile) : Bool :=
  sc.fmt == 9 && sc.rows == t.rows &&
    (match scaleRowBytes t.fmt t.ncols with
     | some n => sc.ncols == n
     | none => (groupSize t.fmt t.ncols sc.ncols).isSome)

/-- The tile is misshapen (R202). -/
def Core.misshapen (k : Core) (t : Tile) : Bool :=
  t.scaled && (match k.scaleOf t with | some sc => !scaleFits t sc | none => true)

/-- The factor and the zero point of element `c` of row `r` (R201, R202): 1 and 0 for an unscaled format, and a free
value for a misshapen tile. Log entry 31. -/
def Core.factor (k : Core) (t : Tile) (r c : Nat) : Val × Nat :=
  if t.scaled then
    match k.scaleOf t with
    | some sc =>
      if scaleFits t sc then
        let row := k.row sc r
        (scaleFactor t.fmt t.ncols c row (k.row sc 0), zeroPoint t.fmt t.ncols c row)
      else
        let f := Config.freeFactor t.gen.toNat t.base r c
        (FloatFmt.fp32.val f.toNat, f.toNat % 16)
    | none =>
      let f := Config.freeFactor t.gen.toNat t.base r c
      (FloatFmt.fp32.val f.toNat, f.toNat % 16)
  else (intVal 1, 0)

/-- A group's exact sum times a factor (R217): a zero is −0 only where the sum was. -/
def timesFactor (s f : Val) : Val :=
  match (mulVal s f).1 with
  | .zero _ => .zero (match s with | .zero n => n | _ => false)
  | v => v

/-- The exact value of every element, its zero point applied, with its factor (R198 to R202). -/
def Core.factoredVals (k : Core) (t : Tile) : List (List (Val × Val)) :=
  (List.range t.nrows).map (fun r => ((k.rowCodes t r).zipIdx).map (fun (x, c) =>
    let (f, z) := k.factor t r c
    (elemVal t.fmt x z, f)))

/-- The exact value of every element, times its factor. -/
def Core.scaledVals (k : Core) (t : Tile) : List (List Val) :=
  (k.factoredVals t).map (·.map (fun p => if t.scaled then (mulVal p.1 p.2).1 else p.1))

/-- Element (r, c) of rows of codes. -/
def at2 (rows : List (List Nat)) (r c : Nat) : Nat := (rows.getD r []).getD c 0

/-- Rows of a result from its element function. -/
def tabulate (n m : Nat) (f : Nat → Nat → Nat) : List (List Nat) :=
  (List.range n).map (fun r => (List.range m).map (fun c => f r c))

/-- The columns of rows, as rows. -/
def transpose (rows : List (List Nat)) (m : Nat) : List (List Nat) :=
  (List.range m).map (fun c => rows.map (fun r => r.getD c 0))

/-- Entries of an index tile: one row or one column, read as Z32. -/
def Core.indices (k : Core) (t : Tile) : List Nat := (k.codes t).flatten

/-- A new tile that a request makes: format, shape, elements, poison. -/
structure NewTile where
  fmt : Nat
  rows : Nat
  cols : Nat
  codes : List (List Nat)
  poison : Bool := false
  deriving DecidableEq, Repr

/-- An element of a broadcast operand (R340). -/
def broadcast (t : Tile) (rows : List (List Nat)) (r c : Nat) : Nat :=
  at2 rows (if t.nrows = 1 then 0 else r) (if t.ncols = 1 then 0 else c)

/-! ## Conversion and quantisation (R337, R338) -/

/-- The rounding mode of a code (Table 8.5). -/
def RMode.ofNat (n : Nat) : RMode :=
  match n with
  | 0 => .rne | 1 => .rz | 2 => .rd | 3 => .ru | 4 => .rna | _ => .sr

/-- The SR draw of an element (R208). -/
def elemDraw (seed tag : W32) (n r c : Nat) : Nat := (mix32 seed tag (BitVec.ofNat 32 (r * n + c))).toNat

/-- TCVT. Elements that have the target's type already stay as they are (Table 8.7). -/
def Core.tcvtCodes (k : Core) (t : Tile) (acc : Bool) (fc : Nat) (mode : RMode) (seed tag : W32) : List (List Nat) :=
  if !acc && !t.scaled && t.fmt == fc then k.codes t else
  let vals := if acc then (k.codes t).map (·.map (fun x => readVal true t.fmt x)) else k.scaledVals t
  (vals.zipIdx).map (fun (row, r) => (row.zipIdx).map (fun (v, c) =>
    elemPut fc v mode false (elemDraw seed tag t.ncols r c)))

/-- ⌊log₂⌋ of a finite nonzero value. -/
def valLog2 : Val → Int
  | .fin _ m e _ => (m.log2 : Int) + e
  | _ => 0

/-- |x|. -/
def magnitude (x : Val) : Val := x.withSign false

/-- The largest magnitude of a block (R210): NaNs are passed over; +0 for an empty block. -/
def amaxOf (xs : List Val) : Val :=
  xs.foldl (fun m x => match cmpVal m (magnitude x) with | some .lt => magnitude x | _ => m) (.zero false)

/-- The block holds a NaN. -/
def anyNan (xs : List Val) : Bool := xs.any (fun x => match x with | .nan _ => true | _ => false)

/-- The block holds an infinity. -/
def anyInf (xs : List Val) : Bool := xs.any (fun x => match x with | .inf _ => true | _ => false)

/-- emax of an MX element format (R210). -/
def mxEmax (code : Nat) : Int :=
  match code with
  | 0x0C => 8 | 0x0D => 15 | 0x0E => 4 | 0x0F => 2 | 0x10 => 2 | _ => 0

/-- The scale code of an MX block, and the elements to convert (Table 8.8). -/
def mxBlock (code : Nat) (xs : List Val) : Nat × List Val :=
  if anyNan xs || anyInf xs then (0xFF, xs.map (fun _ => Val.nan false))
  else
    let m := amaxOf xs
    let x : Int := match m with
      | .fin _ _ _ _ => (clampInt (-127) 127 (valLog2 m - mxEmax code)).1
      | _ => -127
    ((x + 127).toNat, xs.map (fun v => (scaleVal v (-x)).1))

/-- The scale code of an SF4 block with tensor scale T, and the elements to convert. -/
def sf4Block (t : Val) (xs : List Val) : Nat × List Val :=
  let sb := if anyNan xs then FloatFmt.e4m3.nanCode
    else (roundTo .e4m3 (divVal (amaxOf xs) (mulVal (intVal 6) t).1).1 .rne true 0).1
  let d := (mulVal (FloatFmt.e4m3.val sb) t).1
  (sb, if sb = 0 then xs.map (fun _ => Val.zero false) else xs.map (fun v => (divVal v d).1))

/-- The FP32 scale code of an RS8 row, and the elements to convert; a row with a NaN has no amax (log entry 25). -/
def rs8Row (int : Bool) (raw : List Nat) (xs : List Val) : Nat × List Val :=
  let m := amaxOf xs
  let s := if anyNan xs then (Config.freeScale raw).toNat
    else match m with
      | .zero _ => 0x3F800000
      | _ => rneFp32 (divVal m (intVal (if int then 127 else 448))).1
  (s, xs.map (fun v => (divVal v (FloatFmt.fp32.val s)).1))

/-- The blocks of a row. -/
def blocksOf {α : Type} (n : Nat) (xs : List α) : List (List α) :=
  (List.range (cdiv xs.length n)).map (fun i => (xs.drop (n * i)).take n)

/-- One row quantised: its scale-tile bytes and its exact scaled elements. -/
def quantRow (fc : Nat) (t : W32) (raw : List Nat) (xs : List Val) : List Nat × List Val :=
  if fc = 0x03 || fc = 0x08 then
    let (s, ys) := rs8Row (fc == 0x08) raw xs
    ((natLe 4 s).map (·.toNat), ys)
  else if fc = 0x12 then
    let bs := (blocksOf 16 xs).map (sf4Block (FloatFmt.fp32.val t.toNat))
    (bs.map (·.1) ++ (natLe 4 t.toNat).map (·.toNat), (bs.map (·.2)).flatten)
  else
    let bs := (blocksOf 32 xs).map (mxBlock fc)
    (bs.map (·.1), (bs.map (·.2)).flatten)

/-- TQNT: the data elements and the scale-tile bytes. -/
def Core.tqntCodes (k : Core) (t : Tile) (fc : Nat) (ts : W32) (mode : RMode) (seed tag : W32) :
    List (List Nat) × List (List Nat) :=
  let rows := (k.codes t).map (fun raw => quantRow fc ts raw (raw.map (fun x => elemVal t.fmt x 0)))
  (((rows.map (·.2)).zipIdx).map (fun (row, r) => (row.zipIdx).map (fun (v, c) =>
    elemPut fc v mode true (elemDraw seed tag t.ncols r c))), rows.map (·.1))

/-! ## Elementwise forms (R339) -/

/-- The float format of a code of set H. -/
def hFmt (code : Nat) : FloatFmt := (elemFloat code).getD .fp32

/-- A NaN quieted, with the payload kept (R211). -/
def quieted (f : FloatFmt) (x : Nat) : Nat := f.quiet x

/-- One element of TADD, TSUB, TMUL or TFMA (`op` 0 to 3). -/
def arith (op fa fb fc : Nat) (x y z : Nat) : Nat :=
  let a := (hFmt fa).val x
  let b := (hFmt fb).val y
  let v := match op with
    | 0 => (addVal a b false).1
    | 1 => (addVal a b.negate false).1
    | 2 => (mulVal a b).1
    | _ => (fmaVal a b ((hFmt fc).val z) false).1
  (roundTo (hFmt fc) v .rne false 0).1

/-- One element of TABS or TNEG. -/
def signElem (neg : Bool) (fa x : Nat) : Nat :=
  let f := hFmt fa
  let y := if neg then x ^^^ f.signBit else x % f.signBit
  quieted f y

/-- TCMP. -/
def cmpElem (cond fa x y : Nat) : Nat := b2n (condHolds cond (cmpVal ((hFmt fa).val x) ((hFmt fa).val y)))

/-! ## Kernel forms (R341) -/

/-- An FP32 or BF16 element as an FP32 code. -/
def widen (fa x : Nat) : Nat := if fa = 0x02 then x * 2 ^ 16 else x

/-- TPWP on one element. -/
def pwElem (slot : KernelSlot) (fa fc x : Nat) : Nat :=
  let y := (slot.poly? (widen fa x)).1
  if fc = 0x02 then (floatToFloat .bf16 (FloatFmt.fp32.val y) .rne false 0).1 else y

/-! ## Reductions (R219, R342) -/

/-- Elements of a summation group of TRED and TSCAN (R219): none for the FP32 chain. -/
def redGroup (fa : Nat) : Nat :=
  if fa = 0 then 1 else if fa = 1 || fa = 2 then 16 else 32

/-- acc + x, rounded once to FP32, on codes. -/
def addFp32 (acc : Nat) (x : Val) : Nat :=
  rneFp32 (addVal (FloatFmt.fp32.val acc) x false).1

/-- A group's exact sum under way (R219): the blocks behind it with their factors applied, the sum of the block in hand, and how many
elements the group has. -/
structure GroupSum where
  behind : Option Val := none
  sum : Val := .zero false
  count : Nat := 0

/-- Another element in the group: its factor is applied to the sum of its block, of `blk` elements (R217). A group of 32 meets two
blocks of SF4, whose sums are added. -/
def GroupSum.add (s : GroupSum) (blk : Nat) (x f : Val) : GroupSum × Val :=
  let fresh := s.count % blk == 0
  let sum := if fresh then x else (addVal s.sum x false).1
  let scaled := timesFactor sum f
  let whole := match s.behind with | some b => (addVal b scaled false).1 | none => scaled
  ({ behind := if (s.count + 1) % blk = 0 then some whole else s.behind, sum := sum, count := s.count + 1 }, whole)

/-- Running sums of one line of values with their factors, in groups of `g` or as the FP32 chain: the value after each element. The sum
of a group is exact. Log entry 26. -/
def scanSum (fp32 : Bool) (g blk : Nat) (xs : List (Val × Val)) : List Nat :=
  let step (st : Nat × GroupSum × List Nat) (x : Val × Val) : Nat × GroupSum × List Nat :=
    let (acc, s, out) := st
    if fp32 then
      let y := addFp32 acc x.1
      (y, {}, out ++ [y])
    else
      let (s', whole) := s.add blk x.1 x.2
      let y := addFp32 acc (FloatFmt.fp32.val (rneFp32 whole))
      if s'.count = g then (y, {}, out ++ [y]) else (acc, s', out ++ [y])
  (xs.foldl step (0, {}, [])).2.2

/-- Running 32-bit integer sums. -/
def scanInt (xs : List Int) : List Nat :=
  (xs.foldl (fun (st : Int × List Nat) x => (st.1 + x, st.2 ++ [wrapInt 32 (st.1 + x)])) (0, [])).2

/-- The integer value of an element of an integer code. -/
def intElem (fa x : Nat) : Int :=
  match elemInt fa with
  | some (true, w) => sext w x
  | _ => (x : Int)

/-- Running maximum or minimum of one line of codes. -/
def scanMax (wantMax : Bool) (fa : Nat) (xs : List Nat) : List Nat :=
  let pick (a b : Nat) : Nat :=
    match elemFloat fa with
    | some f => (f.minMax wantMax false a b).1
    | none =>
      let x := intElem fa a
      let y := intElem fa b
      if wantMax then (if x < y then b else a) else (if y < x then b else a)
  match xs with
  | [] => []
  | x :: rest => (rest.foldl (fun (st : Nat × List Nat) y => (pick st.1 y, st.2 ++ [pick st.1 y])) (x, [x])).2

/-- Running values of one line, given its codes and its exact values with their factors, in the result's format. -/
def scanLine (op fa fc : Nat) (codes : List Nat) (vals : List (Val × Val)) : List Nat :=
  match op with
  | 0 =>
    if fmtInt fa then scanInt (codes.map (intElem fa))
    else (scanSum (fa == 0) (redGroup fa) (if fa = 0x12 then 16 else redGroup fa) vals).map (fun y =>
      if fc = 0 then y else (floatToFloat (hFmt fc) (FloatFmt.fp32.val y) .rne false 0).1)
  | 1 => scanMax true fa codes
  | _ => scanMax false fa codes

/-- Every line's running values: lines are rows, or columns with `tra`. -/
def Core.scanTile (k : Core) (t : Tile) (op fc : Nat) (tra : Bool) : List (List Nat) :=
  let codes := k.codes t
  let vals := k.factoredVals t
  if tra then
    transpose ((List.range t.ncols).map (fun c =>
      scanLine op t.fmt fc (codes.map (fun r => r.getD c 0)) (vals.map (fun r => r.getD c (.zero false, intVal 1))))) t.nrows
  else (codes.zip vals).map (fun p => scanLine op t.fmt fc p.1 p.2)

/-- TRED: the last running value of each line, as one column or one row. -/
def Core.redTile (k : Core) (t : Tile) (op fc : Nat) (tra : Bool) : List (List Nat) :=
  let s := k.scanTile t op fc tra
  if tra then [s.getLastD []] else s.map (fun r => [r.getLastD 0])

/-! ## Rearrangement (R343) -/

/-- TGTH along rows: zeros for 0xFFFF_FFFF and beyond the extent. -/
def gather (rows : List (List Nat)) (m : Nat) (idx : List Nat) : List (List Nat) :=
  idx.map (fun i => if i < rows.length then rows.getD i [] else List.replicate m 0)

/-- TSCT along rows: for i ascending, row B[i] of the target takes row i of the source. -/
def scatter (target source : List (List Nat)) (idx : List Nat) : List (List Nat) :=
  (idx.zip source).foldl (fun t p => setAt t p.1 p.2) target

/-- An index lies beyond the extent and is not 0xFFFF_FFFF. -/
def strays (idx : List Nat) (extent : Nat) : Bool := idx.any (fun i => i != 0xFFFFFFFF && decide (extent ≤ i))

/-! ## Single elements (R345) -/

/-- TGET's type and value. -/
def getScalar (fa : Nat) (acc : Bool) (x : Nat) : Nat × W64 :=
  if acc then (2, BitVec.ofInt 64 (sext 32 x))
  else if fa = 0 then (7, BitVec.ofNat 64 x)
  else
    match elemInt fa, elemFloat fa with
    | some (true, w), _ => (2, BitVec.ofInt 64 (sext w x))
    | some (false, _), _ => (3, BitVec.ofNat 64 x)
    | _, some f => (7, BitVec.ofNat 64 (floatToFloat .fp32 (f.val x) .rne false 0).1)
    | _, none => (7, 0)

/-- TSET's element. An F32 that goes into an FP32 tile has its type already (Table 8.7). -/
def putScalar (fa : Nat) (acc : Bool) (d : W64) : Nat :=
  if acc then wrapInt 32 (clampInt (-2147483648) 2147483647 (sext 64 d.toNat)).1
  else if fa = 0 then bits d.toNat 0 32
  else
    match elemInt fa, elemFloat fa with
    | some (sg, w), _ =>
      let (lo, hi) := intBounds sg w
      wrapInt w (clampInt lo hi (sext 64 d.toNat)).1
    | _, some f => (floatToFloat f (FloatFmt.fp32.val (bits d.toNat 0 32)) .rne false 0).1
    | _, none => 0

end Sys2Proof.Machine
end

