-- ==== Sys2Proof/Machine/TileReqs.lean ====
section
/-! DEFINITION. The tile unit (R148 to R152, R324 to R345): the operands of requests, the order in which requests may
start, what each tile form makes or writes, and how a request finishes. -/

namespace Sys2Proof.Machine

/-! ## What a request names -/

/-- The word of a request of T format. -/
def Req.t (r : Req) : TWord :=
  match r.instr.form with
  | some (_, .t w) => w
  | _ => default

/-- The word of a request of M format. -/
def Req.m (r : Req) : MWord :=
  match r.instr.form with
  | some (_, .m w) => w
  | _ => default

/-- The tile handles that a request names as operands (Tables 12.3, 12.7, 13.3, 13.6, 13.7), each once (R150). -/
def Req.handles (r : Req) : List W64 :=
  (match r.instr with
    | .tdesc _ | .tview _ | .tcvt _ | .tqnt _ | .tabs _ | .tneg _ | .tpwp _ | .tlut _ | .tred _ | .tscan _ | .tbcst _
    | .ttrn _ | .tget _ | .tset _ | .tspl _ | .rsel _ => [r.a]
    | .tcopy w => if w.b = Spec.zero then [r.a] else [r.a, r.b]
    | .tadd _ | .tsub _ | .tmul _ | .tmin _ | .tmax _ | .tcmp _ | .tcat _ | .tgth _ | .racc _ => [r.a, r.b]
    | .tfma _ | .tsel _ | .tsct _ => [r.a, r.b, r.d]
    | .mma w | .mmas w | .mmaw w | .mmax w => if w.acc then [r.a, r.b, r.d] else [r.a, r.b]
    | .tst _ | .tldi _ => [r.b]
    | .tsti _ => [r.b, r.d]
    | .wgo _ => if r.hasTile then [r.b] else []
    | _ => []).eraseDups

/-- The tile that a request writes in place (R327). -/
def Req.target (r : Req) : Option W64 :=
  match r.instr with
  | .tcopy w | .tadd w | .tsub w | .tmul w | .tmin w | .tmax w | .tabs w | .tneg w => if w.acc then some r.a else none
  | .tfma w | .mma w | .mmas w | .mmaw w | .mmax w => if w.acc then some r.d else none
  | .tset _ => some r.a
  | .tsct _ => some r.d
  | _ => none

/-- Another operand of the request names its target (R327, R351). -/
def Req.targetIsSource (r : Req) : Bool :=
  match r.instr with
  | .tcopy w => w.acc && w.b != Spec.zero && r.a == r.b
  | .tadd w | .tsub w | .tmul w | .tmin w | .tmax w => w.acc && r.a == r.b
  | .tfma w | .mma w | .mmas w | .mmaw w | .mmax w => w.acc && (r.d == r.a || r.d == r.b)
  | .tsct _ => r.d == r.a || r.d == r.b
  | _ => false

/-! ## Order (R149, R325) -/

/-- A contribution that has still to be added: a poison mark names no tile. -/
def Contribution.reads (x : Contribution) : Bool := !x.mark && x.asked.isNone

/-- Every unfinished request of a core that reads or writes tiles, but for contributions to accumulators. -/
def State.unitWork (s : State) (c : Nat) : List Req :=
  let k := s.core c
  k.tileReqs.map (·.req) ++ k.mmaReqs.map (·.req)
    ++ (s.memReqs.filter (fun m => !m.begun && s.devCore m.req.job m.req.core == some c)).map (·.req)
    ++ k.walkers.flatMap (fun p => p.2.queue)
    ++ (s.routeWork.filterMap (fun w => match w.what with | .form r => some r | _ => none)).filter (fun r =>
        s.devCore r.job r.core == some c)

/-- Every unfinished request of a core that reads or writes tiles. -/
def State.tileWork (s : State) (c : Nat) : List Req :=
  s.unitWork c ++ (s.core c).accs.flatMap (fun a => (a.held.filter (·.reads)).map (·.req))

/-- The tile is PENDING under a producing request that has been granted it (Table 6.5). -/
def State.producing (s : State) (c i : Nat) : Bool :=
  let k := s.core c
  (k.tile i).st == .pending &&
    (k.tileReqs.any (fun q => q.made.contains i) || k.mmaReqs.any (fun q => q.made.contains i)
      || k.accs.any (fun a => a.held.any (fun x => x.made == some i))
      || s.memReqs.any (fun m => m.tile == some i && s.devCore m.req.job m.req.core == some c))

/-- An accumulator is adding to this tile now (R349). -/
def Core.adding (k : Core) (h : W64) : Bool :=
  k.accs.any (fun a => a.isTile && a.name == h.toNat && a.held.any (·.started))

/-- The handle of the tile whose storage a view of operand A shares (R334). -/
def Core.parentOf (k : Core) (r : Req) : List W64 :=
  match r.instr with
  | .tview _ => let a := k.tile (handleIndex r.a); if a.view then [k.handle r.core a.parent] else []
  | _ => []

/-- The request's operands are ready: no earlier request still writes a tile it names, none still reads its target, no producing request
still makes a tile it names, and no accumulator is adding to one; TVIEW waits for the parent that A names as well (R334). TDESC, which
has read its entry, does not wait (R333). -/
def State.tileReady (s : State) (c : Nat) (r : Req) : Bool :=
  let earlier := (s.tileWork c).filter (fun q => decide (q.id < r.id))
  match r.instr with
  | .tdesc _ => true
  | _ =>
    (r.handles ++ (s.core c).parentOf r).all (fun h =>
        !(s.core c).adding h && !s.producing c (handleIndex h) && earlier.all (fun q => q.target != some h))
      && (match r.target with
          | some t => earlier.all (fun q => !q.handles.contains t)
          | none => true)

/-! ## Sources -/

/-- The tile named by an operand. -/
def Core.opTile (k : Core) (v : W64) : Tile := k.tile (handleIndex v)

/-- The form reads the scale or metadata tile of an operand with it (R201, R217, R219, R354). -/
def Req.readsScales (r : Req) : Bool :=
  match r.instr with
  | .tcvt _ | .tqnt _ | .tred _ | .tscan _ | .racc _ | .mma _ | .mmas _ | .mmaw _ | .mmax _ => true
  | _ => false

/-- The operands of a request serve it: their banks wake (R80). -/
def Core.touchOperands (k : Core) (r : Req) (clock : Nat) : Core :=
  r.handles.foldl (fun k h => if r.readsScales then k.touchWith (k.opTile h) clock else k.touchTile (k.opTile h) clock) k

/-- A source spoils its result: it or a tile attached to it is poisoned, or it is misshapen (R328). -/
def Core.spoils (k : Core) (v : W64) : Bool := k.tilePoison (k.opTile v) || k.misshapen (k.opTile v)

/-- What spoils TCOPY's result: a poisoned or misshapen A, or a poisoned B. B's scales take the place of those that A lacks, so that
an A without them is not misshapen as TCOPY reads it (R336; log entry 31). -/
def Core.copySpoils (k : Core) (w : TWord) (r : Req) : Bool :=
  if w.b = Spec.zero then k.spoils r.a else k.tilePoison (k.opTile r.a) || k.tilePoison (k.opTile r.b)

/-- Columns and rows of a shape word (Table 12.2). -/
def shapeOf (v : W64) : Nat × Nat := (bits v.toNat 16 11 + 1, bits v.toNat 0 11 + 1)

/-- Column and row of a position word. -/
def posOf (v : W64) : Nat × Nat := (bits v.toNat 16 11, bits v.toNat 0 11)

/-- A reserved bit of a shape or position word is set (R323). -/
def shapeBad (v : W64) : Bool := bits v.toNat 27 37 != 0 || bits v.toNat 11 5 != 0

/-! ## Results -/

/-- Elements of an elementwise form. -/
def Core.elementwise (k : Core) (r : Req) : List (List Nat) :=
  let w := r.t
  let a := k.opTile r.a
  let b := k.opTile r.b
  let d := k.opTile r.d
  let xs := k.codes a
  let ys := k.codes b
  let zs := k.codes d
  let fa := w.fa.toNat
  let fb := w.fb.toNat
  let fc := w.fc.toNat
  let f (op : Nat) : List (List Nat) := tabulate a.nrows a.ncols (fun i j =>
    arith op fa fb fc (at2 xs i j) (broadcast b ys i j) (broadcast d zs i j))
  match r.instr with
  | .tadd _ => f 0
  | .tsub _ => f 1
  | .tmul _ => f 2
  | .tfma _ => f 3
  | .tmin _ => tabulate a.nrows a.ncols (fun i j => ((hFmt fa).minMax false false (at2 xs i j) (broadcast b ys i j)).1)
  | .tmax _ => tabulate a.nrows a.ncols (fun i j => ((hFmt fa).minMax true false (at2 xs i j) (broadcast b ys i j)).1)
  | .tabs _ => tabulate a.nrows a.ncols (fun i j => signElem false fa (at2 xs i j))
  | .tneg _ => tabulate a.nrows a.ncols (fun i j => signElem true fa (at2 xs i j))
  | .tcmp _ => tabulate a.nrows a.ncols (fun i j => cmpElem w.tmod.toNat fa (at2 xs i j) (broadcast b ys i j))
  | .tsel _ => tabulate a.nrows a.ncols (fun i j => if at2 xs i j ≠ 0 then at2 ys i j else at2 zs i j)
  | _ => xs

/-- Elements of a rearranging form, and whether an index strayed (Table 12.5). -/
def Core.rearranged (k : Core) (r : Req) : List (List Nat) × Bool :=
  let w := r.t
  let a := k.opTile r.a
  let b := k.opTile r.b
  let xs := k.codes a
  let cols := w.tmod = 1
  match r.instr with
  | .tbcst _ =>
    let (nc, nr) := shapeOf r.b
    (tabulate nr nc (fun i j => if cols then at2 xs i 0 else at2 xs 0 j), false)
  | .ttrn _ => (transpose xs a.ncols, false)
  | .tgth _ =>
    let idx := k.indices b
    if cols then (transpose (gather (transpose xs a.ncols) a.nrows idx) a.nrows, strays idx a.ncols)
    else (gather xs a.ncols idx, strays idx a.nrows)
  | .tsct _ =>
    let d := k.opTile r.d
    let zs := k.codes d
    let idx := k.indices b
    if cols then
      (transpose (scatter (transpose zs d.ncols) (transpose xs a.ncols) idx) d.nrows, strays idx d.ncols)
    else (scatter zs xs idx, strays idx d.nrows)
  | .tcat _ =>
    let ys := k.codes b
    (if cols then (xs.zip ys).map (fun p => p.1 ++ p.2) else xs ++ ys, false)
  | _ => (xs, false)

/-- The new tiles that a request makes (R326), in the order of its answers; TALLOC and TVIEW make theirs apart. -/
def Core.newTiles (k : Core) (r : Req) : List NewTile :=
  let w := r.t
  let a := k.opTile r.a
  let fa := w.fa.toNat
  let fc := w.fc.toNat
  let spoiled := r.handles.any k.spoils
  let whole (fmt : Nat) (codes : List (List Nat)) (p : Bool) : List NewTile :=
    [{ fmt := fmt, rows := codes.length, cols := (codes.headD []).length, codes := codes, poison := p }]
  match r.instr with
  | .tfill _ =>
    let (nc, nr) := shapeOf r.a
    whole fc (tabulate nr nc (fun _ _ => r.b.toNat % 2 ^ elemBits fc)) false
  | .tcopy x => if x.acc then [] else whole fa (k.codes a) (k.copySpoils x r)
  | .tcvt x => whole fc (k.tcvtCodes a x.acc fc (RMode.ofNat w.tmod.toNat) (BitVec.ofNat 32 r.b.toNat) r.ftag) spoiled
  | .tqnt _ =>
    let (data, scale) := k.tqntCodes a fc (BitVec.ofNat 32 r.b.toNat) (RMode.ofNat w.tmod.toNat)
      (BitVec.ofNat 32 r.d.toNat) r.ftag
    whole fc data spoiled ++ whole 9 scale spoiled
  | .tadd x | .tsub x | .tmul x | .tfma x | .tmin x | .tmax x | .tabs x | .tneg x =>
    if x.acc then [] else whole fc (k.elementwise r) spoiled
  | .tcmp _ => whole 9 (k.elementwise r) spoiled
  | .tsel _ => whole fc (k.elementwise r) spoiled
  | .tpwp _ =>
    let slot := k.kernel r.job w.fb.toNat
    whole fc ((k.codes a).map (·.map (pwElem slot fa fc))) spoiled
  | .tlut _ => whole fc ((k.codes a).map (·.map (fun x => (k.evalTable r.job w.fb.toNat (widen fa x)).1))) spoiled
  | .tred _ => whole fc (k.redTile a w.tmod.toNat fc w.tra) spoiled
  | .tscan _ => whole fc (k.scanTile a w.tmod.toNat fc w.tra) spoiled
  | .tbcst _ | .ttrn _ | .tgth _ | .tcat _ =>
    let (codes, stray) := k.rearranged r
    whole fc codes (spoiled || stray)
  | .tspl _ =>
    let p := z32 r.b
    let xs := k.codes a
    if w.tmod = 1 then whole fc (xs.map (·.take p)) spoiled ++ whole fc (xs.map (·.drop p)) spoiled
    else whole fc (xs.take p) spoiled ++ whole fc (xs.drop p) spoiled
  | _ => []

/-- What an in-place form leaves in its target: every element, and the poison bit (R152, R328). -/
def Core.inPlace (k : Core) (r : Req) : Option (List (List Nat) × Bool) :=
  let spoiled := r.handles.any k.spoils
  match r.instr with
  | .tadd w | .tsub w | .tmul w | .tfma w | .tmin w | .tmax w | .tabs w | .tneg w =>
    if w.acc then some (k.elementwise r, spoiled) else none
  | .tsct _ =>
    let (codes, stray) := k.rearranged r
    some (codes, spoiled || stray)
  | .tset w =>
    let (c, i) := posOf r.b
    let xs := k.codes (k.opTile r.a)
    some (setAt xs i (setAt (xs.getD i []) c (putScalar w.fa.toNat w.acc r.d)), spoiled)
  | _ => none

/-! ## The entry as software reads it (Table 6.4) -/

/-- Code of a tile state. -/
def TileSt.code : TileSt → Nat
  | .free => 0 | .empty => 1 | .pending => 2 | .full => 3 | .freeing => 4

/-- The 128 bits of a tile-table entry. -/
def Tile.word (t : Tile) : Nat :=
  t.gen.toNat * 2 ^ 120 + t.job % 64 * 2 ^ 114 + t.inst % 256 * 2 ^ 106 + t.st.code * 2 ^ 103 + b2n t.poison * 2 ^ 102
    + t.refcnt % 65536 * 2 ^ 86 + b2n t.view * 2 ^ 85 + t.parent % 4096 * 2 ^ 73 + b2n t.scv * 2 ^ 72
    + t.scale % 4096 * 2 ^ 60 + t.fmt % 64 * 2 ^ 54 + t.pitch % 8192 * 2 ^ 41 + t.cols % 2048 * 2 ^ 30
    + t.rows % 2048 * 2 ^ 19 + t.base % 2 ^ 19

/-! ## Acceptance -/

/-- A tile request enters the tile unit (R325): its target is PENDING from now on (R327), and TDESC reads its entry. -/
def State.acceptTile (s : State) (c : Nat) (r : Req) : State :=
  let k := s.core c
  let k1 := match r.target with
    | some h => k.onTile (handleIndex h) (fun t => { t with st := .pending })
    | none => k
  let word := (k.opTile r.a).word
  let value : W64 := match r.instr with
    | .tdesc _ => BitVec.ofNat 64 (if z32 r.b = 0 then word else word / 2 ^ 64)
    | _ => 0
  s.setCore c { k1 with tileReqs := k1.tileReqs ++ [{ req := r, value := value }] }

/-! ## Start -/

/-- Shapes that a request asks the allocator for: format, rows, columns. -/
def Core.asks (k : Core) (r : Req) : List (Nat × Nat × Nat) :=
  match r.instr with
  | .talloc w =>
    let (nc, nr) := shapeOf r.a
    [(w.fc.toNat, nr, nc)]
  | _ => (k.newTiles r).map (fun t => (t.fmt, t.rows, t.cols))

/-- Make the tiles of a list of shapes with these grants, in order; none unless every grant is good. -/
def Core.makeAll (k : Core) (clock job inst : Nat) (st : TileSt) :
    List (Nat × Nat × Nat) → List TileGrant → Option (Core × List Nat)
  | [], [] => some (k, [])
  | (fmt, rows, cols) :: shapes, g :: gs =>
    if k.grantOk g rows (minPitch fmt cols) then
      match Core.makeAll (k.makeTile g clock job inst fmt rows cols st) clock job inst st shapes gs with
      | some (k1, is) => some (k1, g.index :: is)
      | none => none
    else none
  | _, _ => none

/-- The allocator could serve every shape now. -/
def Core.hasRoom (k : Core) : List (Nat × Nat × Nat) → Bool
  | [] => true
  | (fmt, rows, cols) :: shapes =>
    match k.firstFit rows (minPitch fmt cols) with
    | some g => Core.hasRoom (k.makeTile g 0 0 0 fmt rows cols .pending) shapes
    | none => false

/-- A request of the tile unit needs an entry or space before it can start. -/
def Req.producing (r : Req) : Bool :=
  match r.instr with
  | .talloc _ | .tview _ | .tfill _ | .tcvt _ | .tqnt _ | .tcmp _ | .tsel _ | .tpwp _ | .tlut _ | .tred _ | .tscan _
  | .tbcst _ | .ttrn _ | .tgth _ | .tspl _ | .tcat _ => true
  | .tcopy w | .tadd w | .tsub w | .tmul w | .tfma w | .tmin w | .tmax w | .tabs w | .tneg w => !w.acc
  | _ => false

/-- The request waits for an entry or for space that is not there (R148). -/
def Core.starved (k : Core) (r : Req) : Bool :=
  r.producing && (match r.instr with | .tview _ => k.freeEntry.isNone | _ => !k.hasRoom (k.asks r))

/-- The request makes a tile, in whatever unit (R148, R326). -/
def Req.makes (r : Req) : Bool :=
  match r.instr with
  | .mma w | .mmas w | .mmaw w | .mmax w => !w.acc
  | .tld _ | .tldi _ => true
  | _ => r.producing

/-- A request for a tile that began to wait before the one numbered `id` has not been granted: requests are granted in arrival
order per core (R148). Shipped tiles, walkers and emissions have no number of their own, and take one when they begin to wait. -/
def State.queuedBefore (s : State) (c id : Nat) : Bool :=
  let k := s.core c
  let before (asked : Option Nat) : Bool := match asked with | some n => decide (n < id) | none => false
  ((k.tileReqs.filter (fun q => !q.started)).map (·.req) ++ (k.mmaReqs.filter (fun q => !q.started)).map (·.req)
    ++ (s.memReqs.filter (fun m => !m.begun && s.devCore m.req.job m.req.core == some c)).map (·.req)).any (fun q =>
      decide (q.id < id) && q.makes && s.tileReady c q)
    || k.walkers.any (fun p => before p.2.asked)
    || k.accs.any (fun a => a.held.any (fun x => x.made.isNone && before x.asked))
    || s.mesh.any (fun m => before m.asked && s.devCore m.job m.dst == some c)

/-- An older request of the core waits for a tile. -/
def State.queuedAhead (s : State) (c : Nat) (r : Req) : Bool := s.queuedBefore c r.id

/-- The request is TFREE, which no unit starts (R332). -/
def Req.frees (r : Req) : Bool :=
  match r.instr with
  | .tfree _ => true
  | _ => false

/-- The vector unit may start this request next (R325, R326): it is ready, and every older ready request waits for space,
behind which no producing request passes. -/
def State.mayStart (s : State) (c : Nat) (r : Req) : Bool :=
  let k := s.core c
  s.tileReady c r && !(r.makes && s.queuedAhead c r) &&
    (k.tileReqs.filter (fun q => !q.started && decide (q.req.id < r.id) && !q.req.frees)).all (fun q =>
      !s.tileReady c q.req || (k.starved q.req && !r.producing))

/-- Put rows of codes in new tiles, in order. -/
def Core.fillAll (k : Core) : List Nat → List NewTile → Core
  | i :: is, t :: ts =>
    Core.fillAll ((k.putCodes (k.tile i) t.codes).onTile i (fun x => { x with poison := t.poison })) is ts
  | _, _ => k

/-- The view that TVIEW makes (R334). -/
def Core.makeView (k : Core) (r : Req) (i : Nat) : Core :=
  let a := k.opTile r.a
  let (col, row) := posOf r.b
  let (nc, nr) := shapeOf r.d
  let parent := if a.view then a.parent else handleIndex r.a
  let k1 := k.setTile i
    { gen := (k.tile i).gen, job := r.job, inst := r.inst, st := .pending, refcnt := 1, view := true, parent := parent,
      fmt := r.t.fc.toNat, pitch := a.pitch, cols := nc - 1, rows := nr - 1,
      base := a.base + row * a.pitch + col * elemBits a.fmt / 512, poison := k.spoils r.a }
  k1.retain parent

/-- Attach a scale tile to a tile, with a reference on it (R150). -/
def Core.attach (k : Core) (i scale : Nat) : Core :=
  (k.onTile i (fun t => { t with scv := true, scale := scale })).retain scale

/-- What a started request does to the tiles and to its own record, with the tiles it was granted. -/
def Core.performTile (k : Core) (r : Req) (made : List Nat) : Core × W64 × Bool :=
  let news := k.newTiles r
  let place (h : W64) (x : List (List Nat) × Bool) : Core :=
    (k.putCodes (k.opTile h) x.1).onTile (handleIndex h) (fun t => { t with poison := x.2 })
  match r.instr with
  | .tget w =>
    let a := k.opTile r.a
    let (c, i) := posOf r.b
    (k, (getScalar w.fa.toNat w.acc (at2 (k.codes a) i c)).2, k.spoils r.a)
  | .tcopy w =>
    if w.acc then
      let i := handleIndex r.a
      let a := k.tile i
      let p := k.copySpoils w r
      if w.b = Spec.zero then (k.onTile i (fun t => { t with poison := p }), 0, p)
      else
        let k1 := if a.scv then k.release a.scale else k
        ((k1.attach i (handleIndex r.b)).onTile i (fun t => { t with poison := p }), 0, p)
    else
      let k1 := k.fillAll made news
      let a := k.opTile r.a
      let i := made.headD 0
      let p := news.any (·.poison)
      if w.b = Spec.zero then (if a.scv then k1.attach i a.scale else k1, 0, p) else (k1.attach i (handleIndex r.b), 0, p)
  | .tqnt _ =>
    let k1 := k.fillAll made news
    let i := made.headD 0
    let j := made.getD 1 0
    -- the scale tile's one reference is the one held through SCV (R338)
    ((k1.onTile i (fun t => { t with scv := true, scale := j })).onTile j (fun t => { t with st := .full }), 0,
      news.any (·.poison))
  | _ =>
    match r.target, k.inPlace r with
    | some h, some x => (place h x, 0, x.2)
    | _, _ => (k.fillAll made news, 0, news.any (·.poison))

/-- A tile request starts with the tiles it is granted (R325): its result is formed from its sources as they stand, in
tiles that stay PENDING until it is done. -/
def State.startTile (s : State) (c rid : Nat) (gs : List TileGrant) : State :=
  let k := s.core c
  match k.tileReqs.find? (fun q => q.req.id == rid && !q.started) with
  | none => s
  | some q =>
    let r := q.req
    if !s.mayStart c r then s
    else
      let begin (k1 : Core) (made : List Nat) (value : W64) (poison : Bool) : State :=
        s.setCore c { k1 with tileReqs := k1.tileReqs.map (fun x =>
          if x.req.id = rid then { x with started := true, made := made, value := value, poison := poison } else x) }
      match r.instr with
      | .talloc _ =>
        match k.makeAll s.clock r.job r.inst .empty (k.asks r) gs with
        | some (k1, made) => begin k1 made 0 false
        | none => s
      | .tview _ =>
        match gs with
        | [g] =>
          if decide (g.index < 4096) && (k.tile g.index).st == .free then
            begin (k.makeView r g.index) [g.index] 0 (k.spoils r.a)
          else s
        | _ => s
      | .tdesc _ => begin k [] q.value false
      | .tfree _ => s
      | _ =>
        match k.makeAll s.clock r.job r.inst .pending (k.asks r) gs with
        | some (k1, made) =>
          let touched := k1.touchOperands r s.clock
          let (k2, value, poison) := touched.performTile r made
          begin k2 made value poison
        | none => s

/-! ## Done -/

/-- The formats that a request meets in its operand tiles; those that it names passed R37's check at CODE.LOAD. -/
def State.metFormats (s : State) (c : Nat) (r : Req) : List Nat :=
  r.handles.map (fun h => (s.tileOf c h).fmt)

/-- In proof service, a format outside Table 2.6 poisons the result and raises SERVICE_LIMIT (R37, R328). -/
def State.serviceCheck (s : State) (c : Nat) (r : Req) : State × Bool :=
  if s.proof then
    match (s.metFormats c r).find? (fun f => !fmtProof f) with
    | some f => (s.serviceLimit r.job r.inst f, true)
    | none => (s, false)
  else (s, false)

/-- Release the references that a request holds on its operands, but not on those in `keep` (R150). -/
def Core.releaseOperands (k : Core) (r : Req) (keep : List W64) : Core :=
  (r.handles.filter (fun h => !keep.contains h)).foldl (fun k h => k.releaseHandle r.core r.job h) k

/-- Release what a contribution holds: both operands, or A alone once it has been added (R347). -/
def Core.releaseHeld (k : Core) (x : Contribution) : Core :=
  if x.mark then k else if x.asked.isSome then k.releaseHandle x.req.core x.req.job x.req.a else k.releaseOperands x.req []

/-- Another unfinished in-place request waits on this target. -/
def Core.stillWritten (k : Core) (h : W64) : Bool :=
  k.tileReqs.any (fun q => q.req.target == some h) || k.mmaReqs.any (fun q => q.req.target == some h)

/-- The answer's type and value of a scalar form (R333, R345). -/
def Req.scalarType (r : Req) : Nat :=
  match r.instr with
  | .tdesc _ => 1
  | .tget w => (getScalar w.fa.toNat w.acc 0).1
  | _ => 0

/-- Answer a request that wrote a tile in place (R327): the last one of its commit with the handle, an earlier one with
CTRL. The target is FULL unless another write waits, or its count has reached 0 meanwhile (Table 6.5). -/
def State.finishInPlace (s : State) (c : Nat) (r : Req) (h : W64) (poison : Bool) (src : Nat := 128) : State :=
  let s1 := s.onCore c (fun k =>
    let k1 := if k.stillWritten h then k else k.onTile (handleIndex h) Tile.written
    k1.releaseOperands r (if r.notLast then [] else [h]))
  if r.notLast then s1.answerFrom src r 0 0 poison else s1.answerFrom src r 12 h poison

/-- Answer a request with its new tiles (R326, R344): FULL, each with its one reference. -/
def State.finishNew (s : State) (c : Nat) (r : Req) (made : List Nat) (spoiled : Bool) (src : Nat := 128) : State :=
  let s1 := s.onCore c (fun k =>
    (made.foldl (fun k i => k.onTile i (fun t => { t.written with poison := t.poison || spoiled })) k).releaseOperands r [])
  match r.instr, made with
  | .tspl _, [i, j] =>
    let k := s1.core c
    let send (t : State) (n port : Nat) : State :=
      t.deliver (4096 + r.id) ({ r with cport := port }.token t.devnum 12 (k.handle r.core n) (k.tile n).poison)
    send (send s1 i r.cport) j 1
  | _, i :: _ => s1.answerFrom src r 12 ((s1.core c).handle r.core i) ((s1.core c).tile i).poison
  | _, [] => s1

/-- A started tile request is done: its answer is sent, and its references are released (R325). -/
def State.doneTile (s : State) (c rid : Nat) : State :=
  let k := s.core c
  match takeFirst (fun q => q.req.id == rid && q.started) k.tileReqs with
  | none => s
  | some (q, rest) =>
    let r := q.req
    let (s1, limited) := (s.setCore c { k with tileReqs := rest }).serviceCheck c r
    match r.instr, r.target with
    | .tdesc _, _ =>
      (s1.onCore c (fun k => k.releaseOperands r [])).answer r 1 q.value limited
    | .tget _, _ => (s1.onCore c (fun k => k.releaseOperands r [])).answer r r.scalarType q.value (q.poison || limited)
    | _, some h =>
      let s2 := if limited then s1.onCore c (fun k => k.onTile (handleIndex h) (fun t => { t with poison := true })) else s1
      s2.finishInPlace c r h ((s2.tileOf c h).poison)
    | _, none => s1.finishNew c r q.made limited

/-! ## Freeing (R148, R332) -/

/-- No accepted operation on the tile is unfinished, TFREE apart, and no copy of it is leaving the core. Of the contributions to the
tile itself only one whose addition or emission has begun counts: those held are discarded when the tile is FREE (R349). -/
def State.tileIdle (s : State) (c i : Nat) : Bool :=
  let k := s.core c
  let names (h : W64) : Bool := handleIndex h == i && bits h.toNat 56 8 == (k.tile i).gen.toNat
  (s.unitWork c).all (fun r => !r.handles.any names)
    && k.accs.all (fun a => a.held.all (fun x =>
        if a.isTile && names (BitVec.ofNat 64 a.name) then !x.started else !(x.reads && x.req.handles.any names)))
    && s.mesh.all (fun m => match m.what with
        | .tile t none => !(s.devCore m.job m.src == some c && names t.w2)
        | _ => true)

/-- A FREEING entry whose operations have finished becomes FREE; accumulators on it end, and TFREEs of it answer. -/
def State.freeEntryNow (s : State) (c i : Nat) : State :=
  let k := s.core c
  let t := k.tile i
  if t.st == .freeing && s.tileIdle c i then
    let mine (q : TileReq) : Bool := match q.req.instr with
      | .tfree _ => handleIndex q.req.a == i && bits q.req.a.toNat 56 8 == t.gen.toNat
      | _ => false
    let ended := k.accs.filter (fun a => a.isTile && handleIndex (BitVec.ofNat 64 a.name) == i)
    let k1 := { k with
      accs := k.accs.filter (fun a => !(a.isTile && handleIndex (BitVec.ofNat 64 a.name) == i))
      tileReqs := k.tileReqs.filter (fun q => !mine q) }
    let k2 := (ended.flatMap (fun a => a.held)).foldl (fun k x => k.releaseHeld x) k1
    let s1 := s.setCore c (k2.freeTile i)
    (k.tileReqs.filter mine).foldl (fun t q => t.answerCtrl q.req false) s1
  else s

end Sys2Proof.Machine
end

