-- ==== Sys2Proof/Machine/MmaReqs.lean ====
section
/-! DEFINITION. The matrix array (R164, R165, R351 to R356): the shape of a product, each output cell, the metadata of the
compressed operand, and how a matrix request waits, starts and finishes. -/

namespace Sys2Proof.Machine

/-! ## Operands (R351, R352, R354) -/

/-- The summation group of a pair of formats (Table 8.11); 0 for the FP32 chain. -/
def mmaGroup (fa fb : Nat) : Nat :=
  if fa = 0 then 0
  else if fa = 0x12 || fb = 0x12 then 16
  else if fa = 1 || fa = 2 || fb = 1 || fb = 2 then 16
  else 32

/-- The request's compressed operand is A (MMAS). -/
def Req.compressed (r : Req) : Bool :=
  match r.instr with
  | .mmas _ => true
  | _ => false

/-- Rows and logical columns of an operand, which is stored transposed under its transpose bit. -/
def matShape (t : Tile) (tr : Bool) : Nat × Nat := if tr then (t.ncols, t.nrows) else (t.nrows, t.ncols)

/-- M, K of A, N and K of B. -/
def Core.mmaDims (k : Core) (r : Req) : Nat × Nat × Nat × Nat :=
  let (m, ka) := matShape (k.opTile r.a) r.t.tra
  let (n, kb) := matShape (k.opTile r.b) r.t.trb
  (m, if r.compressed then 2 * ka else ka, n, kb)

/-- The block size along K that an operand's scales call for: 1 where they call for none, or where the tile is misshapen
and calls for none that could be read. -/
def Core.blockOfK (k : Core) (t : Tile) : Nat :=
  if decide (0x0C ≤ t.fmt) && decide (t.fmt ≤ 0x12) then scaleBlock t.fmt
  else if decide (0x13 ≤ t.fmt) then
    match k.scaleOf t with
    | some sc => (groupSize t.fmt t.ncols sc.ncols).getD 1
    | none => 1
  else 1

/-- The shapes of a product agree (R351). -/
def Core.mmaShapes (k : Core) (r : Req) : Bool :=
  let (m, ka, n, kb) := k.mmaDims r
  let g := max 1 (mmaGroup r.t.fa.toNat r.t.fb.toNat)
  decide (m ≤ 128) && decide (n ≤ 128) && ka == kb && decide (ka ≤ 2048) && ka % g == 0
    && ka % k.blockOfK (k.opTile r.a) == 0 && ka % k.blockOfK (k.opTile r.b) == 0
    && (!r.t.acc || ((k.opTile r.d).nrows == m && (k.opTile r.d).ncols == n))

/-- The integer path (R353). -/
def Core.intPath (k : Core) (r : Req) : Bool :=
  fmtInt r.t.fa.toNat && fmtInt r.t.fb.toNat && !(k.opTile r.a).scv && !(k.opTile r.b).scv

/-- The metadata tile of A has the shape and the format of R354. -/
def Core.metaFits (k : Core) (t : Tile) : Bool :=
  match k.scaleOf t with
  | some x => x.fmt == 9 && x.rows == t.rows && 4 * x.ncols == t.ncols
  | none => false

/-- The metadata nibble of group `j` of a row. -/
def metaNib (row : List Byte) (j : Nat) : Nat := bits (recNat row (j / 2) 1) (if j % 2 = 0 then 0 else 4) 4

/-- A nibble's two positions rise. -/
def nibLegal (n : Nat) : Bool := decide (bits n 0 2 < bits n 2 2)

/-- Expand one compressed row: four elements for each two (R354). -/
def expandRow (row : List Byte) (xs : List Nat) : List Nat :=
  (List.range (xs.length / 2)).flatMap (fun j =>
    let n := metaNib row j
    (List.range 4).map (fun p =>
      if !nibLegal n then 0
      else if p = bits n 0 2 then xs.getD (2 * j) 0
      else if p = bits n 2 2 then xs.getD (2 * j + 1) 0
      else 0))

/-- The metadata row of row `m` of A; zeros where A is misshapen. -/
def Core.metaRow (k : Core) (t : Tile) (m : Nat) : List Byte :=
  match k.scaleOf t with
  | some x => k.row x m
  | none => []

/-- The illegal groups of A, rows rising and groups within a row rising: row and group. -/
def Core.badGroups (k : Core) (r : Req) : List (Nat × Nat) :=
  let t := k.opTile r.a
  if r.compressed && k.metaFits t then
    (List.range t.nrows).flatMap (fun m =>
      ((List.range (t.ncols / 2)).filter (fun j => !nibLegal (metaNib (k.metaRow t m) j))).map (fun j => (m, j)))
  else []

/-- Element codes of A by rows of K. -/
def Core.matA (k : Core) (r : Req) : List (List Nat) :=
  let t := k.opTile r.a
  let xs := k.codes t
  if r.compressed then (xs.zipIdx).map (fun (x, m) => expandRow (k.metaRow t m) x)
  else if r.t.tra then transpose xs t.ncols
  else xs

/-- Element codes of B, by its N columns, each over K. -/
def Core.matB (k : Core) (r : Req) : List (List Nat) :=
  let t := k.opTile r.b
  if r.t.trb then transpose (k.codes t) t.ncols else k.codes t

/-! ## Cells -/

/-- The group sums of one cell from K element `k0` on: values of A's row and of B's column there, with the factors at a group's
first K (R217); or the FP32 chain (R218). -/
def floatCell (g k0 acc : Nat) (a b : List Val) (fa fb : Nat → Val) : Nat :=
  let xs := a.zip b
  if g = 0 then xs.foldl (fun acc p => rneFp32 (fmaVal p.1 p.2 (FloatFmt.fp32.val acc) false).1) acc
  else ((blocksOf g xs).zipIdx).foldl (fun acc (blk, j) =>
    let ps := blk.map (fun p => (mulVal p.1 p.2).1)
    let s := (ps.drop 1).foldl (fun s p => (addVal s p false).1) (ps.headD (.zero false))
    addFp32 acc (FloatFmt.fp32.val (rneFp32 (timesFactor (timesFactor s (fa (k0 + j * g))) (fb (k0 + j * g)))))) acc

/-- The exact values of a row of an operand, its zero points applied. -/
def Core.matVals (k : Core) (t : Tile) (tr : Bool) (r : Nat) (xs : List Nat) : List Val :=
  (xs.zipIdx).map (fun (x, c) => elemVal t.fmt x (if tr then 0 else (k.factor t r c).2))

/-- The factor of an operand's row at column `c`: 1 for MMAS's A, whose attached tile is its metadata, and for an operand without
scales. One that is stored transposed and has scales is misshapen (R351): the result is poisoned, and the rules give no factor, which is
a free value as for any misshapen tile (log entry 31). -/
def Core.matFactor (k : Core) (t : Tile) (plain tr : Bool) (r c : Nat) : Val :=
  if plain then intVal 1
  else if tr && t.scaled then FloatFmt.fp32.val (Config.freeFactor t.gen.toNat t.base r c).toNat
  else if tr then intVal 1
  else (k.factor t r c).1

/-- The accumulator with the K elements from `k0` up to `k1` added to it (R217, R218). -/
def Core.mmaSum (k : Core) (r : Req) (start : List (List Nat)) (k0 k1 : Nat) : List (List Nat) :=
  let w := r.t
  let a := k.opTile r.a
  let b := k.opTile r.b
  let xs := k.matA r
  let ys := k.matB r
  let span {α : Type} (zs : List α) : List α := (zs.take k1).drop k0
  if k.intPath r then
    (xs.zipIdx).map (fun (x, m) => (ys.zipIdx).map (fun (y, n) =>
      wrapInt 32 ((span (x.zip y)).foldl (fun s p => s + intElem a.fmt p.1 * intElem b.fmt p.2) (sext 32 (at2 start m n)))))
  else
    let pa := w.tra || r.compressed
    let fa (m : Nat) : Nat → Val := k.matFactor a r.compressed w.tra m
    let fb (n : Nat) : Nat → Val := k.matFactor b false w.trb n
    let g := mmaGroup w.fa.toNat w.fb.toNat
    let va := (xs.zipIdx).map (fun (x, m) => span (k.matVals a pa m x))
    let vb := (ys.zipIdx).map (fun (y, n) => span (k.matVals b w.trb n y))
    (va.zipIdx).map (fun (x, m) => (vb.zipIdx).map (fun (y, n) =>
      floatCell g k0 (at2 start m n) x y (fa m) (fb n)))

/-- The result's elements from the accumulator: a narrower C format rounds once (R217). -/
def Core.mmaOut (k : Core) (r : Req) (acc : List (List Nat)) : List (List Nat) :=
  if k.intPath r || r.t.fc = 0 then acc
  else acc.map (·.map (fun x => (roundTo (hFmt r.t.fc.toNat) (FloatFmt.fp32.val x) .rne false 0).1))

/-- The accumulator as a matrix request finds it: C, or zeros. -/
def Core.mmaStart (k : Core) (r : Req) : List (List Nat) := if r.t.acc then k.codes (k.opTile r.d) else []

/-- K of a product. -/
def Core.mmaK (k : Core) (r : Req) : Nat := (k.mmaDims r).2.1

/-- The result's elements (R353). -/
def Core.mmaCodes (k : Core) (r : Req) : List (List Nat) := k.mmaOut r (k.mmaSum r (k.mmaStart r) 0 (k.mmaK r))

/-- K elements between two stop points (R164). -/
def Req.stopK (r : Req) : Nat := let g := mmaGroup r.t.fa.toNat r.t.fb.toNat; if g = 0 then 4 else g

/-- The accumulator of a request after `n` groups, from where it last stood (R120). -/
def Core.mmaAt (k : Core) (q : TileReq) (n : Nat) : List (List Nat) :=
  k.mmaSum q.req (if q.group = 0 then k.mmaStart q.req else q.partials) (q.group * q.req.stopK) (n * q.req.stopK)

/-- A started request is stopped at a group boundary, which a free draw names among those that it may have reached: it records its
group index and its partial accumulator (R117, R120). -/
def Core.mmaStop (k : Core) (q : TileReq) (draw : Nat) : TileReq :=
  let total := cdiv (k.mmaK q.req) q.req.stopK
  let n := q.group + (Config.freeWord draw).toNat % (total - q.group + 1)
  if q.started then { q with group := n, partials := k.mmaAt q n } else q

/-- The elements that a request writes: what is left of its sum is added (R120). -/
def Core.mmaFinish (k : Core) (q : TileReq) : List (List Nat) :=
  k.mmaOut q.req (k.mmaAt q (cdiv (k.mmaK q.req) q.req.stopK))

/-- The result is poisoned (R200, R202, R328, R354, R355): by an operand or what is attached to it, by a misshapen
operand, by an illegal group, or by the reserved ternary code. -/
def Core.mmaPoison (k : Core) (r : Req) : Bool :=
  let a := k.opTile r.a
  let b := k.opTile r.b
  let w := r.t
  r.handles.any (fun h => k.tilePoison (k.opTile h))
    || (if r.compressed then !k.metaFits a else k.misshapen a || (w.tra && a.scaled))
    || k.misshapen b || (w.trb && b.scaled)
    || !(k.badGroups r).isEmpty
    || (b.fmt == 0x1B && (k.codes b).any (·.any (· == 2)))

/-! ## The queue -/

/-- Requests that the matrix queue holds (R164). -/
def mmaEntries : Nat := 32

/-- A matrix request enters the queue, if there is room: its C tile is PENDING from now on (R327). -/
def State.acceptMma (s : State) (c : Nat) (r : Req) : Option State :=
  let k := s.core c
  if decide (k.mmaReqs.length < mmaEntries) then
    let k1 := match r.target with
      | some h => k.onTile (handleIndex h) (fun t => { t with st := .pending })
      | none => k
    some (s.setCore c { k1 with mmaReqs := k1.mmaReqs ++ [{ req := r }] })
  else none

/-- The request makes a new tile: its format and shape. -/
def Core.mmaAsks (k : Core) (r : Req) : List (Nat × Nat × Nat) :=
  let (m, _, n, _) := k.mmaDims r
  if r.t.acc then [] else [(r.t.fc.toNat, m, n)]

/-- The array may start this request (R164): it is the oldest that is ready, and one of the two accumulator sets is free. -/
def State.mmaMayStart (s : State) (c : Nat) (r : Req) : Bool :=
  let k := s.core c
  s.tileReady c r && !(r.makes && s.queuedAhead c r) && decide ((k.mmaReqs.filter (·.started)).length < 2)
    && (k.mmaReqs.filter (fun q => !q.started && decide (q.req.id < r.id))).all (fun q => !s.tileReady c q.req)

/-- The matrix requests of a job stop at a group boundary (R117): the draws name it. -/
def State.stopMmas (s : State) (j c : Nat) : State :=
  let k := s.core c
  { s.setCore c { k with mmaReqs := (k.mmaReqs.zipIdx).map (fun (q, i) => if q.req.job = j then k.mmaStop q (s.draws + i) else q) } with
    draws := s.draws + k.mmaReqs.length }

/-- A matrix request starts, with the grant for its new tile. -/
def State.startMma (s : State) (c rid : Nat) (gs : List TileGrant) : State :=
  let k := s.core c
  match k.mmaReqs.find? (fun q => q.req.id == rid && !q.started) with
  | none => s
  | some q =>
    if (s.job q.req.job).halted || !s.mmaMayStart c q.req then s
    else
      match k.makeAll s.clock q.req.job q.req.inst .pending (k.mmaAsks q.req) gs with
      | none => s
      | some (k1, made) =>
        let k2 := k1.touchOperands q.req s.clock
        let (s1, turn) := s.fresh
        s1.setCore c { k2 with mmaReqs := k2.mmaReqs.map (fun x =>
          if x.req.id = rid then { x with started := true, made := made, turn := turn } else x) }

/-- SPARSE_META (R354, Table 3.13): the instance, the result's handle, the lowest row with an illegal group, and its lowest group. -/
def State.sparseMeta (s : State) (c : Nat) (r : Req) (h : W64) : State :=
  match ((s.core c).badGroups r).head? with
  | some (m, g) => s.event 0x0009 r.job (natLe 4 (s.instId r.job r.inst) ++ natLe 8 h.toNat ++ natLe 2 m ++ natLe 2 g)
  | none => s

/-- A residue mismatch (R165): counted at the core's site, which is marked for retirement. -/
def State.residueBad (s : State) (c : Nat) : State :=
  (s.onEcnt (siteOf s.hkc.skip c) (fun e => { e with resid := sat16 e.resid })).markRetire c 0

/-- Another matrix request of the core started earlier, and goes on: the array finishes them in the order in which it starts them (R164). -/
def State.mmaBehind (s : State) (c : Nat) (q : TileReq) : Bool :=
  (s.core c).mmaReqs.any (fun x => x.started && decide (x.turn < q.turn) && !(s.job x.req.job).halted)

/-- The started matrix request that is next to finish writes its accumulator and answers; none of a halted job does (R117). -/
def State.doneMma (s : State) (c rid : Nat) (residueOk : Bool) : State :=
  let k := s.core c
  match takeFirst (fun q => q.req.id == rid && q.started) k.mmaReqs with
  | none => s
  | some (q, rest) =>
    if (s.job q.req.job).halted || s.mmaBehind c q then s else
    let r := q.req
    let h := match r.target with
      | some h => h
      | none => k.handle r.core (q.made.headD 0)
    let codes := k.mmaFinish q
    let s1 := ((s.setCore c { k with mmaReqs := rest }).progress r.job r.inst).sparseMeta c r h
    let s2 := if residueOk then s1 else s1.residueBad c
    let (s3, limited) := s2.serviceCheck c r
    let poison := k.mmaPoison r || limited || !residueOk
    let s4 := s3.onCore c (fun k =>
      ((k.touchTile (k.opTile h) s.clock).putCodes (k.opTile h) codes).onTile (handleIndex h) (fun t => { t with poison := poison }))
    match r.target with
    | some _ => s4.finishInPlace c r h poison arraySrc
    | none => s4.finishNew c r q.made false arraySrc

end Sys2Proof.Machine
end

