-- ==== Sys2Proof/Machine/AccReqs.lean ====
section
/-! DEFINITION. Accumulators (R166, R346 to R350): a contribution's way into the reorder window, the additions in tag
order, and the emissions. -/

namespace Sys2Proof.Machine

/-- States and window units of a core (R346, R347). -/
def accStates : Nat := 64
/-- Window units. -/
def accUnits : Nat := 256

/-- The contribution is a tile's (RACC). -/
def Req.isRacc (r : Req) : Bool :=
  match r.instr with
  | .racc _ => true
  | _ => false

/-- The accumulator that a contribution names: by its tile, or by the frame and a key (R346). -/
def Req.accNames (r : Req) (a : AccState) : Bool :=
  a.job == r.job && a.isTile == r.isRacc
    && (if r.isRacc then a.name == r.a.toNat else a.name == r.frame && a.key == z32 r.b)

/-- The contribution's DIM is at or above its level (R347). -/
def Req.emits (r : Req) : Bool := decide (r.t.tmod.toNat ≤ r.dim)

/-- Window units in use. -/
def Core.unitsUsed (k : Core) : Nat :=
  k.accs.foldl (fun n a => n + a.held.foldl (fun m x => m + x.units) 0) 0

/-- A tag is held. -/
def AccState.holds (a : AccState) (t : W32) : Bool := a.held.any (fun x => !x.fresh && x.req.tag == t)

/-- The tag after the run of held contributions that are to be added at once: at most `n` of them. -/
def AccState.nextTag (a : AccState) (t : W32) : Nat → W32
  | 0 => t
  | n + 1 => if a.holds t then AccState.nextTag a (t + 1) n else t

/-- Change the accumulator that a contribution names. -/
def Core.onAcc (k : Core) (r : Req) (f : AccState → AccState) : Core :=
  { k with accs := k.accs.map (fun a => if r.accNames a then f a else a) }

/-- Poison the running sum: A's tile for RACC. -/
def Core.poisonSum (k : Core) (r : Req) : Core :=
  if r.isRacc then k.onTile (handleIndex r.a) (fun t => { t with poison := true })
  else k.onAcc r (fun a => { a with poison := true })

/-- The next contribution of an accumulator: the one with the expected tag. -/
def AccState.front (a : AccState) : Option Contribution := a.held.find? (fun x => !x.fresh && x.req.tag == a.expected)

/-- Window units that a contribution takes where it is held. -/
def Req.units (r : Req) : Nat := if r.isRacc then 4 else 1

/-- The tag of a contribution is behind the expected one, or held already (R347). -/
def AccState.refuses (a : AccState) (r : Req) : Bool := decide (2 ^ 31 ≤ (r.tag - a.expected).toNat) || a.holds r.tag

/-- A contribution is discarded: the running sum is poisoned, and it is answered. A mark has had its answer. -/
def State.discardAdd (s : State) (c : Nat) (r : Req) (mark : Bool) : State :=
  let k := (s.core c).poisonSum r
  if mark then s.setCore c k else (s.setCore c (k.releaseOperands r [])).answerCtrl r true

/-- A new accumulator state for a contribution (R346). -/
def Req.newAcc (r : Req) : AccState :=
  { job := r.job, inst := r.inst, isTile := r.isRacc, name := if r.isRacc then r.a.toNat else r.frame,
    key := if r.isRacc then 0 else z32 r.b, expected := BitVec.ofNat 32 (z32 r.d), sum := 0, poison := false, held := [] }

/-- A contribution reaches its accumulator in commit order (R346, R347); none where it must wait for a state or for the
window. One that comes while an addition is under way is handled after it. -/
def State.contribute (s : State) (c : Nat) (r : Req) (mark : Bool) : Option State :=
  let k := s.core c
  let k? : Option (Core × AccState) :=
    match k.accs.find? r.accNames with
    | some a => some (k, a)
    | none => if decide (k.accs.length < accStates) then some ({ k with accs := k.accs ++ [r.newAcc] }, r.newAcc) else none
  match k? with
  | none => none
  | some (k1, a) =>
    let fits := decide (k1.unitsUsed + r.units ≤ accUnits)
    let put (x : Contribution) : Option State := some (s.setCore c (k1.onAcc r (fun a => { a with held := a.held ++ [x] })))
    if a.front.isSome then
      (if fits || r.tag == a.nextTag a.expected a.held.length then put { req := r, mark := mark, fresh := true } else none)
    else if a.refuses r then some ((s.setCore c k1).discardAdd c r mark)
    else if r.tag == a.expected then put { req := r, mark := mark }
    else if fits then put { req := r, units := r.units, mark := mark }
    else none

/-- The addition of a contribution begins (R347, R349): it carries the expected tag, its tile is ready, and nothing else
writes A, which is PENDING while elements are added. Once a closing RACC has been added, its emission is granted a tile here, in
arrival order with the core's other requests. -/
def State.startAdd (s : State) (c rid : Nat) (gs : List TileGrant) : State :=
  let k := s.core c
  match k.accs.find? (fun a => match a.front with | some x => x.req.id == rid && !x.started | none => false) with
  | none => s
  | some a =>
    match a.front with
    | none => s
    | some x =>
      let r := x.req
      let change (k : Core) (f : Contribution → Contribution) : State :=
        s.setCore c (k.onAcc r (fun a => { a with held := a.held.map (fun y => if y.req.id = rid then f y else y) }))
      match x.asked with
      | none =>
        let ready := if r.isRacc then s.tileReady c r && (k.opTile r.a).st != .pending && (x.mark || (k.opTile r.b).st != .pending)
          else true
        if !ready then s
        else
          let k1 := if r.isRacc && !x.mark then
              (k.touchOperands r s.clock).onTile (handleIndex r.a) (fun t => { t with st := .pending })
            else k
          change k1 (fun y => { y with started := true })
      | some id =>
        let t := k.opTile r.a
        if x.made.isSome || s.queuedBefore c id then s
        else
          match k.makeAll s.clock r.job r.inst .pending [(r.t.fc.toNat, t.nrows, t.ncols)] gs with
          | none => s
          | some (k1, made) => change k1 (fun y => { y with started := true, made := made.head? })

/-- The exact value of a scalar contribution: FP32 or BF16 (R347). -/
def Req.scalarVal (r : Req) : Val :=
  if r.t.fa = 0 then FloatFmt.fp32.val (z32 r.a) else FloatFmt.bf16.val (bits r.a.toNat 0 16)

/-- A's new elements: RNE_FP32 of the sum, element by element. -/
def Core.addTile (k : Core) (r : Req) : List (List Nat) :=
  ((k.codes (k.opTile r.a)).zip (k.scaledVals (k.opTile r.b))).map (fun p =>
    (p.1.zip p.2).map (fun q => addFp32 q.1 q.2))

/-- The running sum with the contribution added; a mark adds nothing and poisons it (R350). -/
def Core.addNow (k : Core) (r : Req) (mark : Bool) : Core :=
  let k1 := if mark || (r.isRacc && k.spoils r.b) then k.poisonSum r else k
  if mark then k1
  else if r.isRacc then k1.putCodes (k1.opTile r.a) (k.addTile r)
  else k1.onAcc r (fun a => { a with sum := BitVec.ofNat 32 (addFp32 a.sum.toNat r.scalarVal) })

/-- An emission's elements, rounded once (R348). -/
def emitCodes (fc : Nat) (rows : List (List Nat)) : List (List Nat) :=
  if fc = 0 then rows else rows.map (·.map (fun x => (floatToFloat (hFmt fc) (FloatFmt.fp32.val x) .rne false 0).1))

/-- The emission (R348): the closing contribution is answered with the sum, and the sum is reset. -/
def State.emitAcc (s : State) (c : Nat) (r : Req) (made : Option Nat) : State :=
  let k := s.core c
  if r.isRacc then
    match made with
    | none => s
    | some i =>
      let h := handleIndex r.a
      let t := k.tile h
      let rows := k.codes t
      let k0 := (k.touchTile t s.clock).touchTile (k.tile i) s.clock
      let k1 := (k0.putCodes (k0.tile i) (emitCodes r.t.fc.toNat rows)).onTile i (fun x =>
        { x.written with poison := x.poison || t.poison })
      let k2 := (k1.putCodes t (rows.map (·.map (fun _ => 0)))).onTile h (fun x => { x with poison := false })
      (s.setCore c k2).answerTile c r i
  else
    match k.accs.find? r.accNames with
    | none => s
    | some a =>
      let s1 := s.setCore c (k.onAcc r (fun a => { a with sum := 0, poison := false }))
      if r.t.fc = 0 then s1.answer r 7 (BitVec.ofNat 64 a.sum.toNat) a.poison
      else s1.answer r 9 (BitVec.ofNat 64 (emitCodes r.t.fc.toNat [[a.sum.toNat]]).flatten.sum) a.poison

/-- After an addition the expected tag rises; at DIM 7 with nothing held the state ends (R348), and the next contribution
makes a new one. -/
def Core.advanceAcc (k : Core) (r : Req) : Core :=
  { k with accs := k.accs.filterMap (fun a =>
      if r.accNames a then
        let held := a.held.filter (fun y => y.req.id != r.id)
        if r.emits && r.dim == 7 && held.all (fun y => y.fresh) then held.head?.map (fun y => { y.req.newAcc with held := held })
        else some { a with held := held, expected := a.expected + 1 }
      else some a) }

/-- Handle the contributions that came meanwhile, in order, until one of them begins an addition; one for which the window
has no room stays. -/
def State.handleFresh (s : State) (c : Nat) (r : Req) : List Contribution → State
  | [] => s
  | x :: xs =>
    let k := s.core c
    match k.accs.find? r.accNames with
    | none => s
    | some a =>
      if a.front.isSome then s
      else
        let drop (t : State) : State :=
          t.onCore c (fun k => k.onAcc r (fun a => { a with held := a.held.filter (fun y => y.req.id != x.req.id) }))
        let hold (units : Nat) : State :=
          s.onCore c (fun k => k.onAcc r (fun a => { a with
            held := a.held.map (fun y => if y.req.id = x.req.id then { y with fresh := false, units := units } else y) }))
        if a.refuses x.req then State.handleFresh ((drop s).discardAdd c x.req x.mark) c r xs
        else if x.req.tag == a.expected then hold 0
        else if decide (k.unitsUsed + r.units ≤ accUnits) then State.handleFresh (hold r.units) c r xs
        else State.handleFresh s c r xs

/-- The contributions to an accumulator that wait to be handled. -/
def State.freshOf (s : State) (c : Nat) (r : Req) : List Contribution :=
  match (s.core c).accs.find? r.accNames with
  | some a => a.held.filter (fun x => x.fresh)
  | none => []

/-- A begun addition is done (R347): the sum is formed, and the contribution's tile is released. -/
def State.addDone (s : State) (c : Nat) (x : Contribution) : State :=
  let r := x.req
  let k1 := (s.core c).addNow r x.mark
  let k2 := if r.isRacc && !x.mark then k1.onTile (handleIndex r.a) Tile.written else k1
  let (s1, limited) := if r.isRacc && !x.mark then (s.setCore c k2).serviceCheck c r else (s.setCore c k2, false)
  let s2 := if limited then s1.onCore c (fun k => k.poisonSum r) else s1
  s2.onCore c (fun k => if x.mark then k else k.releaseOperands r [r.a])

/-- A contribution has been handled: the reference on its accumulator's tile is released, the expected tag rises, and what came
meanwhile is handled. -/
def State.passAdd (s : State) (c : Nat) (x : Contribution) : State :=
  let r := x.req
  let s1 := s.onCore c (fun k => (if r.isRacc && !x.mark then k.releaseHandle r.core r.job r.a else k).advanceAcc r)
  s1.handleFresh c r (s1.freshOf c r)

/-- A begun addition, or the emission that follows it, is done (R347, R348): the sum is added and B released, and then a closing
contribution is answered with the sum, and any other with CTRL. -/
def State.doneAdd (s : State) (c rid : Nat) : State :=
  let k := s.core c
  match k.accs.find? (fun a => match a.front with | some x => x.req.id == rid && x.started | none => false) with
  | none => s
  | some a =>
    match a.front with
    | none => s
    | some x =>
      let r := x.req
      if x.made.isSome then (s.emitAcc c r x.made).passAdd c x
      else
        let s1 := s.addDone c x
        if r.emits && r.isRacc then
          let (s2, id) := s1.fresh
          s2.onCore c (fun k => k.onAcc r (fun a => { a with held := a.held.map (fun y =>
            if y.req.id = rid then { y with started := false, units := 0, asked := some id } else y) }))
        else ((if r.emits then s1.emitAcc c r none else if x.mark then s1 else s1.answerCtrl r false)).passAdd c x

end Sys2Proof.Machine
end

