-- ==== Sys2Proof/Machine/EngineOps.lean ====
section
/-! DEFINITION. Memory as the walkers, the copy engines and the routing engines reach it (R69, R223, R224, R238): unit by
unit, by virtual address, at home, in host memory, or on another device through requests of their own. -/

namespace Sys2Proof.Machine

/-- A unit access of an engine: a read, or a write of these bytes, poisoned or not; or one that FAULT.RESOLVE answered
poisoned (R90). -/
structure EngUnit where
  va : Nat
  len : Nat
  data : Option (List Byte) := none
  poison : Bool := false
  refuse : Bool := false
  deriving DecidableEq, Repr

/-- The access of a unit. -/
def EngUnit.acc (u : EngUnit) : Acc := if u.data.isSome then .write else .read

/-- A span cut into its aligned 16-byte units (R224). -/
def unitsAt (va n : Nat) : List EngUnit := (pieces 16 va n).map (fun p => { va := p.1, len := p.2 })

/-- The unit writes of a run of bytes. -/
def writesAt (va : Nat) (bs : List Byte) : List EngUnit :=
  (pieces 16 va bs.length).map (fun p => { va := p.1, len := p.2, data := some ((bs.drop (p.1 - va)).take p.2) })

/-- Whether the units of an access can be performed now. -/
inductive Prep where
  | ready
  /-- requests to other devices are on their way -/
  | wait (s : State)
  /-- a not-present fault at this address -/
  | absent (va : Nat) (acc : Acc) (f : WalkFault)

/-- Mark the units at these addresses as answered poisoned. -/
def markRefused (vas : List Nat) (us : List EngUnit) : List EngUnit :=
  us.map (fun u => { u with refuse := vas.contains u.va })

/-- Look at every unit before any is performed: a not-present fault stops the whole, and units of other devices are asked
for and waited for, as are ports that pass no traffic (R16, R52). A unit that has been asked or performed keeps its translation. A unit on a
DEVICE page is asked for once those before it are here (R236). -/
def State.prepareFrom (s : State) (owner : List Nat) (die j : Nat) : List EngUnit → Bool → Prep
  | [], true => .ready
  | [], false => .wait s
  | u :: us, here =>
    if u.refuse then State.prepareFrom s owner die j us here else
    match s.fabricFind owner u.data.isSome u.va u.len with
    | some q => State.prepareFrom s owner die j us (here && q.answer.isSome)
    | none =>
      match s.translate j u.va u.acc with
      | .error f => if f.kind = 0 then .absent u.va u.acc f else State.prepareFrom s owner die j us here
      | .ok (pa, e) =>
        match homeOf s.devnum pa with
        | .fabric dev r =>
          if bits e.leaf 2 2 == 2 && !here then State.prepareFrom s owner die j us false else
          let (s1, _) := (s.look die j u.va).askFabric owner die j u.va dev r u.len u.data u.poison
          State.prepareFrom s1 owner die j us false
        | .host a => State.prepareFrom s owner die j us (here && s.spanPasses a u.len)
        | _ => State.prepareFrom s owner die j us here

/-- The first not-present fault among units. -/
def State.firstAbsent (s : State) (owner : List Nat) (j : Nat) (us : List EngUnit) : Option (Nat × Acc × WalkFault) :=
  us.findSome? (fun u =>
    if u.refuse || (s.fabricFind owner u.data.isSome u.va u.len).isSome then none
    else match s.translate j u.va u.acc with
      | .error f => if f.kind = 0 then some (u.va, u.acc, f) else none
      | .ok _ => none)

/-- Prepare units: none is asked of another device while one is not present. -/
def State.prepare (s : State) (owner : List Nat) (die j : Nat) (us : List EngUnit) : Prep :=
  match s.firstAbsent owner j us with
  | some (va, acc, f) => .absent va acc f
  | none => s.prepareFrom owner die j us true

/-- The permission fault of reason `PA_HOLE` of an access through a page, where the page is known. -/
def holeFault (page : Option TlbEntry) : WalkFault := match page with | some e => e.denies 6 | none => ⟨1, 6, 0, 0, none⟩

/-- The outcome of an answer from another device (R69): its bytes where it was performed. -/
def State.fabricOutcome (s : State) (p : PortInfo) (va : Nat) (acc : Acc) (page : Option TlbEntry) (dev pa rid status : Nat)
    (bs : List Byte) : State × Option (List Byte) :=
  match status with
  | 0 => (s, some bs)
  | 2 => (s.permFault p va acc (holeFault page), none)
  | _ => (if Config.freeDark rid then s.floorDark (some p.job) (2 ^ 51 + dev * 2 ^ 41 + pa) else s, none)

/-- Write a span poisoned: at home its 64-byte units are marked (R81), and its region's bit of the zero map is cleared (R71); in
host memory the bytes are free (log entry 40). -/
def State.writePoison (s : State) (j pa n : Nat) : State × Got :=
  match homeOf s.devnum pa with
  | .hbm a =>
    if (s.floor (floorOf a)).st.open then
      let s1 := (s.touchRoom (some j) (roomOf a) n).clearRegions (some j) a n
      ({ s1 with poison := s1.poison ++ (unitsOf a n).filter (fun u => !s1.poison.contains u) }, .data [])
    else ((s.touchRoom (some j) (roomOf a) 0).floorDark (some j) a, .dark)
  | .host a =>
    let s1 := { s with draws := s.draws + n }
    (s1.hostWrite a ((List.range n).map (fun i => Config.freeByte (s.draws + i))), .data [])
  | _ => (s, .poison)

/-- Perform one prepared unit: a read's bytes, or none where it was refused or poisoned. -/
def State.perform1 (s : State) (p : PortInfo) (owner : List Nat) (u : EngUnit) : State × Option (List Byte) :=
  if u.refuse then (s, none) else
  match s.fabricFind owner u.data.isSome u.va u.len with
  | some q =>
    match q.answer with
    | some (4, bs) => (s, some bs)
    | some (5, _) => (s, none)
    | some (status, bs) => s.fabricOutcome p u.va u.acc q.page q.dev q.pa q.rid status bs
    | none => (s, none)
  | none =>
    let s0 := s.look p.die p.job u.va
    match s0.translate p.job u.va u.acc with
    | .error f => (s0.permFault p u.va u.acc f, none)
    | .ok (pa, e) =>
      match homeOf s0.devnum pa with
      | .hole => (s0.permFault p u.va u.acc (e.denies 6), none)
      | .fabric _ _ => (s0, none)
      | .hbm _ | .host _ =>
        let (s1, g) := match u.data with
          | some bs => if u.poison then s0.writePoison p.job pa u.len else s0.writePiece owner p.job u.va pa bs
          | none => s0.readPiece owner p.job u.va pa u.len
        match g with
        | .data bs => (s1, some bs)
        | _ => (s1, none)

/-- Perform one unit of an engine's work ahead of the rest (R224, R235): what it gave is kept until the work is done. On a DEVICE
page, whose elements keep their order, only the unit that is `next` (R236). -/
def State.performEarly (s : State) (p : PortInfo) (owner : List Nat) (u : EngUnit) (next : Bool) : State :=
  if u.refuse || (s.fabricFind owner u.data.isSome u.va u.len).isSome then s
  else
    match s.translate p.job u.va u.acc with
    | .error _ => s
    | .ok (pa, e) =>
      if bits e.leaf 2 2 == 2 && !next then s
      else
        match homeOf s.devnum pa with
        | .fabric dev r => ((s.look p.die p.job u.va).askFabric owner p.die p.job u.va dev r u.len u.data u.poison).1
        | .hole => s
        | h =>
          if (match h with | .host a => !s.spanPasses a u.len | _ => false) then s
          else
            let (s1, g) := s.perform1 p owner u
            let q : FabReq := { owner := owner, write := u.data.isSome, va := u.va, dev := 0, pa := 0, len := u.len, rid := 0,
                                answer := some (match g with | some bs => (4, bs) | none => (5, [])) }
            { s1 with fabric := s1.fabric ++ [q] }

/-- Keep what units gave, for an engine that may have to go back to its work: it performs none of them again (R90). -/
def State.keepUnits (s : State) (owner : List Nat) (us : List EngUnit) (gs : List (Option (List Byte))) : State :=
  (us.zip gs).foldl (fun t (u, g) =>
    if (t.fabricFind owner u.data.isSome u.va u.len).isSome then t
    else { t with fabric := t.fabric ++ [{ owner := owner, write := u.data.isSome, va := u.va, dev := 0, pa := 0, len := u.len, rid := 0,
                                           answer := some (match g with | some bs => (4, bs) | none => (5, [])) }] }) s

/-- The unit has been performed: at home, or its answer is here. -/
def State.unitDone (s : State) (owner : List Nat) (u : EngUnit) : Bool :=
  match s.fabricFind owner u.data.isSome u.va u.len with
  | some q => q.answer.isSome
  | none => false

/-- The bytes that a kept unit gave; none where it was refused or poisoned. -/
def FabReq.got (q : FabReq) : Option (List Byte) :=
  match q.answer with
  | some (st, bs) => if st = 0 || st = 4 then some bs else none
  | none => none

/-- Perform prepared units in order: what each gave. -/
def State.performUnits (s : State) (p : PortInfo) (owner : List Nat) : List EngUnit → State × List (Option (List Byte))
  | [] => (s, [])
  | u :: us =>
    let (s1, g) := s.perform1 p owner u
    let (s2, gs) := State.performUnits s1 p owner us
    (s2, g :: gs)

/-- The outcome of units for an engine: what each gave, or why not yet. -/
inductive Eng where
  | done (s : State) (got : List (Option (List Byte)))
  | wait (s : State)
  | absent (va : Nat) (acc : Acc) (f : WalkFault)

/-- Prepare and perform units. -/
def State.engine (s : State) (p : PortInfo) (owner : List Nat) (us : List EngUnit) : Eng :=
  match s.prepare owner p.die p.job us with
  | .absent va acc f => .absent va acc f
  | .wait t => .wait t
  | .ready =>
    let (s1, gs) := s.performUnits p owner us
    .done (s1.dropOwner owner) gs

/-- The bytes of units read in order; none if one was refused or poisoned. -/
def joinUnits : List (Option (List Byte)) → Option (List Byte)
  | [] => some []
  | none :: _ => none
  | some bs :: rest => (joinUnits rest).map (bs ++ ·)

/-- Bytes of units with free bytes for those that were refused (log entry 35), and whether one was. -/
def fillUnits (draw : Nat) : List (Option (List Byte) × Nat) → List Byte × Bool
  | [] => ([], false)
  | (g, n) :: rest =>
    let (bs, bad) := fillUnits (draw + n) rest
    match g with
    | some x => (x ++ bs, bad)
    | none => ((List.range n).map (fun i => Config.freeByte (draw + i)) ++ bs, true)

/-- Take `n` draws from the free values. -/
def State.drawMany (s : State) (n : Nat) : State × Nat := ({ s with draws := s.draws + n }, s.draws)

end Sys2Proof.Machine
end

