-- ==== Sys2Proof/Machine/Walkers.lean ====
section
/-! DEFINITION. The walkers (R155 to R162, R378 to R382): shape records, the points of a round, the delivery and the
storing of tiles, and the walker forms. -/

namespace Sys2Proof.Machine

/-! ## Records and words -/

/-- A walker of a core. -/
def Core.walker (k : Core) (w : Nat) : Walker := Table.getD k.walkers w {}

/-- Put a walker. -/
def Core.setWalker (k : Core) (w : Nat) (x : Walker) : Core := { k with walkers := Table.put k.walkers w x }

/-- Change a walker of a core. -/
def State.onWalker (s : State) (c w : Nat) (f : Walker → Walker) : State :=
  s.onCore c (fun k => k.setWalker w (f (k.walker w)))

/-- A shape record (Table 6.7). -/
def shapeRecord (bs : List Byte) : Shape :=
  let h := recNat bs 8 8
  let lev (l : Nat) : Nat := recNat bs (0x18 + 8 * l) 8
  { base := recNat bs 0 8, rstride := bits h 36 28, gsel := bits h 34 2, tc := bits h 23 11, tr := bits h 12 11,
    fmt := bits h 6 6, ndim := bits h 3 3, store := bitAt h 2, kind := bits h 0 2, aux := recNat bs 0x10 8,
    ext := (List.range 5).map (fun l => bits (lev l) 40 24), str := (List.range 5).map (fun l => sext 40 (lev l)) }

/-- The conditions that a walker checks (R156). -/
def Shape.legal (x : Shape) : Bool :=
  let grouped := x.kind == 2
  x.base % 16 == 0 && x.aux % 16 == 0 && x.rstride % 16 == 0 && (x.str.take x.ndim).all (fun v => v % 16 == 0)
    && fmtAssigned x.fmt && (x.tc + 1) * elemBits x.fmt % 8 == 0 && x.kind != 3
    && decide (1 ≤ x.ndim) && decide (x.ndim ≤ if grouped then 3 else 5)
    && (grouped || x.gsel == 0) && (!grouped || x.aux % 32 == 0)
    && (upFrom x.ndim (5 - x.ndim)).all (fun l =>
      (grouped && decide (3 ≤ l)) || (x.ext.getD l 0 == 0 && x.str.getD l 0 == 0))

/-- A walker word (R378). -/
def walkerWord (w : Nat) (number : BitVec 8) : W64 := BitVec.ofNat 64 (w + 256 * number.toNat)

/-- A walker word has a nonzero reserved bit. -/
def walkerWordBad (v : W64) : Bool := bits v.toNat 16 16 != 0 || bits v.toNat 3 5 != 0

/-- The walker that a live word names, for a job and instance; none that a WSTOP is releasing. -/
def Core.liveWalker (k : Core) (r : Req) : Option (Nat × Walker) :=
  let w := bits r.a.toNat 0 3
  let x := k.walker w
  if x.claimed && x.stopping.isNone && x.job == r.job && x.inst == r.inst && x.number.toNat == bits r.a.toNat 8 8 then some (w, x) else none

/-- CFG_ALIGN, as the trap of a firing of WCFG's continuation entry (R156). Log entry 36. -/
def State.cfgTrap (s : State) (c : Nat) (r : Req) : State :=
  let site : TrapSite := match (s.core c).blockOf r.job r.block with
    | some b =>
      match b.entryAt r.cent with
      | some (i, w, _) => { word := w, index := i }
      | none => {}
    | none => {}
  s.takeTrap c
    { job := r.job, inst := r.inst, block := r.block, entry := r.cent, frame := r.frame, tag := r.tag, dim := r.dim,
      tyL := 5, tyR := 3 } .cfgAlign site

/-- The lowest-numbered free walker (R155). -/
def Core.freeWalker (k : Core) : Option Nat :=
  (List.range 8).find? (fun w => !(k.walker w).claimed && (k.walker w).loading.isNone)

/-- WCFG's record has been read, or could not be (R156): the walker takes it and its number rises, or stays free. -/
def State.takeRecord (s : State) (c : Nat) (r : Req) (bytes : Option (List Byte)) : State :=
  let k := s.core c
  match (List.range 8).find? (fun w => (k.walker w).loading == some r.id) with
  | none => s
  | some w =>
    let x := k.walker w
    let free := s.setCore c (k.setWalker w { number := x.number })
    match bytes with
    | none => free.cfgTrap c r
    | some bs =>
      let sh := shapeRecord bs
      if sh.legal then
        let y : Walker := { number := x.number + 1, claimed := true, job := r.job, inst := r.inst, shape := sh }
        (s.setCore c (k.setWalker w y)).answer r 5 (walkerWord w y.number) false
      else free.cfgTrap c r

/-! ## Points (R157 to R159) -/

/-- Extents of the active levels. -/
def Shape.exts (x : Shape) : List Nat := x.ext.take x.ndim

/-- Points of the active levels. -/
def Shape.total (x : Shape) : Nat := x.exts.foldl (· * ·) 1

/-- Indices of an ordinal, level 1 first. -/
def indicesOf : List Nat → Nat → List Nat
  | [], _ => []
  | e :: es, n => n % e :: indicesOf es (n / e)

/-- The largest l such that every level up to l stands at its last index; 0 if none. -/
def runLength : List Nat → List Nat → Nat
  | e :: es, i :: is => if i + 1 = e then 1 + runLength es is else 0
  | _, _ => 0

/-- Sum of index times stride. -/
def offsetOf (idx : List Nat) (str : List Int) : Int := (idx.zip str).foldl (fun s p => s + (p.1 : Int) * p.2) 0

/-- A group-table entry's fields (Table 6.8). -/
structure GroupEntry where
  start : Nat
  count : Nat
  weight : Nat
  adapter : Nat
  rank : Nat
  skip : Bool
  wrong : Bool
  deriving DecidableEq, Repr

/-- Read an entry. -/
def groupEntry (bs : List Byte) : GroupEntry :=
  let w := recNat bs 8 8
  let a := recNat bs 0x10 8
  let r := recNat bs 0x18 2
  { start := recNat bs 0 4, count := recNat bs 4 4, weight := w, adapter := a, rank := r, skip := bitAt (recNat bs 0x1A 2) 0,
    wrong := bits (recNat bs 0x1A 2) 1 15 != 0 || recNat bs 0x1C 4 != 0 || decide (2048 < r) || w % 16 != 0 || a % 16 != 0 }

/-- Row blocks of an entry. -/
def GroupEntry.blocks (e : GroupEntry) (x : Shape) : Nat := cdiv e.count (x.tr + 1)

/-- What a row of a point is read from or written to. -/
inductive RowAt where
  | va (a : Nat)
  /-- zeros: nothing is read or written -/
  | none
  /-- an index error, or an index that could not be read: not read, and the tile is poisoned -/
  | bad
  deriving DecidableEq, Repr

/-- A point: the address of its first row, its shape, its place in the tag order and its DIM. -/
structure Point where
  at_ : Int
  rows : Nat
  cols : Nat
  ord : Nat
  dim : Nat
  last : Bool
  /-- row-block index of an indirect point -/
  block : Nat := 0
  /-- of a group error: nothing is read -/
  bad : Bool := false
  /-- and its elements are zero -/
  zero : Bool := false
  deriving DecidableEq, Repr

/-- The next point of an affine or indirect round. -/
def Walker.flatPoint (w : Walker) : Point :=
  let x := w.shape
  let idx := indicesOf x.exts w.point
  let last := w.point + 1 == x.total
  let levels := if x.kind = 1 then x.ndim - 1 else x.ndim
  { at_ := (x.base : Int) + offsetOf (idx.take levels) x.str, rows := x.tr + 1, cols := x.tc + 1, ord := w.point,
    dim := if last then 7 else runLength x.exts idx, last := last, block := idx.getD (x.ndim - 1) 0 }

/-- The next point of a grouped round; `more` tells that a later entry delivers tokens. -/
def Walker.groupPoint (w : Walker) (more : Bool) : Point :=
  let x := w.shape
  let e := groupEntry w.entry
  let idx := indicesOf x.exts w.inner
  let off := offsetOf idx x.str
  let endBlock := w.inner + 1 == x.total
  let endEntry := endBlock && (w.entryBad || w.rowBlock + 1 == e.blocks x)
  let dim := if endEntry then (if more then 5 else 7) else if endBlock then 4 else runLength x.exts idx
  let ord := w.blocks * x.total + w.inner
  let full : Point := { at_ := 0, rows := x.tr + 1, cols := x.tc + 1, ord := ord, dim := dim, last := endEntry && !more }
  if w.entryBad then { full with bad := true, zero := true }
  else
    let p : Point := match x.gsel with
      | 0 => { full with
          at_ := (x.base : Int) + ((e.start + w.rowBlock * (x.tr + 1)) * x.rstride : Nat) + off
          rows := min (x.tr + 1) (e.count - w.rowBlock * (x.tr + 1)) }
      | 1 => { full with at_ := (e.weight : Int) + off }
      | 2 => { full with at_ := (e.adapter : Int) + off, cols := if e.rank ≤ 2048 then e.rank else x.tc + 1 }
      | _ => { full with at_ := (e.adapter : Int) + off, rows := if e.rank ≤ 2048 then e.rank else x.tr + 1 }
    { p with bad := e.wrong }

/-- After a point of a flat round. -/
def Walker.stepFlat (w : Walker) : Walker := { w with point := w.point + 1, refused := [] }

/-- After a point of a grouped round; `next` is the next entry that delivers: its index, m at its start, its bytes. -/
def Walker.stepGroup (w : Walker) (next : Option (Nat × Nat × List Byte × Bool)) : Walker :=
  let x := w.shape
  let e := groupEntry w.entry
  let w1 := { w with point := w.point + 1, refused := [] }
  if w.inner + 1 < x.total then { w1 with inner := w.inner + 1 }
  else if !w.entryBad && decide (w.rowBlock + 1 < e.blocks x) then
    { w1 with inner := 0, rowBlock := w.rowBlock + 1, blocks := w.blocks + 1 }
  else
    match next with
    | some (g, m, bs, bad) =>
      { w1 with
        inner := 0, rowBlock := 0, group := g, blocks := m, entry := bs, entryBad := bad
        errors := if bad || (groupEntry bs).wrong then min (w1.errors + 1) 0xFFFF else w1.errors }
    | none => w1

/-- The round ends. -/
def Walker.endRound (w : Walker) : Walker :=
  { w with
    running := false, rounds := (w.rounds + 1) % 4096, point := 0, group := 0, rowBlock := 0, blocks := 0, inner := 0
    entry := [], entryBad := false, refused := [], spoiled := false }

/-! ## Memory -/

/-- The walker's port (Tables 4.10, 4.11). -/
def walkerPort (s : State) (c w : Nat) (x : Walker) : PortInfo :=
  let idx := indicesOf x.shape.exts (if x.shape.kind = 2 then x.inner else x.point)
  { die := dieOf c, job := x.job, type := 1, num := c, walker := w, inst := s.instId x.job x.inst,
    bytes := natLe 4 x.rounds ++ (List.range 5).flatMap (fun l =>
      natLe 4 (if x.shape.kind = 2 && l == 4 then x.group else if x.shape.kind = 2 && l == 3 then x.rowBlock else idx.getD l 0)) ++ zeros 24 }

/-- A not-present fault freezes the walker (R162). -/
def State.freezeWalker (s : State) (c w : Nat) (va : Nat) (acc : Acc) (f : WalkFault) : State :=
  let x := (s.core c).walker w
  let (s1, id) := s.absentFault (walkerPort s c w x) x.inst (.walker c w) va acc f
  s1.onWalker c w (fun y => { y with frozen := some id, faultVa := va })

/-- The search for the next entry that delivers a tile. -/
inductive Scan where
  | wait (s : State)
  | absent (va : Nat) (acc : Acc) (f : WalkFault)
  | found (s : State) (next : Option (Nat × Nat × List Byte × Bool))

/-- What a scan does with an entry, m being the row blocks passed: the next entry that delivers, or the row blocks passed after one that does not. -/
def entryNext (x : Shape) (g m : Nat) (got : Option (List Byte)) : Except Nat (Nat × Nat × List Byte × Bool) :=
  match got with
  | none => .ok (g, m, [], true)
  | some bs =>
    let e := groupEntry bs
    if e.skip || e.count == 0 then .error m
    else if decide (2 ≤ x.gsel) && e.rank == 0 then .error (m + e.blocks x)
    else .ok (g, m, bs, false)

/-- Owner of the reads of a group-table entry. -/
def entryOwner (c w g : Nat) : List Nat := [1, c, w, 2, g]

/-- The units of a group-table entry. -/
def entryUnits (x : Shape) (g : Nat) : List EngUnit := unitsAt (x.aux + 32 * g) 32

/-- Read entries from `g` on: at most `fuel` of them. What each gave is kept until the walker has used it. -/
def State.scanEntries (s : State) (p : PortInfo) (c w : Nat) (refused : List Nat) (x : Shape) : Nat → Nat → Nat → Scan
  | 0, _, _ => .found s none
  | fuel + 1, g, m =>
    let us := markRefused refused (entryUnits x g)
    match s.prepare (entryOwner c w g) p.die p.job us with
    | .absent va acc f => .absent va acc f
    | .wait t => .wait t
    | .ready =>
      let (s0, gs) := s.performUnits p (entryOwner c w g) us
      let s1 := s0.keepUnits (entryOwner c w g) us gs
      match entryNext x g m (joinUnits gs) with
      | .ok n => .found s1 (some n)
      | .error n => State.scanEntries s1 p c w refused x fuel (g + 1) n

/-- The same among the entries whose units have all been read; none where one that is needed has not. -/
def State.keptEntry (s : State) (c w : Nat) (x : Shape) : Nat → Nat → Nat → Option (Nat × Nat × List Byte × Bool)
  | 0, _, _ => none
  | fuel + 1, g, m =>
    match (entryUnits x g).mapM (fun u => (s.fabricFind (entryOwner c w g) false u.va u.len).bind (fun q => q.answer.map (fun _ => q.got))) with
    | none => none
    | some gs =>
      match entryNext x g m (joinUnits gs) with
      | .ok n => some n
      | .error n => State.keptEntry s c w x fuel (g + 1) n

/-- The walker has used the entries up to the one that delivers next, or, where none does, all of them. -/
def State.dropEntries (s : State) (c w : Nat) (next : Option (Nat × Nat × List Byte × Bool)) : State :=
  let used (g : Nat) : Bool := match next with | some n => decide (g ≤ n.1) | none => true
  { s with fabric := s.fabric.filter (fun r => !(r.owner.take 4 == [1, c, w, 2] && used (r.owner.getD 4 0))) }

/-- The rows of an indirect point from its index entries (R158), and the index errors among them. -/
def indexRows (x : Shape) (p : Point) (idx : List (Option Nat)) : List RowAt × Nat :=
  let rows := idx.map (fun i =>
    match i with
    | none => (RowAt.bad, 0)
    | some n =>
      if n = 0xFFFFFFFF then (RowAt.none, 0)
      else
        let a := wrapInt 64 (p.at_ + (n * x.rstride : Nat))
        if 2 ^ 55 ≤ a then (RowAt.bad, 1) else (RowAt.va a, 0))
  (rows.map (·.1), (rows.map (·.2)).sum)

/-- The 16-byte units of an indirect point's index entries. -/
def indexUnits (x : Shape) (p : Point) : List EngUnit :=
  let a := x.aux + 4 * p.block * p.rows
  unitsAt (a / 16 * 16) (roundUp (a + 4 * p.rows) 16 - a / 16 * 16)

/-- The index entries in what those units gave. -/
def indexEntries (x : Shape) (p : Point) (got : List (Option (List Byte))) : List (Option Nat) :=
  let a := x.aux + 4 * p.block * p.rows
  (List.range p.rows).map (fun r =>
    let o := a % 16 + 4 * r
    match got.getD (o / 16) none with
    | some bs => some (recNat bs (o % 16) 4)
    | none => none)

/-- The rows of a point that needs no index. -/
def Point.plainRows (p : Point) (x : Shape) : List RowAt :=
  (List.range p.rows).map (fun r => if p.bad then (if p.zero then .none else .bad) else .va (wrapInt 64 (p.at_ + (r * x.rstride : Nat))))

/-- The units that a load reads for its rows. -/
def readUnits (rows : List RowAt) (len : Nat) : List EngUnit :=
  rows.flatMap (fun r => match r with | .va a => unitsAt a (roundUp len 16) | _ => [])

/-- Assemble rows of bytes from what the units gave; free bytes stand where nothing was read (log entry 35). -/
def assemble (len : Nat) : List RowAt → List (Option (List Byte)) → Nat → List (List Byte) × Bool
  | [], _, _ => ([], false)
  | r :: rs, got, draw =>
    match r with
    | .none => let (x, b) := assemble len rs got draw; (zeros len :: x, b)
    | .bad => let (x, b) := assemble len rs got (draw + len); ((List.range len).map (fun i => Config.freeByte (draw + i)) :: x, true || b)
    | .va _ =>
      let n := cdiv len 16
      let (bs, bad) := fillUnits draw ((got.take n).map (fun g => (g, 16)))
      let (x, b) := assemble len rs (got.drop n) (draw + 16 * n)
      (bs.take len :: x, bad || b)

/-! ## Tokens -/

/-- A token of a round: to the entry and port of WGO, in the frame that D names (R379). -/
def Req.roundToken (r : Req) (dev : Nat) (type : Nat) (w2 : W64) (tag : W32) (dim : Nat) (poison : Bool) : Token :=
  { r.token dev type w2 poison with frame := BitVec.ofNat 19 (fpBase r.d), tag := tag, dim := BitVec.ofNat 3 dim }

/-- The round's tag at an ordinal. -/
def Req.tagAt (r : Req) (n : Nat) : W32 := BitVec.ofNat 32 (z32 r.b + n)

/-- The walker waits: 16 delivered tiles are unmatched. -/
def State.backPressed (s : State) (c w : Nat) : Bool :=
  let x := (s.core c).walker w
  x.running && !x.shape.store && decide (16 ≤ x.out.length)

/-- Owner of a walker's accesses for a point: what they are for (0 index entries, 1 elements), and the point's place in the tag order
(R159). -/
def walkerOwner (c w what ord : Nat) : List Nat := [1, c, w, what, ord]

/-- Forget every access of a walker that is answered; what is out is still to be performed (R244). -/
def State.leaveWalkerWork (s : State) (c w : Nat) : State :=
  let x := (s.core c).walker w
  s.leaveWork [1, c, w] x.job x.inst ((s.job x.job).jobCore c)

/-- Finish the walker's work at a point. -/
def State.dropWalkerWork (s : State) (c w ord : Nat) : State :=
  (s.dropOwner (walkerOwner c w 0 ord)).dropOwner (walkerOwner c w 1 ord)

/-! ## Loads -/

/-- Answer a store-mode WGO and release its tile. -/
def State.answerStore (s : State) (c : Nat) (r : Req) (dim : Nat) (poison : Bool) : State :=
  (s.onCore c (fun k => k.releaseHandle r.core r.job r.b)).answer { r with dim := dim } 0 0 poison

/-- The form is WGO. -/
def Req.isWgo (r : Req) : Bool :=
  match r.instr with
  | .wgo _ => true
  | _ => false

/-- A round without points delivers one CTRL token (R161); a store round answers its WGO. Log entry 37. -/
def State.emptyRound (s : State) (c w : Nat) : State :=
  let x := (s.core c).walker w
  let r := x.cur
  let s1 := (s.onWalker c w Walker.endRound).progress x.job x.inst
  if x.shape.store then
    match takeFirst Req.isWgo x.queue with
    | some (q, rest) => (s1.onWalker c w (fun y => { y with queue := rest })).answerStore c q 7 false
    | none => s1
  else s1.deliver (256 + w) (r.roundToken s.devnum 0 0 (r.tagAt 0) 7 false)

/-- Deliver the tile of a point whose rows have been read: with the grant for its tile, if the allocator can make it. A walker that
finds no space waits in arrival order with the core's other requests (R148). -/
def State.deliverTile (s : State) (c w : Nat) (p : Point) (rows : List (List Byte)) (poison : Bool) (gs : List TileGrant) : Option State :=
  let k := s.core c
  let x := k.walker w
  let r := x.cur
  if s.queuedBefore c (x.asked.getD s.nextId) then none
  else
    match k.makeAll s.clock x.job x.inst .full [(x.shape.fmt, p.rows, p.cols)] gs with
    | some (k1, [i]) =>
      let k2 := (k1.putRows (k1.tile i) 0 rows).onTile i (fun t => { t with poison := poison })
      let h := k2.handle r.core i
      some (((s.setCore c k2).onWalker c w (fun y => { y with asked := none, out := y.out ++ [h] })).deliver (256 + w)
        (r.roundToken s.devnum 12 h (r.tagAt p.ord) p.dim poison))
    | _ => none

/-- The walker's request for a tile of this shape waits from now on (R148). -/
def State.walkerAsks (s : State) (c w : Nat) (p : Point) : State :=
  match ((s.core c).walker w).asked with
  | some _ => s
  | none => let (t, id) := s.fresh; t.onWalker c w (fun y => { y with asked := some id, wants := (p.rows, p.cols) })

/-- How a point's rows are reached: the state after its index reads, the rows, and the index errors; or why not yet. -/
inductive Rows where
  | wait (s : State)
  | absent (va : Nat) (acc : Acc) (f : WalkFault)
  | known (s : State) (rows : List RowAt) (errors : Nat)

/-- The rows of a point; an indirect point reads its index entries. -/
def State.pointRows (s : State) (port : PortInfo) (c w : Nat) (p : Point) : Rows :=
  let x := (s.core c).walker w
  if x.shape.kind = 1 then
    let us := markRefused x.refused (indexUnits x.shape p)
    let owner := walkerOwner c w 0 p.ord
    match s.prepare owner port.die port.job us with
    | .absent va acc f => .absent va acc f
    | .wait t => .wait t
    | .ready =>
      let (s1, got) := s.performUnits port owner us
      let (rows, n) := indexRows x.shape p (indexEntries x.shape p got)
      .known s1 rows n
  else .known s (p.plainRows x.shape) 0

/-- The next point is its entry's last. -/
def Walker.entryEnds (x : Walker) : Bool :=
  x.inner + 1 == x.shape.total && (x.entryBad || x.rowBlock + 1 == (groupEntry x.entry).blocks x.shape)

/-- Entries after the one in use. -/
def Walker.entriesLeft (x : Walker) : Nat := x.shape.ext.getD 4 0 - (x.group + 1)

/-- The look ahead that the last token of an entry needs: whether a later entry delivers. -/
def State.lookAhead (s : State) (port : PortInfo) (c w : Nat) : Scan :=
  let x := (s.core c).walker w
  if x.shape.kind = 2 && x.entryEnds then s.scanEntries port c w x.refused x.shape x.entriesLeft (x.group + 1) (x.blocks + 1)
  else .found s none

/-- The next point, when the look ahead is known. -/
def Walker.nextPoint (x : Walker) (next : Option (Nat × Nat × List Byte × Bool)) : Point :=
  if x.shape.kind = 2 then x.groupPoint next.isSome else x.flatPoint

/-- The walker after its point. -/
def Walker.afterPoint (x : Walker) (p : Point) (next : Option (Nat × Nat × List Byte × Bool)) (errors : Nat) : Walker :=
  let y := { (if x.shape.kind = 2 then x.stepGroup next else x.stepFlat) with errors := min (x.errors + errors) 0xFFFF }
  let y1 := if x.shape.kind = 2 then { y with errors := min ((x.stepGroup next).errors + errors) 0xFFFF } else y
  if p.last then y1.endRound else y1

/-- A grouped round counted on by points, through entries that have been read (R238). -/
def State.walkAhead (s : State) (c w : Nat) : Nat → Walker → Option Walker
  | 0, x => some x
  | n + 1, x =>
    if x.entryEnds then
      match s.keptEntry c w x.shape x.entriesLeft (x.group + 1) (x.blocks + 1) with
      | some next => State.walkAhead s c w n (x.stepGroup (some next))
      | none => none
    else State.walkAhead s c w n (x.stepGroup none)

/-- The round has an entry to go by. -/
def Walker.entered (x : Walker) : Bool := !x.entry.isEmpty || x.entryBad

/-- The point that lies `ahead` points on from the next one: as far as the extents say, or the entries that have been read. -/
def State.pointAhead (s : State) (c w ahead : Nat) : Option Point :=
  let x := (s.core c).walker w
  if x.shape.kind = 2 then (if x.entered then (s.walkAhead c w ahead x).map (fun y => y.groupPoint false) else none)
  else if x.point + ahead < x.shape.total then some { x with point := x.point + ahead }.flatPoint
  else none

/-- The units that a store writes. -/
def writeUnits (rows : List RowAt) (data : List (List Byte)) : List EngUnit :=
  (rows.zip data).flatMap (fun q => match q.1 with | .va a => writesAt a q.2 | _ => [])

/-- Units of a point that an event performs by themselves: `ahead` counts points on from the next one, whose reads keep no order
(R238), and `unit` numbers the point's index units and then its element units. On a DEVICE page the units before are performed first (R236). -/
def State.walkerEarly (s : State) (c w : Nat) (data : Option (List (List Byte))) (ahead unit : Nat) : State :=
  let x := (s.core c).walker w
  match s.pointAhead c w ahead with
  | none => s
  | some p =>
    let port := walkerPort s c w x
    let mark (u : EngUnit) : EngUnit := { u with refuse := ahead == 0 && x.refused.contains u.va }
    let done (what : Nat) (us : List EngUnit) : Bool := us.all (fun u => (mark u).refuse || s.unitDone (walkerOwner c w what p.ord) u)
    let idx := if x.shape.kind = 1 then indexUnits x.shape p else []
    match idx[unit]? with
    | some u => (s.performEarly port (walkerOwner c w 0 p.ord) (mark u) (ahead == 0 && done 0 (idx.take unit))).progress x.job x.inst
    | none =>
      if !done 0 idx then s
      else
        match s.pointRows port c w p with
        | .known s1 rows _ =>
          let us := match data with
            | some bytes => writeUnits rows bytes
            | none => readUnits rows (rowBytes x.shape.fmt p.cols)
          let n := unit - idx.length
          (match us[n]? with
            | some u =>
              (s1.performEarly port (walkerOwner c w 1 p.ord) (mark u) (ahead == 0 && done 1 (us.take n))).progress x.job x.inst
            | none => s)
        | _ => s

/-- A unit of a group-table entry that the round has still to reach is read by itself (R224, R238). On a DEVICE page only the next one is (R236). -/
def State.entryEarly (s : State) (c w g unit : Nat) : State :=
  let x := (s.core c).walker w
  let due := if x.entered then x.group + 1 else 0
  if x.shape.kind != 2 || decide (g < due) || decide (x.shape.ext.getD 4 0 ≤ g) then s
  else
    let us := entryUnits x.shape g
    match us[unit]? with
    | some u =>
      let next := g == due && (!x.entered || x.entryEnds) && (us.take unit).all (fun v => s.unitDone (entryOwner c w g) v)
      (s.performEarly (walkerPort s c w x) (entryOwner c w g) { u with refuse := g == due && x.refused.contains u.va } next).progress x.job x.inst
    | none => s

/-- After a point that was its entry's last, the entries passed are used. -/
def State.usedEntries (s : State) (c w : Nat) (x : Walker) (p : Point) (next : Option (Nat × Nat × List Byte × Bool)) : State :=
  if x.shape.kind = 2 && (x.entryEnds || p.last) then s.dropEntries c w next else s

/-- One point of a load round: its rows are read, and its tile token is sent (R157). -/
def State.loadPoint (s : State) (c w : Nat) (gs : List TileGrant) : State :=
  let x := (s.core c).walker w
  let port := walkerPort s c w x
  if decide (16 ≤ x.out.length) then s
  else
    match s.lookAhead port c w with
    | .wait t => t
    | .absent va acc f => s.freezeWalker c w va acc f
    | .found s0 next =>
      let p := x.nextPoint next
      match s0.pointRows port c w p with
      | .wait t => t
      | .absent va acc f => s.freezeWalker c w va acc f
      | .known s1 rows errors =>
        let len := rowBytes x.shape.fmt p.cols
        let us := markRefused x.refused (readUnits rows len)
        match s.prepare (walkerOwner c w 1 p.ord) port.die port.job us with
        | .wait t => t
        | .absent va acc f => s.freezeWalker c w va acc f
        | .ready =>
          let (s2, got) := s1.performUnits port (walkerOwner c w 1 p.ord) us
          let (bytes, bad) := assemble len rows got s2.draws
          let s3 := { s2 with draws := s2.draws + (16 * cdiv len 16) * rows.length }
          match s3.deliverTile c w p bytes (bad || p.bad) gs with
          | none => s.walkerAsks c w p
          | some s4 =>
            (((s4.dropWalkerWork c w p.ord).usedEntries c w x p next).onWalker c w (fun y => y.afterPoint p next errors)).progress x.job x.inst

/-! ## Stores (R160, R380) -/

/-- One point of a store round: the oldest tile handed over is written at the point's rows. -/
def State.storePoint (s : State) (c w : Nat) : State :=
  let k := s.core c
  let x := k.walker w
  match takeFirst Req.isWgo x.queue with
  | none => s
  | some (r, rest) =>
      let port := walkerPort s c w x
      let t := k.opTile r.b
      if !s.tileReady c r || t.st == .pending then s
      else
        match s.lookAhead port c w with
        | .wait u => u
        | .absent va acc f => s.freezeWalker c w va acc f
        | .found s0 next =>
          let p := x.nextPoint next
          match s0.pointRows port c w p with
          | .wait u => u
          | .absent va acc f => s.freezeWalker c w va acc f
          | .known s1 rows errors =>
            let fits := t.nrows == p.rows && t.ncols == p.cols
            let us := if fits then markRefused x.refused (writeUnits rows (k.rowsOf t)) else []
            match s.prepare (walkerOwner c w 1 p.ord) port.die port.job us with
            | .wait u => u
            | .absent va acc f => s.freezeWalker c w va acc f
            | .ready =>
              let (s2, got) := s1.performUnits port (walkerOwner c w 1 p.ord) us
              let spoilt := !fits || p.bad || rows.contains .bad || got.any (·.isNone)
              let s3 := (((s2.dropWalkerWork c w p.ord).usedEntries c w x p next).onWalker c w (fun y =>
                let z := y.afterPoint p next errors
                { z with queue := rest, spoiled := if p.last then false else y.spoiled || spoilt })).progress x.job x.inst
              s3.answerStore c r p.dim (spoilt || (p.last && x.spoiled))

/-! ## Rounds -/

/-- A shape with one field replaced (R381). -/
def Shape.withField (x : Shape) (field : Nat) (v : W64) : Shape :=
  match field with
  | 0 => { x with base := addrOf v }
  | 1 => { x with aux := addrOf v }
  | n => { x with ext := setAt x.ext (n - 2) v.toNat }

/-- WPAR applies between rounds: the field takes its value if the shape stays legal (R162, R381). -/
def State.applyWpar (s : State) (c w : Nat) (r : Req) : State :=
  let x := (s.core c).walker w
  let sh := x.shape.withField r.m.mflg.toNat r.b
  if sh.legal then (s.onWalker c w (fun y => { y with shape := sh })).answerStatus r 0 0 false
  else s.answerStatus r 2 0 false

/-- Begin the round of a WGO at the head of the queue. In store mode the WGO stays there until its tile is written. -/
def State.beginRound (s : State) (c w : Nat) (r : Req) : State :=
  s.onWalker c w (fun y =>
    let z := { y.endRound with running := true, cur := r, rounds := y.rounds }
    if y.shape.store then z else { z with queue := y.queue.drop 1 })

/-- The tile that a store round writes next, as rows of bytes. -/
def State.storeRows (s : State) (c w : Nat) : Option (List (List Byte)) :=
  let k := s.core c
  match takeFirst Req.isWgo (k.walker w).queue with
  | some (r, _) => let t := k.opTile r.b; if s.tileReady c r && t.st != .pending then some (k.rowsOf t) else none
  | none => none

/-- Some units of the walker's round are performed by themselves: of any of its points where it loads, and of the next one where it
stores; and of its group table. -/
def State.walkerUnits (s : State) (c w : Nat) (units entries : List (Nat × Nat)) : State :=
  let x := (s.core c).walker w
  if !x.claimed || x.frozen.isSome || !x.running || x.stopping.isSome || x.shape.total == 0 then s
  else
    let t := entries.foldl (fun t u => t.entryEarly c w u.1 u.2) s
    if x.shape.store then
      match t.storeRows c w with
      | some bytes => units.foldl (fun t u => if u.1 = 0 then t.walkerEarly c w (some bytes) 0 u.2 else t) t
      | none => t
    else units.foldl (fun t u => t.walkerEarly c w none u.1 u.2) t

/-- Ordinal of the next undelivered point in the order of tags: TAG0 plus it is the tag that WSTOP gives (R381), and WSTAT
reads it (R382). In a grouped round it is m * P + q (R159). -/
def Walker.nextOrd (x : Walker) : Nat := if x.shape.kind = 2 then x.blocks * x.shape.total + x.inner else x.point

/-- Answer what a stopped walker had not finished (R381). -/
def State.stopAnswers (s : State) (c w : Nat) (x : Walker) : State :=
  let poisoned (t : State) (q : Req) (n : Nat) : State :=
    t.deliver (256 + w) (q.roundToken s.devnum 0 0 (q.tagAt n) 7 true)
  let s1 := if x.running && !x.shape.store then poisoned s x.cur x.nextOrd else s
  x.queue.foldl (fun t q =>
    match q.instr with
    | .wpar _ => t.answerStatus q 1 0 false
    | _ => if x.shape.store then t.answerStore c q q.dim true else poisoned t q 0) s1

/-- A port leaves its pending fault; a fault left with no port is discarded (R381). -/
def State.leaveFault (s : State) (port : FaultPort) : State :=
  { s with faults := (s.faults.map (fun f => { f with ports := f.ports.filter (· != port) })).filter (fun f => !f.ports.isEmpty) }

/-- Writes of the walker's store round are out to other devices. -/
def State.walkerWrites (s : State) (c w : Nat) : Bool := s.fabric.any (fun r => r.owner.take 3 == [1, c, w] && r.write && r.answer.isNone)

/-- The stop of WSTOP `r` ends: what is unfinished is answered, and the walker is free. -/
def State.finishStop (s : State) (c w : Nat) (x : Walker) (r : Req) : State :=
  let s1 := ((s.stopAnswers c w x).leaveWalkerWork c w).onWalker c w (fun y => { number := y.number })
  (s1.leaveFault (.walker c w)).answerStatus r 0 0 false

/-- One event of a walker: it ends its stop, or starts what is at the head of its queue, loads the next entry, or handles its next point. -/
def State.walkerStep (s : State) (c w : Nat) (gs : List TileGrant) : State :=
  let x := (s.core c).walker w
  if !x.claimed then s
  else if x.stopping.isSome then
    match x.stopping with
    | some r => if s.walkerWrites c w then s else s.finishStop c w x r
    | none => s
  else if x.frozen.isSome then s
  else if !x.running then
    match x.queue with
    | [] => s
    | r :: rest =>
      match r.instr with
      | .wpar _ => (s.onWalker c w (fun y => { y with queue := rest })).applyWpar c w r
      | .wgo _ => s.beginRound c w r
      | _ => s
  else if x.shape.total == 0 then s.emptyRound c w
  else if x.shape.kind = 2 && !x.entered then
    let port := walkerPort s c w x
    match s.scanEntries port c w x.refused x.shape (x.shape.ext.getD 4 0) 0 0 with
    | .wait t => t
    | .absent va acc f => s.freezeWalker c w va acc f
    | .found s1 none => (s1.dropEntries c w none).emptyRound c w
    | .found s1 (some (g, m, bs, bad)) =>
      (s1.dropEntries c w (some (g, m, bs, bad))).onWalker c w (fun y =>
        { y with
          group := g, blocks := m, entry := bs, entryBad := bad, refused := []
          errors := if bad || (groupEntry bs).wrong then min (y.errors + 1) 0xFFFF else y.errors })
  else if x.shape.store then s.storePoint c w
  else s.loadPoint c w gs

/-! ## The walker forms at their commit -/

/-- WGO reaches its walker (R378 to R380): one that is not live answers WSTALE. -/
def State.acceptWgo (s : State) (c : Nat) (r : Req) : State :=
  match (s.core c).liveWalker r with
  | none =>
    (if r.hasTile then s.onCore c (fun k => k.releaseHandle r.core r.job r.b) else s).answerStatus r 1 0 false
  | some (w, _) => s.onWalker c w (fun y => { y with queue := y.queue ++ [r] })

/-- WPAR reaches its walker: it applies at once between rounds, and else waits for the round's end. -/
def State.acceptWpar (s : State) (c : Nat) (r : Req) : State :=
  match (s.core c).liveWalker r with
  | none => s.answerStatus r 1 0 false
  | some (w, x) =>
    if x.running || !x.queue.isEmpty then s.onWalker c w (fun y => { y with queue := y.queue ++ [r] })
    else s.applyWpar c w r

/-- WSTOP (R381): the round ends, what is unfinished is answered, and the walker is free. The completion of a store round follows the last
write performed (R160), so a WSTOP waits for those that other devices have still to answer. -/
def State.acceptWstop (s : State) (c : Nat) (r : Req) : State :=
  match (s.core c).liveWalker r with
  | none => s.answerStatus r 1 0 false
  | some (w, x) => if s.walkerWrites c w then s.onWalker c w (fun y => { y with stopping := some r }) else s.finishStop c w x r

/-- WSTAT (R382). -/
def State.acceptWstat (s : State) (c : Nat) (r : Req) : State :=
  match (s.core c).liveWalker r with
  | none => s.answerStatus r 1 0 false
  | some (w, x) =>
    let st := if x.frozen.isSome then 3 else if s.backPressed c w then 4 else if x.running then 2 else 1
    s.answer r 1 (BitVec.ofNat 64 (st * 2 ^ 61 + b2n x.shape.store * 2 ^ 60 + x.rounds % 4096 * 2 ^ 48
      + x.errors * 2 ^ 32 + x.nextOrd % 2 ^ 32)) false

end Sys2Proof.Machine
end

