-- ==== Sys2Proof/Machine/MemReqs.lean ====
section
/-! DEFINITION. Split-phase memory requests of the cores (R223 to R242, R357 to R373): their elements, the gates and orders
that hold an element back, what an element finds at its home, and the answers. -/

namespace Sys2Proof.Machine

/-! ## Kinds of request -/

/-- Counted by the release gate (R230). -/
def Req.counted (r : Req) : Bool :=
  match r.instr with
  | .ld _ | .lda _ | .st _ | .str _ | .atom _ | .atmn _ | .tld _ | .tst _ | .tldi _ | .tsti _ => true
  | _ => false

/-- Takes one of the core's 1,024 places (R359). -/
def Req.placed (r : Req) : Bool :=
  match r.instr with
  | .drain _ | .watch _ | .wcflush _ | .pref _ => true
  | _ => r.counted

/-- A release (R230). -/
def Req.release (r : Req) : Bool :=
  match r.instr with
  | .str _ | .drain _ => true
  | .atom w | .atmn w => w.ord == .release || w.ord == .acquireRelease
  | _ => false

/-- Of FRAME or CORE scope. -/
def Req.narrow (r : Req) : Bool := r.m.scope == .frame || r.m.scope == .core

/-- A tile memory form. -/
def Req.tileForm (r : Req) : Bool :=
  match r.instr with
  | .tld _ | .tst _ | .tldi _ | .tsti _ => true
  | _ => false

/-- A load or a store of a tile form. -/
def Req.isTileLoad (r : Req) : Bool :=
  match r.instr with
  | .tld _ | .tldi _ => true
  | _ => false

/-- The access that the elements make. -/
def Req.acc (r : Req) : Acc :=
  match r.instr with
  | .st _ | .str _ | .tst _ | .tsti _ => .write
  | .atom _ | .atmn _ => .atomic
  | .pref _ => .prefetch
  | _ => .read

/-- Bytes of a scalar access. -/
def Req.bytes (r : Req) : Nat := 2 ^ r.m.wid.toNat

/-- The value type of a scalar access. -/
def Req.vty (r : Req) : ScalarTy := r.m.vty.getD .b64

/-- The kernel slots that a table load replaces (R317, R318). -/
def Req.kernelSlots (r : Req) : List Nat :=
  let k := bits r.m.mflg.toNat 0 4
  match r.instr with
  | .pwld _ => [k]
  | .lutld _ => upFrom k 4
  | _ => []

/-- Element format of a tile memory form. -/
def Req.memFmt (r : Req) : Nat := bits r.m.mflg.toNat 0 6

/-! ## Elements -/

/-- Loads of one row of a tile: the units that cover it, and where their bytes go (R370). -/
def rowLoads (va len dest : Nat) : List Elem :=
  (List.range (cdiv len 16)).map (fun u => { va := (va + 16 * u) % 2 ^ 64, len := 16, dest := dest + 16 * u, off := min 16 (len - 16 * u) })

/-- Stores of one row (R371). -/
def rowStores (va : Nat) (bs : List Byte) : List Elem :=
  (List.range (cdiv bs.length 16)).map (fun u =>
    let d := (bs.drop (16 * u)).take 16
    { va := (va + 16 * u) % 2 ^ 64, len := d.length, data := d })

/-- Shape of the tile that a tile load makes: rows and columns. -/
def Req.loadShape (r : Req) : Nat × Nat :=
  let (nc, nr) := shapeOf (match r.instr with | .tldi _ => r.d | _ => r.b)
  (nr, nc)

/-- Row addresses of a tile memory form; none for a row that an index of 0xFFFF_FFFF passes over. -/
def Core.rowVas (k : Core) (r : Req) : List (Option Nat) :=
  let byIndex (h : W64) : List (Option Nat) := (k.indices (k.opTile h)).map (fun n =>
    if n = 0xFFFFFFFF then none else some ((addrOf r.a + 16 * n) % 2 ^ 64))
  let strided (rows : Nat) : List (Option Nat) := (List.range rows).map (fun (i : Nat) =>
    some (wrapInt 64 ((addrOf r.a : Int) + (i : Int) * sext 64 r.d.toNat)))
  match r.instr with
  | .tld _ => strided r.loadShape.1
  | .tst _ => strided (k.opTile r.b).nrows
  | .tldi _ => byIndex r.b
  | _ => byIndex r.d

/-- The elements of a tile load into a tile, or of a tile store. -/
def Core.tileElems (k : Core) (r : Req) (t : Tile) : List Elem :=
  ((k.rowVas r).zipIdx).flatMap (fun (va, i) =>
    match va with
    | none => []
    | some a => if r.isTileLoad then rowLoads a t.rowLen (t.rowAt i) else rowStores a (k.row t i))

/-- Reads of a record of `n` bytes, in 16-byte units. -/
def recordElems (va n : Nat) : List Elem :=
  (List.range (n / 16)).map (fun u => { va := va + 16 * u, len := 16, off := 16 * u })

/-- The elements with which a request leaves its firing; a tile form gets its own when it begins. -/
def Req.elems (r : Req) : List Elem :=
  match r.instr with
  | .ld _ | .lda _ | .atom _ | .atmn _ | .watch _ => [{ va := addrOf r.a, len := r.bytes }]
  | .st _ | .str _ => [{ va := addrOf r.a, len := r.bytes, data := natLe r.bytes r.b.toNat }]
  | .pwld _ => recordElems (addrOf r.a) 1344
  | .lutld _ => recordElems (addrOf r.a) 2112
  | .wcfg _ => recordElems (addrOf r.a) 64
  | _ => []

/-- The memory requests of a core. -/
def State.memOf (s : State) (c : Nat) : List MemReq := s.memReqs.filter (fun m => s.devCore m.req.job m.req.core == some c)

/-- Places of a core (R359). -/
def memPlaces : Nat := 1024

/-- A request leaves its firing (commit step 4); none where no place is free (R359). A misaligned table answers at once,
with nothing read (R317), and so does an empty PREF (R366). -/
def State.enterMem (s : State) (c : Nat) (r : Req) : Option State :=
  let taken := countIf (fun m => m.req.placed) (s.memOf c)
  let begun := !r.tileForm && (match r.instr with | .wcfg _ | .watch _ | .pref _ => false | _ => true)
  if r.placed && decide (memPlaces ≤ taken) then none
  else
    match r.instr with
    | .pwld _ | .lutld _ =>
      if addrOf r.a % 64 ≠ 0 then some (s.answerStatus r 2 0 false)
      else some { s with memReqs := s.memReqs ++ [{ req := r, elems := r.elems, begun := begun }] }
    | .pref _ =>
      if r.b = 0 then some (s.answerCtrl r false)
      else some { s with memReqs := s.memReqs ++ [{ req := r, elems := [], begun := begun }] }
    | _ => some { s with memReqs := s.memReqs ++ [{ req := r, elems := r.elems, begun := begun }] }

/-! ## Translations held (R87) -/

/-- A translation of an address in the core's L1 or its die's L2 TLB. -/
def State.tlbFind (s : State) (c j va : Nat) : Option TlbEntry :=
  match (s.core c).tlb.find? (·.covers j va) with
  | some e => some e
  | none => (Table.getD s.tlbs (dieOf c) []).find? (·.covers j va)

/-- Fill both TLBs. -/
def State.fillTlbs (s : State) (c : Nat) (e : TlbEntry) : State :=
  (s.fillL2 (dieOf c) e).onCore c (fun k => { k with tlb := fillTlb 256 k.tlb e })

/-! ## What holds an element back -/

/-- The page that an address lies on, by the translation held or else by a fresh walk. -/
def State.pageOf (s : State) (c j va : Nat) : Option TlbEntry :=
  match s.tlbFind c j va with
  | some e => some e
  | none => match s.walk j va with | .ok e => some e | .error _ => none

/-- The page of an element: the one that it was sent under, which it keeps (R88), or the one that its address lies on. -/
def State.pageFor (s : State) (c j : Nat) (e : Elem) : Option TlbEntry :=
  match e.page with
  | some t => some t
  | none => s.pageOf c j e.va

/-- One name for each byte of storage: an address above the device's own id names its HBM (R69). -/
def storageOf (devnum pa : Nat) : Nat :=
  match homeOf devnum pa with
  | .hbm a => a
  | _ => pa

/-- Two runs of addresses meet. -/
def meets (x n y m : Nat) : Bool := decide (x < y + m) && decide (y < x + n)

/-- The elements that a request still has to perform; those it will have, for a tile form that has not begun. -/
def State.pendingElems (s : State) (c : Nat) (m : MemReq) : List Elem :=
  if m.req.tileForm && !m.begun then
    let k := s.core c
    let t : Tile := if m.req.isTileLoad then
        { fmt := m.req.memFmt, rows := m.req.loadShape.1 - 1, cols := m.req.loadShape.2 - 1, pitch := minPitch m.req.memFmt m.req.loadShape.2 }
      else k.opTile m.req.b
    k.tileElems m.req t
  else m.elems

/-- A WATCH that has not been performed. -/
def MemReq.watches (m : MemReq) : Bool := (match m.req.instr with | .watch _ => true | _ => false) && !m.begun

/-- An index of a tile form cannot be read yet, so that its elements are not known. -/
def State.indexUnknown (s : State) (c : Nat) (m : MemReq) : Bool :=
  let k := s.core c
  !m.begun && (match m.req.instr with
    | .tldi _ => (k.opTile m.req.b).st == .pending
    | .tsti _ => (k.opTile m.req.d).st == .pending
    | _ => false)

/-- The memory type of an element's page; NORMAL where it does not translate. -/
def State.typeFor (s : State) (c j : Nat) (e : Elem) : Nat :=
  match s.pageFor c j e with
  | some t => pteType t.leaf
  | none => 0

/-- Two elements touch the same bytes: by storage where both translate, else by the job's virtual address. -/
def State.overlap (s : State) (c j1 j2 : Nat) (a b : Elem) : Bool :=
  match s.pageFor c j1 a, s.pageFor c j2 b with
  | some p, some q => meets (storageOf s.devnum (p.at a.va)) a.len (storageOf s.devnum (q.at b.va)) b.len
  | _, _ => j1 == j2 && meets a.va a.len b.va b.len

/-- Two host elements touch one 64-byte unit: a core keeps one request outstanding to each (R234). -/
def State.sameHostUnit (s : State) (c j1 j2 : Nat) (a b : Elem) : Bool :=
  match s.pageFor c j1 a, s.pageFor c j2 b with
  | some p, some q => bitAt p.leaf 9 && bitAt q.leaf 9 && p.at a.va / 64 == q.at b.va / 64
  | _, _ => false

/-- An earlier element keeps a later one in the core: both on STRONG pages (R236), or both on one unit of the host. -/
def State.keepsIn (s : State) (c j1 j2 : Nat) (a b : Elem) : Bool :=
  s.sameHostUnit c j1 j2 a b || (s.typeFor c j1 a == 3 && s.typeFor c j2 b == 3)

/-- Two elements lie on one DEVICE page, in storage: an access above the device's own id is ordered as the same one through HBM (R69). -/
def State.sameDevicePage (s : State) (c j1 j2 : Nat) (a b : Elem) : Bool :=
  match s.pageFor c j1 a, s.pageFor c j2 b with
  | some p, some q => pteType p.leaf == 2 && pteType q.leaf == 2 && storageOf s.devnum p.pa == storageOf s.devnum q.pa
  | _, _ => false

/-- An element must be performed before a later one because of their pages (R236), or of their unit of the host (R234). -/
def State.pageOrder (s : State) (c j1 j2 : Nat) (a b : Elem) : Bool := s.keepsIn c j1 j2 a b || s.sameDevicePage c j1 j2 a b

/-- An earlier element of the core must be performed first: the same bytes (R234), or the order of their pages. -/
def State.before (s : State) (c : Nat) (j1 j2 : Nat) (a b : Elem) : Bool := s.overlap c j1 j2 a b || s.pageOrder c j1 j2 a b

/-- The operations that a core's firings issued before a request, in the order of R234: counted requests, table loads, and WATCHes that
have not been performed (log entry 39). -/
def State.issuedBefore (s : State) (c : Nat) (m : MemReq) : List MemReq :=
  (s.memOf c).filter (fun q => decide (q.req.id < m.req.id) && (q.req.counted || q.watches || !q.req.kernelSlots.isEmpty))

/-- The combiner of the core's die still holds stores of this core to bytes of an element that does not read past it (R234). -/
def State.combinerHolds (s : State) (c : Nat) (m : MemReq) (e : Elem) : Bool :=
  match s.pageFor c m.req.job e with
  | some t =>
    pteType t.leaf != 1 && (Table.getD s.wc (dieOf c) []).any (fun w =>
      w.cores.contains c && w.bytes.any (fun b => meets (64 * w.unit + b.1) 1 (storageOf s.devnum (t.at e.va)) e.len))
  | none => false

/-- Nothing earlier on the core holds element `n` of the request back (R234, R236). The request's own elements keep no order but that of
their pages (R235, R371). -/
def State.mayPerform (s : State) (c : Nat) (m : MemReq) (n : Nat) : Bool :=
  match m.elems[n]? with
  | none => true
  | some e =>
    (s.issuedBefore c m).all (fun q => !s.indexUnknown c q && (s.pendingElems c q).all (fun x => !s.before c q.req.job m.req.job x e))
      && !s.combinerHolds c m e && (m.elems.take n).all (fun x => !s.pageOrder c m.req.job m.req.job x e)

/-- An element is frozen (R89). -/
def Elem.isFrozen (e : Elem) : Bool := match e.st with | .frozen _ => true | _ => false

/-- The load slot is frozen at an element of the request: its other elements wait too (R89, R373). -/
def MemReq.frozen (m : MemReq) : Bool := m.elems.any Elem.isFrozen

/-- Element `i` of a request whose gate is open has left the core: it was sent, or nothing keeps it there, neither a translation, nor a
frozen slot, nor an earlier request, nor an earlier element of its own. -/
def State.elemLeft (s : State) (c : Nat) (m : MemReq) (e : Elem) (i : Nat) : Bool :=
  match e.st with
  | .away _ => true
  | .frozen _ => false
  | .waiting => !m.frozen && (s.pageFor c m.req.job e).isSome && (s.issuedBefore c m).all (fun q =>
      !s.indexUnknown c q && (s.pendingElems c q).all (fun x => !s.keepsIn c q.req.job m.req.job x e))
      && (m.elems.take i).all (fun x => !s.keepsIn c m.req.job m.req.job x e)

/-- A request whose gate is open has left the core (R230): it has its elements, and each of them has. -/
def State.leftCore (s : State) (c : Nat) (m : MemReq) : Bool :=
  (m.begun || !m.req.tileForm) && m.elems.zipIdx.all (fun p => s.elemLeft c m p.1 p.2)

/-- The request's first element lies on a WC page, where no gate applies (R236). -/
def State.onWc (s : State) (c : Nat) (m : MemReq) : Bool :=
  match m.elems.head? with
  | some e => s.typeFor c m.req.job e == 1
  | none => false

/-- The request's first element lies in host memory, where it acts with scope SYS (R229). -/
def State.onHost (s : State) (c : Nat) (m : MemReq) : Bool :=
  match m.elems.head? with
  | some e => (match s.pageFor c m.req.job e with | some t => pteHost t.leaf | none => false)
  | none => false

/-- The release has the scope FRAME or CORE. -/
def State.narrow (s : State) (c : Nat) (m : MemReq) : Bool := m.req.narrow && !s.onHost c m

/-- Walk a frame's requests in issue order up to request `rid`: whether every counted one before it has left, and whether none is left
to perform (R230). -/
def State.gateWalk (s : State) (c rid : Nat) : List MemReq → Bool → Bool → Bool × Bool
  | [], left, idle => (left, idle)
  | m :: ms, left, idle =>
    if rid ≤ m.req.id then (left, idle)
    else
      let gate := !m.req.release || s.onWc c m || (if s.narrow c m then left else idle)
      if m.req.counted then State.gateWalk s c rid ms (left && gate && s.leftCore c m) false else State.gateWalk s c rid ms left idle

/-- The release gate is open (R230). -/
def State.gateOpen (s : State) (c : Nat) (m : MemReq) : Bool :=
  let r := m.req
  if !r.release || s.onWc c m then true
  else
    let mine := s.memReqs.filter (fun q => q.req.job == r.job && q.req.inst == r.inst && q.req.core == r.core && q.req.frame == r.frame)
    let (left, idle) := s.gateWalk c r.id mine true true
    if s.narrow c m then left else idle

/-! ## Atomic operations (R363) -/

/-- The new value of an atomic (Table 13.2), from n bytes. -/
def atomicNew (aop n : Nat) (ty : ScalarTy) (old b d : Nat) : Nat :=
  let lt (x y : Nat) : Bool := if ty.signed then decide (sext (8 * n) x < sext (8 * n) y) else decide (x < y)
  match aop with
  | 0 => (old + b) % 2 ^ (8 * n)
  | 1 => if lt b old then b else old
  | 2 => if lt old b then b else old
  | 3 => old &&& b
  | 4 => old ||| b
  | 5 => old ^^^ b
  | 6 => b
  | 7 => if old = b then d else old
  | 8 => if b ≤ old then 0 else old + 1
  | 9 => rneFp32 (addVal (FloatFmt.fp32.val old) (FloatFmt.fp32.val b) false).1
  | _ =>
    let half (i : Nat) : Nat :=
      (roundTo .bf16 (addVal (FloatFmt.bf16.val (bits old i 16)) (FloatFmt.bf16.val (bits b i 16)) false).1 .rne false 0).1
    half 0 + half 16 * 2 ^ 16

/-- An operand of an atomic, read in its type (R363, Table 8.4): an ADDR takes bits [54:0]. -/
def operandIn (ty : ScalarTy) (x : W64) : Nat := if ty = .addr then bits x.toNat 0 55 else x.toNat

/-- The value layout of an answer (`vput`, R362). -/
def vput (ty : ScalarTy) (n x : Nat) : W64 :=
  match ty with
  | .s64 => BitVec.ofInt 64 (sext (8 * n) x)
  | .s32 => BitVec.ofInt 64 (sext 32 x)
  | .addr => BitVec.ofNat 64 (bits x 0 55)
  | _ => BitVec.ofNat 64 (x % 2 ^ (8 * n))

/-! ## Answers -/

/-- A value that no rule states, in a value type's layout (log entry 6). -/
def State.freeValue (s : State) (ty : ScalarTy) (n : Nat) : State × W64 :=
  let (s1, d) := s.draw
  (s1, vput ty n (Config.freeWord d).toNat)

/-- A record read is complete (R317, R318, R156). -/
def State.recordDone (s : State) (c : Nat) (m : MemReq) : State :=
  if m.discard then s else
  let r := m.req
  let k := s.core c
  let slot := bits r.m.mflg.toNat 0 4
  match r.instr with
  | .pwld _ =>
    if m.poison then s.answerStatus r 3 0 true
    else match polyOf (Memory.read m.got 0 1344) with
      | some x => (s.setCore c (k.loadPoly r.job slot x)).answerStatus r 0 0 false
      | none => s.answerStatus r 1 0 false
  | .lutld _ =>
    if m.poison then s.answerStatus r 3 0 true
    else match tableOf (Memory.read m.got 0 2112) with
      | some (lo, inv, pairs) => (s.setCore c (k.loadTable r.job slot lo inv pairs)).answerStatus r 0 0 false
      | none => s.answerStatus r 1 0 false
  | _ => s.takeRecord c r (if m.poison then none else some (Memory.read m.got 0 64))

/-- A tile load is complete: the tile is FULL and the answer names it (R370). A cancelled one gives its tile up. -/
def State.loadDone (s : State) (c : Nat) (m : MemReq) : State :=
  match m.tile with
  | none => s
  | some i =>
    let s1 := s.onCore c (fun k => k.onTile i (fun t => { t with st := .full, poison := t.poison || m.poison }))
    let (s2, limited) := if s1.proof && !fmtProof m.req.memFmt then (s1.serviceLimit m.req.job m.req.inst m.req.memFmt, true) else (s1, false)
    let s3 := if limited then s2.onCore c (fun k => k.onTile i (fun t => { t with poison := true })) else s2
    s3.answerTile c m.req i

/-- A response to another device's request (Table 1.10), from the die that holds its home. -/
def State.respond (s : State) (die job dst rid status : Nat) (bs : List Byte) : State :=
  s.sendRec die 3 { kind := 6, poison := status == 1, job := job, dst := dst, src := s.devnum, rid := rid, body := natLe 1 status ++ zeros 7 ++ bs }

/-- Requests that other devices placed here carry this job number plus the device's id. -/
def remoteJob : Nat := 4096

/-- The last element of a request is performed: its answer is sent. -/
def State.memDone (s : State) (c : Nat) (m : MemReq) : State :=
  let r := m.req
  let s1 := { s with memReqs := s.memReqs.filter (fun q => q.req.id != r.id) }
  if remoteJob ≤ r.job then
    s1.respond (roomOf r.a.toNat / 2) (r.inst % 64) (r.job - remoteJob) r.tag.toNat (if m.poison then 1 else 0) (if m.poison then [] else natLe r.bytes m.val)
  else
    match r.instr with
    | .ld _ | .lda _ => s1.answer r r.vty.code (if m.poison then 0 else vput r.vty r.bytes m.val) m.poison
    | .atom _ | .watch _ =>
      if m.poison then
        let (s2, v) := s1.freeValue r.vty r.bytes
        s2.answer r r.vty.code v true
      else s1.answer r r.vty.code (vput r.vty r.bytes m.val) false
    | .tld _ | .tldi _ => s1.loadDone c m
    | .pwld _ | .lutld _ | .wcfg _ => s1.recordDone c m
    | _ => s1.answerCtrl r m.poison

/-- Table loads whose bytes are all in replace their slots, in the order of their commits where they share one (R317). -/
def State.finishRecords (s : State) (c : Nat) : Nat → State
  | 0 => s
  | n + 1 =>
    match (s.memOf c).find? (fun m => !m.req.kernelSlots.isEmpty && m.elems.isEmpty &&
        (s.memOf c).all (fun q => decide (m.req.id ≤ q.req.id) || !q.req.kernelSlots.any m.req.kernelSlots.contains)) with
    | some m => State.finishRecords (s.memDone c m) c n
    | none => s

/-- Table loads of a core end, as many as can. -/
def State.endRecords (s : State) (c : Nat) : State := s.finishRecords c s.memReqs.length

/-! ## Elements performed -/

/-- What an element found. -/
inductive ElemGot where
  /-- bytes read -/
  | bytes (bs : List Byte)
  /-- written -/
  | done
  /-- the old value of an atomic, or the value a WATCH saw -/
  | value (v : Nat)
  /-- refused or poisoned -/
  | refused
  deriving DecidableEq, Repr

/-- A request with its element's outcome taken in. -/
def MemReq.take (m : MemReq) (n : Nat) (e : Elem) (g : ElemGot) : MemReq :=
  let m1 := { m with elems := removeAt m.elems n }
  match g with
  | .bytes bs => { m1 with val := leNat bs, got := if m.req.tileForm then m.got else Memory.write m.got e.off bs }
  | .done => m1
  | .value v => { m1 with val := v }
  | .refused => { m1 with poison := true, refused := m.refused + 1 }

/-- Element `n` of a request is performed or refused. Bytes of a tile load go to the tile; a refused unit stays zero
(R373). -/
def State.elemDone (s : State) (c rid n : Nat) (g : ElemGot) : State :=
  match s.memReqs.find? (fun m => m.req.id == rid) with
  | none => s
  | some m =>
    match m.elems[n]? with
    | none => s
    | some e =>
      let m1 := m.take n e g
      let s1 := match g with
        | .bytes bs => if m.req.isTileLoad then
            s.onCore c (fun k => ({ k with store := Memory.write k.store e.dest (bs.take e.off) }).touchTile (k.tile (m.tile.getD 0)) s.clock) else s
        | _ => s
      let s2 : State := { s1 with memReqs := s1.memReqs.map (fun q => if q.req.id = rid then m1 else q) }
      if !m1.elems.isEmpty then s2 else if m.req.kernelSlots.isEmpty then s1.memDone c m1 else s2.endRecords c

/-- Change the state of element `n` of a request. -/
def State.onElem (s : State) (rid n : Nat) (f : Elem → Elem) : State :=
  { s with memReqs := s.memReqs.map (fun m =>
      if m.req.id = rid then { m with elems := (m.elems.zipIdx).map (fun (e, i) => if i = n then f e else e) } else m) }

/-- The load slot's port (Tables 4.10, 4.11), by its logical core. -/
def loadPort (s : State) (c : Nat) (r : Req) : PortInfo :=
  { die := dieOf c, job := r.job, type := 0, num := c, inst := s.instId r.job r.inst,
    bytes := natLe 8 (framePtr r.frame r.core s.devnum).toNat ++ natLe 2 r.block ++ natLe 2 r.cent ++ zeros 36 }

/-- The refusal of an access on account of its page (R85, R91): the reason, if there is one. -/
def Req.pageRefuses (r : Req) (leaf : Nat) : Option Nat :=
  match denied leaf r.acc with
  | some x => some x
  | none =>
    let wc := bits leaf 2 2 == 1
    let host := bitAt leaf 9
    match r.instr with
    | .atom w | .atmn w =>
      if wc then some 8 else if host && !(w.aop == 0 || w.aop == 6 || w.aop == 7) then some 9 else none
    | .watch _ => if wc || host then some 8 else none
    | _ => none

/-- A store to a WC page is taken by the die's combiner (R237): bytes merge into the job's entry of the unit. A full combiner writes
its oldest entry first, and takes the store once that entry has left; whether it took it. -/
def State.combine (s : State) (c : Nat) (r : Req) (pa : Nat) (bs : List Byte) : State × Bool :=
  let die := dieOf c
  let es := Table.getD s.wc die []
  let unit := pa / 64
  let merged (old : Table Byte) : Table Byte := (bs.zipIdx).foldl (fun t (b, i) => Table.put t (pa % 64 + i) b) old
  let takes (e : WcEntry) : Bool := e.job == r.job && e.unit == unit && !e.sent
  let join (n : Nat) (ns : List Nat) : List Nat := if ns.contains n then ns else n :: ns
  if es.any takes then
    ({ s with wc := Table.put s.wc die (es.map (fun e =>
        if takes e then { e with bytes := merged e.bytes, insts := join r.inst e.insts, cores := join c e.cores } else e)) }, true)
  else
    let s1 := if es.length < 256 then s else match es.find? (fun e => !e.sent) with | some e => s.flushEntry die e | none => s
    let rest := Table.getD s1.wc die []
    if 256 ≤ rest.length then (s1, false)
    else ({ s1 with wc := Table.put s1.wc die (rest ++ [{ job := r.job, unit := unit, bytes := merged [], insts := [r.inst], cores := [c] }]) }, true)

/-- An atomic at its home in HBM: read and write in one step (R225, R363). An exchange writes whatever it finds. -/
def State.atomicAt (s : State) (job : Option Nat) (pa n aop : Nat) (ty : ScalarTy) (b d : Nat) : State × ElemGot :=
  match s.devRead job pa n with
  | (s1, .data bs) =>
    let old := leNat bs
    let new := atomicNew aop n ty old (b % 2 ^ (8 * n)) (d % 2 ^ (8 * n))
    if new = old && aop != 6 then (s1, .value old)
    else
      match s1.hbmWrite job pa (natLe n new) with
      | (s2, .data _) => (s2, .value old)
      | (s2, _) => (s2, .refused)
  | (s1, _) => (s1, .refused)

/-- WATCHes that a room's controller holds (R368). -/
def State.watchesIn (s : State) (room : Nat) : Nat :=
  countIf (fun m => m.since.isSome && (match m.elems with | [e] => roomOf e.dest == room | _ => false)) s.memReqs

/-- A WATCH that came to the room's controller earlier, and found its table full, is still to enter it (R368). -/
def State.watchAhead (s : State) (m : MemReq) (room : Nat) : Bool :=
  s.memReqs.any (fun q => match q.queued with
    | some n => q.since.isNone && q.elems.any (fun e => roomOf e.dest == room) && (match m.queued with | some k => decide (n < k) | none => true)
    | none => false)

/-- Change a WATCH and its place. -/
def State.setWatch (s : State) (rid pa : Nat) (page : Option TlbEntry) (f : MemReq → MemReq) : State :=
  { s with memReqs := s.memReqs.map (fun q =>
      if q.req.id = rid then f { q with elems := q.elems.map (fun e => { e with dest := pa, page := page }) } else q) }

/-- A WATCH at its home (R240, R367): it arrives, if the controller has a place, and is performed once the location differs; what a
write performed (`begun`) is answered. -/
def State.watchAt (s : State) (c rid : Nat) (job : Option Nat) (pa : Nat) (page : Option TlbEntry) : State :=
  match s.memReqs.find? (fun m => m.req.id == rid) with
  | none => s
  | some m =>
    if m.begun then s.elemDone c rid 0 (.value m.val)
    else if m.since.isSome then s
    else if decide (1024 ≤ s.watchesIn (roomOf pa)) || s.watchAhead m (roomOf pa) then
      if m.queued.isSome then s
      else let (s1, id) := s.fresh; s1.setWatch rid pa page (fun q => { q with queued := some id })
    else
      match s.devRead job pa m.req.bytes with
      | (s1, .data bs) =>
        if leNat bs = m.req.b.toNat % 2 ^ (8 * m.req.bytes) then s1.setWatch rid pa page (fun q => { q with since := some s.time.toNat })
        else s1.elemDone c rid 0 (.value (leNat bs))
      | (s1, _) => s1.elemDone c rid 0 .refused

/-- The record that asks another device to perform an element (Table 1.10). -/
def Req.record (r : Req) (s : State) (dev pa rid : Nat) (e : Elem) : LinkRec :=
  let rec_ (kind : Nat) (body : List Byte) : LinkRec := { kind := kind, job := r.job, dst := dev, src := s.devnum, rid := rid, body := body }
  match r.instr with
  | .st _ | .str _ | .tst _ | .tsti _ => rec_ 3 (natLe 8 pa ++ natLe 4 e.len ++ zeros 4 ++ e.data)
  | .atom w | .atmn w => rec_ 4 (natLe 8 pa ++ natLe 1 w.wid.toNat ++ natLe 1 w.aop.toNat ++ zeros 6 ++ natLe 8 (operandIn r.vty r.b)
      ++ natLe 8 (operandIn r.vty r.d))
  | .watch w => rec_ 5 (natLe 8 pa ++ natLe 1 w.wid.toNat ++ zeros 7 ++ natLe 8 r.b.toNat ++ natLe 8 r.d.toNat)
  | _ => rec_ 2 (natLe 8 pa ++ natLe 4 e.len ++ zeros 4)

/-- The element leaves for the host or for another device, under its translation. -/
def State.sendElem (s : State) (rid n : Nat) (t : TlbEntry) : State × Nat :=
  let (s1, id) := s.fresh
  (s1.onElem rid n (fun e => { e with st := .away id, page := some t }), id)

/-- The access of an element is refused, with its record (R91). -/
def State.refuseElem (s : State) (c : Nat) (r : Req) (n : Nat) (e : Elem) (f : WalkFault) : State :=
  (s.permFault (loadPort s c r) e.va r.acc f).elemDone c r.id n .refused

/-- A store to a WC page, whatever the home of the page (R236, R237): one above another device's memory is refused here, as the answer
to its write would be (R69). -/
def State.storeWc (s : State) (c : Nat) (r : Req) (n : Nat) (e : Elem) (t : TlbEntry) : State :=
  let pa := t.at e.va
  let hole := match homeOf s.devnum pa with | .hole => true | .fabric _ a => decide (hbmBytes ≤ a) | _ => false
  if hole then s.refuseElem c r n e (t.denies 6)
  else
    match s.combine c r (storageOf s.devnum pa) e.data with
    | (s1, true) => s1.elemDone c r.id n .done
    | (s1, false) => s1

/-- An element at its physical address. -/
def State.performAt (s : State) (c : Nat) (m : MemReq) (n : Nat) (e : Elem) (t : TlbEntry) (ecc : EccOutcome) : State :=
  let r := m.req
  let job := some r.job
  if r.acc == .write && pteType t.leaf == 1 then s.storeWc c r n e t
  else
    match homeOf s.devnum (t.at e.va) with
    | .hole => s.refuseElem c r n e (t.denies 6)
    | .fabric dev a =>
      let (s1, id) := s.sendElem r.id n t
      s1.sendRec (dieOf c) 2 (r.record s dev a id e)
    | .host a => if s.spanPasses a e.len then (s.sendElem r.id n t).1 else s
    | .hbm a =>
      match r.acc with
      | .write =>
        match s.devWrite job a e.data with
        | (s1, .data _) => s1.elemDone c r.id n .done
        | (s1, _) => s1.elemDone c r.id n .refused
      | .atomic =>
        let (s1, g) := (s.hbmEcc a e.len ecc).atomicAt job a r.bytes r.m.aop.toNat r.vty (operandIn r.vty r.b) (operandIn r.vty r.d)
        s1.elemDone c r.id n g
      | _ =>
        let s0 := s.hbmEcc a e.len ecc
        match r.instr with
        | .watch _ => s0.watchAt c r.id job a (some t)
        | _ =>
          match s0.devRead job a e.len with
          | (s1, .data bs) => s1.elemDone c r.id n (.bytes bs)
          | (s1, _) => s1.elemDone c r.id n .refused

/-- One unit of a PREF (R72, R366): a room that sleeps begins to wake; a unit that does not translate is passed over, and a walk that met
a refused floor leaves its FLOOR_DARK (R73). -/
def State.prefUnit (s : State) (die j va : Nat) : State :=
  let s1 := s.look die j va
  match s1.walk j va with
  | .error f => s1.darkWalk j f
  | .ok e =>
    match homeOf s1.devnum (e.at va) with
    | .hbm a =>
      if (s1.room (roomOf a)).lit then s1
      else { s1 with rooms := Table.modify s1.rooms (roomOf a) {} (fun m => { m with waking := true }) }
    | _ => s1

/-- Rooms that wake. -/
def State.waking (s : State) : List Nat := (s.rooms.filter (fun p => p.2.waking)).map (·.1)

/-- Number of 64 KiB units of a PREF. -/
def Req.prefUnits (r : Req) : Nat := (addrOf r.a + r.b.toNat - 1) / 65536 - addrOf r.a / 65536 + 1

/-- Rooms that a PREF's range translates to. -/
def State.prefRooms (s : State) (r : Req) : List Nat :=
  (upFrom (addrOf r.a / 65536) r.prefUnits).filterMap (fun u =>
    match s.walk r.job (u * 65536) with
    | .ok e => (match homeOf s.devnum (e.at (u * 65536)) with | .hbm a => some (roomOf a) | _ => none)
    | .error _ => none)

/-- PREF (R366): every translation is filled and every room that sleeps begins to wake; it answers once each room that it woke has come to
be LIT. -/
def State.performPref (s : State) (c : Nat) (m : MemReq) : State :=
  let r := m.req
  let s1 := if m.begun then s else (upFrom (addrOf r.a / 65536) r.prefUnits).foldl (fun t u => t.prefUnit (dieOf c) r.job (u * 65536)) s
  let woke := if m.begun then m.woke else (s1.prefRooms r).filter (fun q => (s1.room q).waking)
  if woke.all (fun q => !(s1.room q).waking) then s1.memDone c m
  else { s1 with memReqs := s1.memReqs.map (fun q => if q.req.id = r.id then { q with begun := true, woke := woke } else q) }

/-- WCFG claims the lowest free walker, in arrival order (R155). -/
def State.claimWalker (s : State) (c : Nat) (m : MemReq) : State :=
  let older := (s.memOf c).any (fun q => !q.begun && decide (q.req.id < m.req.id) && (match q.req.instr with | .wcfg _ => true | _ => false))
  match (s.core c).freeWalker with
  | some w =>
    if older then s
    else
      let s1 := s.onWalker c w (fun x => { x with loading := some m.req.id })
      if addrOf m.req.a % 64 ≠ 0 then
        ({ s1 with memReqs := s1.memReqs.filter (fun q => q.req.id != m.req.id) }).takeRecord c m.req none
      else { s1 with memReqs := s1.memReqs.map (fun q => if q.req.id = m.req.id then { q with begun := true } else q) }
  | none => s

/-- A WCFLUSH reaches the combiner behind the stores to WC pages that left its core for its job before it (R237, as the litmus run
"Write-combining without a flush", variant b, has it). A frozen store, and one that has not its elements yet, were never sent. -/
def State.flushReady (s : State) (c : Nat) (m : MemReq) : Bool :=
  (s.memOf c).all (fun q =>
    q.req.job != m.req.job || decide (m.req.id ≤ q.req.id) || q.req.acc != .write || !s.leftCore c q
      || q.elems.all (fun e => s.typeFor c q.req.job e != 1))

/-- WCFLUSH writes the job's entries of its die's combiner, and is answered once they are performed (R237). Log entry 53. -/
def State.performFlush (s : State) (c : Nat) (m : MemReq) : State :=
  if s.flushReady c m then
    let s1 := s.flushDie (dieOf c) (fun e => e.job == m.req.job)
    if (Table.getD s1.wc (dieOf c) []).any (fun e => e.job == m.req.job) then s1 else s1.memDone c m
  else s

/-- Element `n` of a request waits, and nothing holds it back. -/
def State.elemTurn (s : State) (c : Nat) (m : MemReq) (n : Nat) : Option Elem :=
  match m.elems[n]? with
  | some e =>
    if e.st == .waiting && !m.frozen && (m.begun || !m.req.tileForm) && s.gateOpen c m && s.mayPerform c m n then some e else none
  | none => none

/-- MEMORY_PERFORM: element `n` of request `rid` is performed, if nothing holds it back and its translation is held. -/
def State.performMem (s : State) (rid n : Nat) (ecc : EccOutcome) : State :=
  match s.memReqs.find? (fun m => m.req.id == rid) with
  | none => s
  | some m =>
    let r := m.req
    match s.devCore r.job r.core with
    | none => if remoteJob ≤ r.job then s.watchAt 0 rid none r.a.toNat none else s
    | some c =>
      match r.instr with
      | .drain _ => if s.gateOpen c m then s.memDone c m else s
      | .wcflush _ => s.performFlush c m
      | .pref _ => s.performPref c m
      | _ =>
        if (match r.instr with | .wcfg _ => !m.begun | _ => false) then s.claimWalker c m
        else
          match s.elemTurn c m n with
          | none => s
          | some e =>
            match s.tlbFind c r.job e.va with
            | none => s
            | some t =>
              match r.pageRefuses t.leaf with
              | some reason => s.refuseElem c r n e (t.denies reason)
              | none => s.performAt c m n e t ecc

/-- PAGE_WALK: the walk for an element whose translation is not held (R86): it fills both TLBs, or faults. A not-present fault freezes
the load slot (R89); any other refuses the element (R91). -/
def State.pageWalkMem (s : State) (rid n : Nat) : State :=
  match s.memReqs.find? (fun m => m.req.id == rid) with
  | none => s
  | some m =>
    match s.devCore m.req.job m.req.core with
    | none => s
    | some c =>
      match s.elemTurn c m n with
      | none => s
      | some e =>
        if (s.tlbFind c m.req.job e.va).isSome then s
        else
          let s0 := s.touchTables m.req.job e.va
          match s0.walk m.req.job e.va with
          | .ok t => s0.fillTlbs c t
          | .error f =>
            if f.kind = 0 then
              let (s1, id) := s0.absentFault (loadPort s c m.req) m.req.inst (.load rid n) e.va m.req.acc f
              s1.onElem rid n (fun x => { x with st := .frozen id })
            else s0.refuseElem c m.req n e f

/-! ## Tile memory forms begin (R148, R370 to R372) -/

/-- A tile load is granted its tile, or a tile store reads its tile; the index tile is read and released. -/
def State.startMemTile (s : State) (c rid : Nat) (gs : List TileGrant) : State :=
  match s.memReqs.find? (fun m => m.req.id == rid && m.req.tileForm && !m.begun) with
  | none => s
  | some m =>
    let r := m.req
    let k := s.core c
    if !s.tileReady c r || r.handles.any (fun h => (k.opTile h).st == .pending) || (r.makes && s.queuedAhead c r) then s
    else
      let (rows, cols) := r.loadShape
      let asks := if r.isTileLoad then [(r.memFmt, rows, cols)] else []
      match k.makeAll s.clock r.job r.inst .pending asks gs with
      | none => s
      | some (k1, made) =>
        let t := if r.isTileLoad then k1.tile (made.headD 0) else k1.opTile r.b
        let es := k1.tileElems r t
        let m1 := { m with begun := true, tile := made.head?, elems := es }
        let k2 := k1.touchOperands r s.clock
        let s1 := s.setCore c (k2.releaseOperands r [])
        if es.isEmpty then s1.memDone c m1
        else { s1 with memReqs := s1.memReqs.map (fun q => if q.req.id = rid then m1 else q) }

/-! ## Responses -/

/-- The host returns the data or completion of a device access, which performs it (R242); `ok` false stands for an error,
which answers poisoned. -/
def State.hostAnswer (s : State) (rid n : Nat) (ok : Bool) : State :=
  match s.memReqs.find? (fun m => m.req.id == rid) with
  | none => s
  | some m =>
    match s.devCore m.req.job m.req.core, m.elems[n]? with
    | some c, some e =>
      match e.st, e.page with
      | .away _, some t =>
        match homeOf s.devnum (t.at e.va) with
        | .host a =>
          if !s.spanPasses a e.len then s
          else if !ok then s.elemDone c rid n .refused
          else
            match m.req.acc with
            | .write => (s.hostWrite a e.data).elemDone c rid n .done
            | .atomic =>
              let len := m.req.bytes
              let old := leNat (s.hostRead a len)
              let ty := m.req.vty
              let new := atomicNew m.req.m.aop.toNat len ty old (operandIn ty m.req.b % 2 ^ (8 * len)) (operandIn ty m.req.d % 2 ^ (8 * len))
              (s.hostWrite a (natLe len new)).elemDone c rid n (.value old)
            | _ => s.elemDone c rid n (.bytes (s.hostRead a e.len))
        | _ => s
      | _, _ => s
    | _, _ => s

/-- The element that another device's response answers: the request and the element's number. -/
def State.awayElem (s : State) (id : Nat) : Option (MemReq × Nat) :=
  s.memReqs.findSome? (fun m => ((m.elems.zipIdx).find? (fun p => p.1.st == .away id)).map (fun p => (m, p.2)))

/-- A response to an element of a core's request (R69, R241). -/
def State.elemResponse (s : State) (m : MemReq) (n id dev status : Nat) (bs : List Byte) : State :=
  match s.devCore m.req.job m.req.core, m.elems[n]? with
  | some c, some e =>
    let pa := match e.page with | some t => t.at e.va % 2 ^ 41 | none => 0
    let (s1, g) := s.fabricOutcome (loadPort s c m.req) e.va m.req.acc e.page dev pa id (if status = 3 then 0 else status) bs
    match g with
    | none => s1.elemDone c m.req.id n .refused
    | some xs =>
      s1.elemDone c m.req.id n (match m.req.instr with
        | .atom _ | .atmn _ | .watch _ => .value (leNat xs)
        | _ => if m.req.acc == .write then .done else .bytes xs)
  | _, _ => s

/-- A WATCH's timeout passes (R240): it is performed as a load of the current value. -/
def State.watchExpires (s : State) (rid : Nat) : State :=
  match s.memReqs.find? (fun m => m.req.id == rid) with
  | none => s
  | some m =>
    match m.since, m.elems, m.req.instr with
    | some t, [e], .watch _ =>
      if m.req.d = 0 || decide (s.time.toNat < t + m.req.d.toNat) then s
      else
        let c := (s.devCore m.req.job m.req.core).getD 0
        if m.begun then s.elemDone c rid 0 (.value m.val)
        else
          match s.devRead (if remoteJob ≤ m.req.job then none else some m.req.job) e.dest m.req.bytes with
          | (s1, .data bs) =>
            if remoteJob ≤ m.req.job then
              ({ s1 with memReqs := s1.memReqs.filter (fun q => q.req.id != rid) }).respond (roomOf e.dest / 2) (m.req.inst % 64) (m.req.job - remoteJob)
                m.req.tag.toNat 3 bs
            else s1.elemDone c rid 0 (.value (leNat bs))
          | (s1, _) => s1.elemDone c rid 0 .refused
    | _, _, _ => s

end Sys2Proof.Machine
end

