-- ==== Sys2Proof/Machine/CopyReqs.lean ====
section
/-! DEFINITION. The copy engines (R163, R239, R374 to R377): requests in their queues, their checks, the copying unit by
unit, the stamp and the completion. -/

namespace Sys2Proof.Machine

/-- Requests that one die's engine holds (R163). -/
def copyPlaces : Nat := 512

/-- The queue that a CPY or CPYR names. -/
def Req.copyQueue (r : Req) : Nat := bits r.m.mflg.toNat 0 4

/-- The request carries a stamp. -/
def Req.stamped (r : Req) : Bool := bitAt r.m.mflg.toNat 4

/-- The 32 bytes that a CPYR takes from T0 to T3; a CPY reads them later (R374). -/
def Req.copyBytes (r : Req) : Option (List Byte) :=
  match r.instr with
  | .cpyr _ => some (r.q.flatMap (fun w => natLe 8 w.toNat))
  | _ => none

/-- A CPY or CPYR reaches its die's engine; none where the engine is full (R163). -/
def State.enterCopy (s : State) (c : Nat) (r : Req) : Option State :=
  let die := dieOf c
  if decide (copyPlaces ≤ countIf (fun x => x.die == die) s.copies) then none
  else
    let key := 16 * die + r.copyQueue
    let n := Table.getD (s.job r.job).copyIndex key 0
    let x : CopyReq := { req := r, die := die, queue := r.copyQueue, index := n, bytes := r.copyBytes }
    some (({ s with copies := s.copies ++ [x] }).onJob r.job (fun j => { j with copyIndex := Table.put j.copyIndex key (n + 1) }))

/-! ## Fields (Table 13.4) -/

/-- Field of the request's bytes. -/
def CopyReq.field (x : CopyReq) (o n : Nat) : Nat := recNat (x.bytes.getD []) o n

/-- `NROW`. -/
def CopyReq.nrow (x : CopyReq) : Nat := x.field 0x14 2

/-- Units of a row. -/
def CopyReq.units (x : CopyReq) : Nat := x.field 0x10 4 / 16

/-- A reserved field is not zero (BADREQ). -/
def CopyReq.reserved (x : CopyReq) : Bool :=
  decide (2 ^ 55 ≤ x.field 0 8) || decide (2 ^ 55 ≤ x.field 8 8) || x.field 0x16 2 != 0

/-- The status ALIGN applies. -/
def CopyReq.misaligned (x : CopyReq) : Bool :=
  x.field 0 8 % 16 != 0 || x.field 8 8 % 16 != 0 || x.field 0x10 4 % 16 != 0 || x.field 0x18 4 % 16 != 0
    || x.field 0x1C 4 % 16 != 0 || (x.req.stamped && addrOf x.req.b % 8 != 0)

/-- Source address of the next unit (R377). -/
def CopyReq.src (x : CopyReq) : Nat :=
  wrapInt 64 ((x.field 0 8 : Int) + (x.row : Int) * sext 32 (x.field 0x18 4) + ((16 * x.unit : Nat) : Int))

/-- Destination address of the next unit. -/
def CopyReq.dst (x : CopyReq) : Nat :=
  wrapInt 64 ((x.field 8 8 : Int) + (x.row : Int) * sext 32 (x.field 0x1C 4) + ((16 * x.unit : Nat) : Int))

/-- Every unit is done. -/
def CopyReq.copied (x : CopyReq) : Bool := x.units == 0 || decide (x.nrow ≤ x.row)

/-- The next unit, this one refused or poisoned or not. -/
def CopyReq.next (x : CopyReq) (bad : Bool) : CopyReq :=
  let y := { x with bad := if bad then min (x.bad + 1) (2 ^ 56 - 1) else x.bad, srcBad := false, refRead := false, refWrite := false }
  if x.unit + 1 < x.units then { y with unit := x.unit + 1 } else { y with unit := 0, row := x.row + 1 }

/-- The queue's port (Tables 4.10, 4.11). -/
def copyPort (s : State) (x : CopyReq) : PortInfo :=
  { die := x.die, job := x.req.job, type := 2, num := x.queue, inst := s.instId x.req.job x.req.inst,
    bytes := natLe 8 x.index ++ natLe 8 (x.row * x.units + x.unit) ++ zeros 32 }

/-- Number of the next unit, and of units. -/
def CopyReq.now (x : CopyReq) : Nat := x.row * x.units + x.unit
/-- Units of the payload. -/
def CopyReq.total (x : CopyReq) : Nat := x.nrow * x.units

/-- The keys of a queue's accesses. -/
def copyWork (die job queue : Nat) : List Nat := [2, die, job, queue]

/-- The keys of the accesses for the next unit: 0 for its read, 1 for its write; 2 for the request's own bytes, and 3 for the stamp. -/
def CopyReq.owner (x : CopyReq) (phase : Nat) : List Nat := copyWork x.die x.req.job x.queue ++ [phase, x.now]

/-! ## Progress -/

/-- Put a request back in its queue, changed. -/
def State.putCopy (s : State) (x : CopyReq) : State :=
  { s with copies := s.copies.map (fun y => if y.req.id = x.req.id then x else y) }

/-- The request completes: it leaves its queue, and its STATUS is sent (Table 13.5). -/
def State.endCopy (s : State) (x : CopyReq) (code : Nat) (poison : Bool) : State :=
  ({ s with copies := s.copies.filter (fun y => y.req.id != x.req.id) }).answerStatus x.req code x.bad poison

/-- A not-present fault freezes the queue (R377). -/
def State.freezeCopy (s : State) (x : CopyReq) (va : Nat) (acc : Acc) (f : WalkFault) : State :=
  let (s1, id) := s.absentFault (copyPort s x) x.req.inst (.copy x.die x.req.job x.queue) va acc f
  s1.putCopy { x with frozen := some id, faultWrite := acc == .write }

/-- How an access of the queue ended. -/
inductive CopyStep where
  /-- go on with the request as it now is -/
  | go (s : State) (x : CopyReq)
  /-- it waits or has frozen, or is complete -/
  | stop (s : State)

/-- CPY reads its request (R374, R376). -/
def State.readCopy (s : State) (x : CopyReq) : CopyStep :=
  let us := (unitsAt (addrOf x.req.a) 32).map (fun u => { u with refuse := x.refRead })
  match s.engine (copyPort s x) (x.owner 2) us with
  | .wait t => .stop (t.putCopy x)
  | .absent va acc f => .stop (s.freezeCopy x va acc f)
  | .done t got =>
    match joinUnits got with
    | some bs => let y := { x with bytes := some bs, refRead := false }; .go (t.putCopy y) y
    | none => .stop (t.endCopy x 4 true)

/-- Check the request's fields (R376); ALIGN writes a fault record of its own. -/
def State.checkCopy (s : State) (x : CopyReq) : CopyStep :=
  if x.reserved then .stop (s.endCopy x 3 false)
  else if x.misaligned then
    let (s1, id) := s.nextFault x.req.job x.die
    let p := copyPort s x
    .stop ((s1.queueFault x.die
      { id := id, job := x.req.job, kind := 1, reason := 0x0B, access := 0, portType := 2, portNum := x.queue,
        va := x.field 0 8, entry := 0, level := 0, inst := BitVec.ofNat 32 p.inst, port := p.bytes, time := s1.time }).endCopy x 1 false)
  else .go s x

/-- Write one unit's bytes, or its poison where the read gave none. Poison of a unit at home is noted, and takes effect
when the other units are written (log entry 40); on a DEVICE page, whose units keep their order (R236), it is written at once. -/
def State.writeCopy (s : State) (x : CopyReq) (g : Option (List Byte)) : CopyStep :=
  let home : Option Nat :=
    if s.fabric.any (fun f => f.owner == x.owner 1) then none
    else
      match s.translate x.req.job x.dst .write with
      | .ok (pa, e) =>
        (match homeOf s.devnum pa with
          | .hbm a => if (s.floor (floorOf a)).st.open && bits e.leaf 2 2 != 2 then some a else none
          | _ => none)
      | .error _ => none
  match g, home with
  | none, some a =>
    if x.refWrite then .go s (x.next true) else .go s { x.next true with marks := x.marks ++ [a / 64] }
  | _, _ =>
    let (s0, bytes) : State × List Byte := match g with
      | some bs => (s, bs)
      | none => let (t, d) := s.drawMany 16; (t, (List.range 16).map (fun i => Config.freeByte (d + i)))
    let u : EngUnit := { va := x.dst, len := 16, data := some bytes, poison := g.isNone, refuse := x.refWrite }
    match s0.engine (copyPort s x) (x.owner 1) [u] with
    | .wait t => .stop (t.putCopy { x with srcBad := g.isNone })
    | .absent va acc f => .stop (s.freezeCopy x va acc f)
    | .done t got => .go t (x.next (g.isNone || got.any (·.isNone)))

/-- One unit (R377): where it is not present at either end the queue freezes with nothing of it done. A unit whose read, or whose write, has
been performed or asked for goes on from there. -/
def State.copyUnit (s : State) (x : CopyReq) : CopyStep :=
  let port := copyPort s x
  let r : EngUnit := { va := x.src, len := 16, refuse := x.refRead }
  let w : EngUnit := { va := x.dst, len := 16, data := some (zeros 16), refuse := x.refWrite }
  let done (c : CopyStep) : CopyStep := match c with
    | .go t y => .go ((t.dropOwner (x.owner 0)).dropOwner (x.owner 1)) y
    | .stop t => .stop t
  let spoilt := x.srcBad || (match s.fabricFind (x.owner 0) false x.src 16 with | some q => q.answer.isSome && q.got.isNone | none => false)
  if s.fabric.any (fun f => f.owner == x.owner 1) then done (s.writeCopy x (if spoilt then none else some (zeros 16)))
  else
    match (s.firstAbsent (x.owner 0) x.req.job [r]).or (s.firstAbsent (x.owner 1) x.req.job [w]) with
    | some (va, acc, f) => .stop (s.freezeCopy x va acc f)
    | none =>
      match s.engine port (x.owner 0) [r] with
      | .wait t => .stop (t.putCopy x)
      | .absent va acc f => .stop (s.freezeCopy x va acc f)
      | .done t got => done (t.writeCopy x (joinUnits got))

/-- The request at its unit of this number. -/
def CopyReq.at (x : CopyReq) (k : Nat) : CopyReq := { x with row := k / x.units, unit := k % x.units }

/-- The read, or the write, of one unit is performed by itself (R235, R377): a write once its read has been performed, of what it gave or of
its poison. On a DEVICE page only the next unit is (R236). -/
def State.copyEarly (s : State) (x : CopyReq) (k : Nat) (write : Bool) : State :=
  let y := x.at k
  if decide (k < x.now) || decide (x.total ≤ k) || (k == x.now && (x.refRead || x.refWrite || x.srcBad)) then s
  else if !write then s.performEarly (copyPort s y) (y.owner 0) { va := y.src, len := 16 } (k == x.now)
  else
    match s.fabricFind (y.owner 0) false y.src 16 with
    | some q =>
      if q.answer.isNone then s
      else
        let (s1, bytes) : State × List Byte := match q.got with
          | some bs => (s, bs)
          | none => let (t, d) := s.drawMany 16; (t, (List.range 16).map (fun i => Config.freeByte (d + i)))
        s1.performEarly (copyPort s y) (y.owner 1) { va := y.dst, len := 16, data := some bytes, poison := q.got.isNone } (k == x.now)
    | none => s

/-- A unit of the bytes of a CPY's request is read by itself (R224). -/
def State.requestEarly (s : State) (x : CopyReq) (k : Nat) : State :=
  let us := unitsAt (addrOf x.req.a) 32
  match us[k]? with
  | some u => s.performEarly (copyPort s x) (x.owner 2) { u with refuse := x.refRead } ((us.take k).all (fun v => s.unitDone (x.owner 2) v))
  | none => s

/-- Units in order until one waits: at most `n` of them. -/
def State.copyUnits (s : State) (x : CopyReq) : Nat → CopyStep
  | 0 => .go s x
  | n + 1 =>
    if x.copied then .go s x
    else
      match s.copyUnit x with
      | .go t y => State.copyUnits (t.putCopy y) y n
      | .stop t => .stop t

/-- The payload is written: units that are to be poisoned are, each a write of 16 bytes (R71, R79, R81). -/
def State.markCopied (s : State) (x : CopyReq) : State := x.marks.foldl (fun t u => (t.writePoison x.req.job (64 * u) 16).1) s

/-- The stamp, after every payload write (R239), and the completion. A stamp that is refused makes the status PARTIAL, and is none of the
16-byte units that the token counts. -/
def State.stampCopy (s : State) (x : CopyReq) : State :=
  let finish (t : State) (y : CopyReq) : State := t.endCopy y (if y.bad = 0 then 0 else 2) (y.bad != 0)
  if x.req.stamped then
    let u : EngUnit := { va := addrOf x.req.b, len := 8, data := some (natLe 8 x.req.d.toNat), refuse := x.refWrite }
    match s.engine (copyPort s x) (x.owner 3) [u] with
    | .wait t => t.putCopy x
    | .absent va acc f => s.freezeCopy x va acc f
    | .done t got => if got.any (·.isNone) then t.endCopy x 2 true else finish t x
  else finish s x

/-- Payload, marks and stamp of a checked request. -/
def State.runCopy (s : State) (x : CopyReq) : State :=
  match s.copyUnits x (x.nrow * x.units) with
  | .stop t => t
  | .go t y => (t.markCopied y).stampCopy { y with marks := [] }

/-- A write of a request that was given up at the queue's head is still to be performed. -/
def State.copyOut (s : State) (die j q : Nat) : Bool :=
  s.fabric.any (fun r => r.write && r.owner.take 2 == [0, j] && r.owner.drop 4 == [die, q])

/-- The request at the head of a job's queue on a die, unless it is frozen, or writes of an earlier one are still to be performed (R239). -/
def State.copyAt (s : State) (die j q : Nat) : Option CopyReq :=
  match s.copies.find? (fun x => x.die == die && x.req.job == j && x.queue == q) with
  | some x => if x.frozen.isSome || s.copyOut die j q then none else some x
  | none => none

/-- The request at the head of a job's queue on a die (R374 to R377): read, checked and performed as far as it goes. -/
def State.copyHead (s : State) (die j q : Nat) : State :=
  match s.copyAt die j q with
  | none => s
  | some x =>
    let read : CopyStep := match x.bytes with
      | some _ => .go s x
      | none => s.readCopy x
    match read with
    | .stop t => t
    | .go t y =>
      match t.checkCopy y with
      | .stop u => u
      | .go u z => u.runCopy z

/-- Units of the request at a queue's head that are performed by themselves, once it has passed its checks; or those of its own bytes. -/
def State.copySome (s : State) (die j q : Nat) (units : List (Nat × Bool)) : State :=
  match s.copyAt die j q with
  | none => s
  | some x =>
    if x.bytes.isNone then units.foldl (fun t u => t.requestEarly x u.1) s
    else if x.reserved || x.misaligned then s
    else units.foldl (fun t u => t.copyEarly x u.1 u.2) s

end Sys2Proof.Machine
end

