-- ==== Sys2Proof/Machine/RouteReqs.lean ====
section
/-! DEFINITION. The routing engines (R175 to R195, R383 to R385): batches and their participants, selection, assignment,
the route record, scatter, combine and the bias block. -/

namespace Sys2Proof.Machine

/-! ## Descriptors (Table 7.1) -/

/-- E. -/
def dE (d : List Byte) : Nat := recNat d 6 2 + 1
/-- G. -/
def dG (d : List Byte) : Nat := recNat d 8 1
/-- `KG`. -/
def dKG (d : List Byte) : Nat := recNat d 9 1
/-- `KGE`. -/
def dKGE (d : List Byte) : Nat := recNat d 10 1
/-- C. -/
def dC (d : List Byte) : Nat := dKG d * dKGE d
/-- `SVBASE`. -/
def dSvBase (d : List Byte) : Nat := recNat d 11 1
/-- `NTOK`. -/
def dNtok (d : List Byte) : Nat := recNat d 12 4
/-- `BIAS`. -/
def dBias (d : List Byte) : Bool := bitAt (recNat d 5 1) 0
/-- `EXPORT`. -/
def dExport (d : List Byte) : Bool := bitAt (recNat d 5 1) 1
/-- `RREC`. -/
def dRrec (d : List Byte) : Nat := recNat d 0x18 8
/-- `BIASB`. -/
def dBiasB (d : List Byte) : Nat := recNat d 0x20 8
/-- `XROW`. -/
def dXrow (d : List Byte) : Nat := recNat d 0x38 4
/-- `DROPCAP`. -/
def dDropCap (d : List Byte) : Nat := recNat d 0x60 4
/-- Experts of a group. -/
def dPer (d : List Byte) : Nat := dE d / dG d
/-- The home of a group. -/
def dHome (d : List Byte) (g : Nat) : Nat := recNat d (0xC0 + g) 1
/-- The home of an expert. -/
def dHomeOf (d : List Byte) (e : Nat) : Nat := dHome d (e / dPer d)

/-- Every field lies within its range, and every zero field is zero (R176). -/
def descFields (d : List Byte) : Bool :=
  let n := npartOf d
  let row (o : Nat) : Bool := recNat d o 4 % 16 == 0 && decide (16 ≤ recNat d o 4) && decide (recNat d o 4 ≤ 65536)
  (recNat d 4 1 == 0 || recNat d 4 1 == 2) && decide (recNat d 5 1 < 4) && decide (dE d ≤ 1024)
    && decide (1 ≤ dG d) && decide (dG d ≤ 64) && dE d % dG d == 0
    && decide (1 ≤ dKG d) && decide (dKG d ≤ dG d) && decide (1 ≤ dKGE d) && decide (dKGE d ≤ dPer d) && decide (dC d ≤ 16)
    && decide (dSvBase d ≤ 31) && decide (1 ≤ dNtok d) && decide (dNtok d ≤ 65536)
    && decide (1 ≤ recNat d 0x14 4) && decide (recNat d 0x14 4 ≤ 65536)
    && dRrec d % 64 == 0 && dBiasB d % 4096 == 0 && (dBias d || dBiasB d == 0) && row 0x38 && row 0x3C
    && recNat d 0x40 8 % 32 == 0 && decide (dDropCap d ≤ 1048576) && (recNat d 0x64 1 == 0 || recNat d 0x64 1 == 2)
    && decide (1 ≤ n) && decide (n ≤ 16) && recZero d 0x66 26
    && (List.range n).all (fun q => bits (recNat d (0x80 + 4 * q) 4) 26 6 == 0 && bits (recNat d (0x80 + 4 * q) 4) 7 9 == 0)
    && recZero d (0x80 + 4 * n) (64 - 4 * n) && (List.range (dG d)).all (fun g => decide (dHome d g < n))
    && recZero d (0xC0 + dG d) (64 - dG d)

/-- The participant's index p: the one `PART` entry that names the device and the core; none where R176 fails. -/
def descIndex (d : List Byte) (dev core : Nat) : Option Nat :=
  let entries := (List.range (npartOf d)).map (partEntry d)
  if entries.eraseDups.length != entries.length then none
  else ((List.range (npartOf d)).filter (fun q => partEntry d q == (dev, core))).head?

/-- The descriptor with its unshared fields zero (R181). -/
def sharedFields (d : List Byte) : List Byte :=
  (d.zipIdx).map (fun (b, i) =>
    if i = 5 then b &&& 1
    else if i = 11 || (decide (0x18 ≤ i) && decide (i < 0x38)) || (decide (0x40 ≤ i) && decide (i < 0x58))
      || (decide (0x60 ≤ i) && decide (i < 0x64)) then 0
    else b)

/-! ## Participants -/

/-- The die whose engine serves a participant. -/
def State.partDie (s : State) (x : Participant) : Nat := s.jobDie x.job x.anchor

/-- The same participant. -/
def Participant.same (x y : Participant) : Bool := x.job == y.job && x.batch == y.batch && x.p == y.p

/-- Change a participant. -/
def State.onPart (s : State) (x : Participant) (f : Participant → Participant) : State :=
  { s with parts := s.parts.map (fun y => if y.same x then f y else y) }

/-- The participants of a batch on this device. -/
def State.partsOf (s : State) (j batch : Nat) : List Participant := s.parts.filter (fun x => x.job == j && x.batch == batch)

/-- The participant that a form names (R177). -/
def State.resolvePart (s : State) (r : Req) (batch : Nat) : Option Participant :=
  let xs := s.partsOf r.job batch
  match xs.find? (fun x => x.anchor == r.core) with
  | some x => some x
  | none =>
    match xs.filter (fun x => s.partDie x == s.jobDie r.job r.core) with
    | [x] => some x
    | _ => none

/-- Set header flags. -/
def Participant.flag (x : Participant) (f : Nat) : Participant := { x with flags := x.flags ||| BitVec.ofNat 8 f }

/-- The batch is poisoned: `POISON`, `DUPLICATE` or `CFGMIX` (R182). -/
def Participant.poisoned (x : Participant) : Bool := x.flags &&& 0x0B != 0

/-! ## Work that may wait -/

/-- The instance that a piece of work is done for: its form's, or its participant's. -/
def State.workInst (s : State) (w : RouteWork) : Option Nat :=
  let of (j batch : Nat) (p : Participant → Bool) : Option Nat := ((s.partsOf j batch).find? p).map (·.inst)
  match w.what with
  | .form r => some r.inst
  | .record b => of b.job b.rid (fun _ => true)
  | .counted n | .final n => of w.job (w.batch.getD 0) (fun x => x.p == n)

/-- The work is over: it leaves its engine, which is progress (R170). -/
def State.dropRoute (s : State) (w : RouteWork) : State :=
  let s1 := { s with routeWork := s.routeWork.filter (fun y => y.id != w.id) }.dropWork [3, w.id]
  match s.workInst w with
  | some i => s1.progress w.job i
  | none => s1

/-- Answer a form and let it go. -/
def State.endForm (s : State) (w : RouteWork) (r : Req) (code : Nat) (poison : Bool) : State :=
  (s.dropRoute w).answerStatus r code 0 poison

/-- The engine's port (Tables 4.10, 4.11): batch id and row. -/
def routePort (s : State) (w : RouteWork) (inst row : Nat) : PortInfo :=
  { die := w.die, job := w.job, type := 3, inst := s.instId w.job inst, bytes := natLe 4 (w.batch.getD 0) ++ natLe 4 row ++ zeros 40 }

/-- Perform prepared units of a piece of work in order, each under the port of its row. -/
def State.performRows (s : State) (w : RouteWork) (inst : Nat) (rowOf : Nat → Nat) : List EngUnit → State × List (Option (List Byte))
  | [] => (s, [])
  | u :: us =>
    let (s1, g) := s.perform1 (routePort s w inst (rowOf u.va)) [3, w.id] u
    let (s2, gs) := State.performRows s1 w inst rowOf us
    (s2, g :: gs)

/-- What the error-correcting code finds at a unit that an engine reads at home (R81). -/
def State.eccAt (s : State) (j : Nat) (u : EngUnit) (ecc : EccOutcome) : State :=
  match u.data, s.translate j u.va .read with
  | none, .ok (pa, _) => (match homeOf s.devnum pa with | .hbm a => s.hbmEcc a u.len ecc | _ => s)
  | _, _ => s

/-- Perform one unit of a piece of work by itself: the `n`-th of those that are still to be performed, so that a phase may be torn between
its units, and its units may come in any order that their pages allow (R224, R235, R236). None where every unit has been performed, or
the one named may not be yet. -/
def State.oneUnit (s : State) (w : RouteWork) (inst : Nat) (rowOf : Nat → Nat) (n : Nat) (ecc : EccOutcome) (us : List EngUnit) :
    Option State :=
  let owner := [3, w.id]
  let todo := us.filter (fun u => !u.refuse && (s.fabricFind owner u.data.isSome u.va u.len).isNone)
  match todo[n]? with
  | none => none
  | some u =>
    let t := (s.eccAt w.job u ecc).performEarly (routePort s w inst (rowOf u.va)) owner u (n == 0)
    if (t.fabricFind owner u.data.isSome u.va u.len).isSome then some t else none

/-- Access memory for a piece of work, all of it or nothing: it waits for other devices, freezes at a not-present fault (R384), or goes
on with what each unit gave; what is done is kept, so that work that has to wait or has frozen later does none of it again (R90). An
event of its own performs one unit (`oneUnit`). `rowOf` tells the row of an address. -/
def State.withUnits (s : State) (w : RouteWork) (inst : Nat) (rowOf : Nat → Nat) (us : List EngUnit)
    (k : State → List (Option (List Byte)) → State) : State :=
  let us1 := markRefused w.refused us
  match (w.single.bind (fun p => s.oneUnit w inst rowOf p.1 p.2 us1)) with
  | some t => t
  | none =>
  match s.prepare [3, w.id] w.die w.job us1 with
  | .wait t => t
  | .absent va acc f =>
    let (s1, id) := s.absentFault (routePort s w inst (rowOf va)) inst (.routing w.id) va acc f
    { s1 with routeWork := s1.routeWork.map (fun y => if y.id = w.id then { y with frozen := some id, faultVa := va } else y) }
  | .ready =>
    let (s1, gs) := s.performRows w inst rowOf us1
    k (s1.keepUnits [3, w.id] us1 gs) gs

/-- Read a span for a piece of work: its bytes, or none where a unit was poisoned or refused. -/
def State.withRead (s : State) (w : RouteWork) (inst va n : Nat) (k : State → Option (List Byte) → State) : State :=
  s.withUnits w inst (fun _ => 0) (unitsAt va n) (fun t gs => k t (joinUnits gs))

/-! ## ROPEN (R176, R191) -/

/-- Participant states of an engine. -/
def partPlaces : Nat := 8

/-- FP32 words of a run of bytes. -/
def wordsOf (n : Nat) (bs : List Byte) : List W32 := (List.range n).map (fun i => BitVec.ofNat 32 (recNat bs (4 * i) 4))

/-- The participant is OPEN, and the form is answered. Credit that selection records of the batch withheld is owed (R180). -/
def State.openPart (s : State) (w : RouteWork) (r : Req) (d : List Byte) (p : Nat) (gen : W32) (bias : List W32) (poison : Bool) :
    State :=
  let batch := recNat d 0 4
  let x : Participant :=
    { job := r.job, inst := r.inst, batch := batch, p := p, anchor := r.core, st := .opened, desc := d, gen := gen, bias := bias }
  let s1 := (({ s with parts := s.parts ++ [x] }).onJob r.job (fun j =>
    { j with batches := Table.put j.batches batch ((d.drop 0x80).take 64) })).endForm w r 0 poison
  if s1.holdsSelections r.job then s1 else s1.releaseCredits r.job false

/-- The form is ROPEN. -/
def RouteWork.opening (w : RouteWork) : Bool :=
  match w.what with
  | .form r => (match r.instr with | .ropen _ => true | _ => false)
  | _ => false

/-- The form is RBIAS. -/
def RouteWork.biasing (w : RouteWork) : Bool :=
  match w.what with
  | .form r => (match r.instr with | .rbias _ => true | _ => false)
  | _ => false

/-- The descriptor that an ROPEN has read. -/
def State.openingDesc (s : State) (w : RouteWork) : Option (List Byte) :=
  match w.what with
  | .form r =>
    if w.opening then joinUnits ((unitsAt (addrOf r.a) 256).map (fun u =>
      (s.fabricFind [3, w.id] false u.va u.len).bind (fun q => q.answer.bind (fun a => if a.1 = 0 || a.1 = 4 then some a.2 else none))))
    else none
  | _ => none

/-- The bias block that an ROPEN or an RBIAS names. -/
def State.biasOf (s : State) (w : RouteWork) : Option Nat :=
  let named (d : List Byte) : Option Nat := if dBias d then some (dBiasB d) else none
  match w.what with
  | .form r =>
    if w.opening then (s.openingDesc w).bind named
    else if w.biasing then (s.resolvePart r (z32 r.a)).bind (fun x => named x.desc)
    else none
  | _ => none

/-- The batch of a piece of work; of an ROPEN, once it has read its descriptor. -/
def State.workBatch (s : State) (w : RouteWork) : Option Nat :=
  if w.opening then (s.openingDesc w).map (fun d => recNat d 0 4) else w.batch

/-- An ROPEN whose descriptor is not read yet holds back the forms that could name its participant, or its bias block: RBIAS, and those
that find no participant whose anchor is their own core, for the new one changes what they fall back to (R177). -/
def State.mayOpen (s : State) (x : RouteWork) : Bool :=
  x.biasing || (match x.what, x.batch with
    | .form r, some b => (match s.resolvePart r b with | some p => p.anchor != r.core | none => true)
    | _, _ => false)

/-- Later work of an engine waits behind this (R89, R177, R193): of the same batch, or of the same bias block. Records held for an ROPEN
hold nothing back (R180), and a form holds back no record of another participant, for it may wait for that one's answer, unless a fault
has frozen it. -/
def State.routeBlocks (s : State) (w x : RouteWork) : Bool :=
  let form := match x.what with | .form _ => true | _ => false
  let record := match x.what with | .record _ => true | _ => false
  let sameBatch := (s.workBatch w).isSome && s.workBatch w == s.workBatch x
  let sameBias := (s.biasOf w).isSome && s.biasOf w == s.biasOf x
  w.die == x.die && w.job == x.job &&
    (match w.what with
      | .record b => b.kind == 0xB && sameBatch
      | .form _ =>
        if w.opening then form && (sameBatch || sameBias || ((s.openingDesc w).isNone && s.mayOpen x))
        else (sameBatch || sameBias) && (!record || w.frozen.isSome)
      | _ => sameBatch)

/-- Earlier work of the engine holds this back. -/
def State.heldBack (s : State) (w : RouteWork) : Bool := (s.routeWork.takeWhile (fun y => y.id != w.id)).any (fun y => s.routeBlocks y w)

/-- An ROPEN that arrived earlier waits at the same engine (R176). -/
def State.ropenAhead (s : State) (w : RouteWork) : Bool :=
  (s.routeWork.takeWhile (fun y => y.id != w.id)).any (fun y => y.die == w.die && y.frozen.isNone && y.opening)

/-- A batch of these participants is routed here: in proof service, within the die only, so that no other device takes part (R37, log
entry 87). -/
def State.routable (s : State) (d : List Byte) : Bool :=
  !s.proof || (List.range (npartOf d)).all (fun q => (partEntry d q).1 == s.devnum)

/-- ROPEN at its engine: the descriptor is read and checked, the bias block is swapped if it is ready, and a participant
opens; it waits while the engine has no free state. -/
def State.ropenTry (s : State) (w : RouteWork) (r : Req) : State :=
  if addrOf r.a % 64 ≠ 0 then s.endForm w r 2 false
  else
    s.withRead w r.inst (addrOf r.a) 256 (fun s1 got =>
      match got with
      | none => s1.endForm w r 2 true
      | some d =>
        match (if descFields d && s1.routable d then descIndex d s1.devnum r.core else none) with
        | none => s1.endForm w r 2 false
        | some p =>
          let full := decide (partPlaces ≤ countIf (fun x => s1.partDie x == w.die) s1.parts)
          if (s1.partsOf r.job (recNat d 0 4)).any (fun x => x.p == p) then s1.endForm w r 3 false
          else if full || s1.ropenAhead w || s1.heldBack w then s1
          else if !dBias d then s1.openPart w r d p 0 (List.replicate (dE d) 0) false
          else
            let b := dBiasB d
            let n := dE d
            s1.withRead w r.inst b 16 (fun s2 got =>
              match got with
              | none => s2.endForm w r 2 true
              | some h =>
                let ready := recNat h 5 1 == 1
                let live := if ready then 1 - recNat h 4 1 else recNat h 4 1
                let gen := if ready then BitVec.ofNat 32 (recNat h 0 4 + 1) else BitVec.ofNat 32 (recNat h 0 4)
                s2.withRead w r.inst (b + 0x1000 + 0x1000 * live) (4 * n) (fun s3 got =>
                  match got with
                  | none => s3.endForm w r 2 true
                  | some vec =>
                    if ready then
                      let us := writesAt b (natLe 4 gen.toNat ++ natLe 1 live ++ natLe 1 0) ++ writesAt (b + 0x1000 + 0x1000 * (1 - live)) vec
                      s3.withUnits w r.inst (fun _ => 0) us (fun s4 gs =>
                        s4.openPart w r d p gen (wordsOf n vec) (gs.any (·.isNone)))
                    else s3.openPart w r d p gen (wordsOf n vec) false)))

/-! ## Route order and selection (R178 to R180) -/

/-- x stands above y in the route order, on FP32 codes; a NaN is below every number. -/
def routeAbove (x y : Nat) : Bool :=
  let f := FloatFmt.fp32
  if f.isNan x then false
  else if f.isNan y then true
  else cmpVal (f.val x) (f.val y) == some .gt

/-- The best of some candidates (number, key), numbers ascending; ties to the lower number. -/
def routeBest : List (Nat × Nat) → Option (Nat × Nat)
  | [] => none
  | c :: cs => some (cs.foldl (fun m p => if routeAbove p.2 m.2 then p else m) c)

/-- The first `n` candidates in the route order. -/
def routeTop : Nat → List (Nat × Nat) → List Nat
  | 0, _ => []
  | n + 1, cs =>
    match routeBest cs with
    | none => []
    | some m => m.1 :: routeTop n (cs.filter (fun p => p.1 != m.1))

/-- The key of a group: the greatest of its experts' s′. -/
def groupScore (xs : List Nat) : Nat := ((routeBest ((xs.zipIdx).map (fun p => (p.2, p.1)))).map (·.2)).getD 0

/-- s and s′ of a row's experts, as FP32 codes (R178). -/
def scoresOf (x : Participant) (codes : List Nat) : List (Nat × Nat) :=
  let sfmt := recNat x.desc 4 1
  (codes.zipIdx).map (fun (c, e) =>
    let s := if sfmt = 2 then c * 2 ^ 16 else c
    (s, addFp32 s (FloatFmt.fp32.val (x.bias.getD e 0).toNat)))

/-- The experts of a group, by s and s′ from the lowest on, that its home chooses (R180), with their weights. -/
def choose (d : List Byte) (index source g : Nat) (sc : List (Nat × Nat)) : List Homed :=
  (routeTop (dKGE d) ((sc.zipIdx).map (fun (p, e) => (e, p.2)))).map (fun e =>
    { index := index, source := source, expert := g * dPer d + e, weight := BitVec.ofNat 32 (sigmoid (FloatFmt.fp32.val (sc.getD e (0, 0)).1)) })

/-- Send the selection records of one row of index `i` (R179). The source knows what their homes will choose, and so which returns are its
own (R182). -/
def State.selectRow (s : State) (x : Participant) (i : Nat) (codes : List Nat) : State :=
  let d := x.desc
  let sc := scoresOf x codes
  let group (g : Nat) : List (Nat × Nat) := (sc.drop (g * dPer d)).take (dPer d)
  let keep := routeTop (dKG d) ((List.range (dG d)).map (fun g => (g, groupScore ((group g).map (·.2)))))
  let s1 := s.onPart x (fun z => { z with
    selected := z.selected ++ [i], sent := z.sent + dC z.desc, picks := z.picks ++ keep.flatMap (fun g => choose d i x.p g (group g)) })
  keep.foldl (fun t g =>
    t.toPart x (dHome d g) 4 7 false (natLe 4 i ++ natLe 2 g ++ natLe 1 x.p ++ zeros 1 ++ natLe 4 x.gen.toNat ++ zeros 4
      ++ (group g).flatMap (fun p => natLe 4 p.1 ++ natLe 4 p.2))) s1

/-- Select the rows of a score tile from index `i` on; one whose index was selected before is discarded. -/
def State.selectRows (s : State) (x : Participant) : Nat → List (List Nat) → State
  | _, [] => s
  | i, codes :: rest =>
    let y := (s.parts.find? (·.same x)).getD x
    State.selectRows (if y.selected.contains i then s.onPart x (fun z => z.flag 2) else s.selectRow x i codes) x (i + 1) rest

/-- `INVOFF`. -/
def invOff (d : List Byte) : Nat := roundUp (0x100 + 16 * dE d) 64
/-- `WOFF`. -/
def wOff (d : List Byte) : Nat := roundUp (invOff d + 4 * dNtok d * dC d) 64
/-- `DOFF`. -/
def dOff (d : List Byte) : Nat := roundUp (wOff d + 4 * dNtok d * dC d) 64

/-- The writes of index `i`'s inverse entries and weights (R185). -/
def indexWrites (d : List Byte) (i : Nat) (inv wts : List Byte) : List EngUnit :=
  writesAt (dRrec d + invOff d + 4 * (i * dC d)) inv ++ writesAt (dRrec d + wOff d + 4 * (i * dC d)) wts

/-- The index whose entry or weight stands at an address of a route record; 0 elsewhere in it. -/
def recordRow (d : List Byte) (va : Nat) : Nat :=
  let o := va - dRrec d
  let row (from_ : Nat) : Nat := (o - from_) / (4 * dC d)
  if decide (wOff d ≤ o) && decide (o < dOff d) then row (wOff d) else if decide (invOff d ≤ o) && decide (o < wOff d) then row (invOff d) else 0

/-- RSEL at its engine (R179, R384). The rows of a poisoned tile are bad rows: their entries and weights are written here. -/
def State.rselTry (s : State) (w : RouteWork) (r : Req) : State :=
  match s.devCore r.job r.core with
  | none => s.dropRoute w
  | some c =>
    let k := s.core c
    let t := k.opTile r.a
    let done (u : State) (code : Nat) : State := (u.onCore c (fun k => k.releaseOperands r [])).endForm w r code false
    match s.resolvePart r (z32 r.d) with
    | none => done s 1
    | some x =>
      let d := x.desc
      if x.st != .opened then done s 1
      else if !s.tileReady c r || t.st == .pending then s
      else if t.ncols != dE d || t.fmt != recNat d 4 1 || decide (dNtok d < z32 r.b + t.nrows) then done s 2
      else
        let s0 := s.onCore c (fun k => k.touchTile t s.clock)
        if k.tilePoison t then
          let us := (upFrom (z32 r.b) t.nrows).flatMap (fun i => indexWrites d i (List.replicate (4 * dC d) 0xFF) (zeros (4 * dC d)))
          s0.withUnits w x.inst (recordRow d) us (fun s1 _ =>
            done (s1.onPart x (fun z => { z.flag 0x21 with badRows := z.badRows + t.nrows })) 0)
        else done (s0.selectRows x (z32 r.b) (k.codes t)) 0

/-! ## The home (R180 to R182, R186) -/

/-- A selection record at its group's home (R180); true when it was taken. -/
def State.takeSelection (s : State) (rec_ : LinkRec) : State × Bool :=
  let b := rec_.body
  let g := recNat b 4 2
  match s.parts.find? (fun x => x.homeOf rec_) with
  | none => (s, false)
  | some x =>
    if x.assigned then (s, true)
    else
      let sc := (List.range (dPer x.desc)).map (fun e => (recNat b (16 + 8 * e) 4, recNat b (20 + 8 * e) 4))
      (s.onPart x (fun z => { z with homed := z.homed ++ choose x.desc (recNat b 0 4) (recNat b 6 1) g sc }), true)

/-- Insert in ascending order of a key. -/
def insertBy {α : Type} (key : α → Nat) (x : α) : List α → List α
  | [] => [x]
  | y :: ys => if key x < key y then x :: y :: ys else y :: insertBy key x ys

/-- Sort in ascending order of a key, equal keys in their order. -/
def sortBy {α : Type} (key : α → Nat) (xs : List α) : List α := xs.foldl (fun ys x => insertBy key x ys) []

/-- What a home decides for one expert: its count, the number of distinct indices, the returns (choice, source), and the
drop records. -/
structure Assigned where
  count : Nat
  kept : Nat
  returns : List (Nat × Choice)
  drops : List (List Byte)
  dup : Bool

/-- A drop record (Table 7.7). -/
def dropRecord (x : Participant) (h : Homed) (reason pos : Nat) : List Byte :=
  natLe 4 (recNat x.desc 0x10 4 + h.index) ++ natLe 2 h.expert ++ natLe 1 reason ++ zeros 1 ++ natLe 4 h.weight.toNat ++ natLe 4 pos

/-- `assign` for one expert whose rows begin at `off` (R182). R186 orders drop records by expert, then by index: two DUPLICATE records of
one index keep the order in which their selection records arrived (the model's choice, log entry 95). -/
def Participant.assignExpert (x : Participant) (e off : Nat) : Assigned :=
  let mine := x.homed.filter (fun h => h.expert == e)
  let twice (h : Homed) : Bool := decide (1 < countIf (fun (g : Homed) => g.index == h.index) mine)
  let uniq := sortBy (·.index) (mine.filter (fun h => !twice h))
  let cap := recNat x.desc 0x14 4
  let out := (uniq.zipIdx).map (fun (h, q) =>
    if q < cap then (h, false, off + q) else (h, true, q))
  let dups := mine.filter twice
  { count := mine.length
    kept := min uniq.length cap
    returns := (out.map (fun (h, dr, slot) => (h.source, { index := h.index, expert := e, dropped := dr, slot := slot, weight := h.weight })))
      ++ dups.map (fun h => (h.source, { index := h.index, expert := e, dropped := true, slot := 0xFFFFFFFF, weight := h.weight }))
    drops := (sortBy (fun (p : Homed × Nat × Nat) => p.1.index)
      ((out.filter (fun p => p.2.1)).map (fun p => (p.1, 1, p.2.2)) ++ dups.map (fun h => (h, 2, 0xFFFFFFFF)))).map
        (fun p => dropRecord x p.1 p.2.1 p.2.2)
    dup := !dups.isEmpty }

/-- `assign` for the home's experts in ascending order: (expert, outcome). -/
def Participant.assignFrom (x : Participant) : List Nat → Nat → List (Nat × Assigned)
  | [], _ => []
  | e :: es, off =>
    let a := x.assignExpert e off
    (e, a) :: Participant.assignFrom x es (off + a.kept)

/-- The flags that a participant's end marks and its own fields give it (R182). -/
def Participant.markFlags (x : Participant) : Nat :=
  let own := sharedFields x.desc
  let ors := (x.marks.foldl (fun (f : BitVec 8) m => f ||| m.flags) 0).toNat % 4
  let mix := x.marks.any (fun m => m.shared != own)
  let gens := (x.marks.map (·.gen)).eraseDups
  ors + (if decide (1 < gens.length) then 4 else 0) + (if mix then 8 else 0)

/-- Every mark is in: flags are combined, and a home assigns its slots and sends returns and counts. -/
def State.assignPart (s : State) (x : Participant) : State :=
  let d := x.desc
  let mine := (List.range (dE d)).filter (fun e => dHomeOf d e == x.p)
  let xs := x.assignFrom mine 0
  let y := (x.flag x.markFlags).flag (if xs.any (fun p => p.2.dup) then 2 else 0)
  let s1 := s.onPart x (fun _ => { y with
    assigned := true
    dropRecs := xs.flatMap (fun p => p.2.drops)
    dropped := (xs.map (fun p => p.2.drops.length)).sum
    kept := (xs.map (fun p => p.2.kept)).sum })
  if mine.isEmpty then s1
  else
    let s2 := (xs.flatMap (fun p => p.2.returns)).foldl (fun t (q, ch) =>
      t.toPart x q 4 9 false (natLe 4 ch.index ++ natLe 2 ch.expert ++ natLe 1 (b2n ch.dropped) ++ zeros 1 ++ natLe 4 ch.slot
        ++ natLe 4 ch.weight.toNat)) s1
    (List.range (npartOf d)).foldl (fun t q =>
      t.toPart x q 4 0xA false (natLe 1 x.p ++ natLe 1 (y.flags.toNat % 16) ++ zeros 2 ++ natLe 4 xs.length
        ++ xs.flatMap (fun p => natLe 4 p.1 ++ natLe 4 p.2.count ++ natLe 4 p.2.kept))) s2

/-- An end mark at a participant that has none from its sender yet (R182); true when it was taken. -/
def State.takeEndMark (s : State) (rec_ : LinkRec) : State × Bool :=
  let b := rec_.body
  let q := recNat b 0 1
  match (s.partsOf rec_.job rec_.rid).find? (fun x => !x.marks.any (fun m => m.source == q)) with
  | none => (s, false)
  | some x =>
    let y := { x with marks := x.marks ++ [{ source := q, flags := BitVec.ofNat 8 (recNat b 1 1), gen := BitVec.ofNat 32 (recNat b 4 4), shared := b.drop 16 }] }
    let s1 := s.onPart x (fun _ => y)
    (if y.marks.length = npartOf y.desc then s1.assignPart y else s1, true)

/-! ## The end of counting (R183 to R186) -/

/-- First row of an expert in its home's buffers: the kept rows of its home's lower experts. -/
def Participant.offsetOf (x : Participant) (e : Nat) : Nat :=
  ((List.range e).filter (fun f => dHomeOf x.desc f == dHomeOf x.desc e)).foldl (fun n f => n + (Table.getD x.counts f (0, 0)).2) 0

/-- The route record's header (Table 7.4). -/
def Participant.header (x : Participant) (state : Nat) : List Byte :=
  let d := x.desc
  let es := List.range (dE d)
  let gens := x.marks.map (·.gen.toNat)
  let count (e : Nat) : Nat × Nat := Table.getD x.counts e (0, 0)
  natLe 4 0x52545245 ++ natLe 2 1 ++ natLe 1 state ++ natLe 1 (x.flags.toNat % 64) ++ natLe 4 x.batch ++ natLe 1 x.job ++ natLe 1 x.p
    ++ natLe 1 (npartOf d) ++ zeros 1 ++ natLe 2 (dE d) ++ natLe 1 (dG d) ++ natLe 1 (dKG d) ++ natLe 1 (dKGE d) ++ natLe 1 (dC d)
    ++ zeros 2 ++ natLe 4 (dNtok d) ++ natLe 4 (recNat d 0x10 4) ++ natLe 4 (recNat d 0x14 4) ++ natLe 4 x.gen.toNat
    ++ natLe 4 (gens.foldl min (gens.headD 0)) ++ natLe 4 (gens.foldl max 0) ++ natLe 4 x.selected.length ++ natLe 4 x.badRows
    ++ natLe 4 x.sent ++ natLe 4 x.returns.length ++ natLe 4 x.homed.length ++ natLe 4 x.kept ++ natLe 4 x.dropped
    ++ natLe 4 (min x.dropRecs.length (dDropCap d)) ++ natLe 4 (recNat d 0x58 4) ++ natLe 4 (recNat d 0x5C 4)
    ++ natLe 4 (invOff d) ++ natLe 4 (wOff d) ++ natLe 4 (dOff d) ++ natLe 4 (dDropCap d)
    ++ natLe 4 (es.foldl (fun n e => n + (count e).1) 0) ++ natLe 4 (es.foldl (fun n e => n + (count e).2) 0) ++ zeros 144

/-- The count table (Table 7.5). -/
def Participant.countTable (x : Participant) : List Byte :=
  (List.range (dE x.desc)).flatMap (fun e =>
    let c := Table.getD x.counts e (0, 0)
    natLe 4 c.1 ++ natLe 4 c.2 ++ natLe 4 (x.offsetOf e) ++ natLe 1 (dHomeOf x.desc e) ++ zeros 3)

/-- An index's choices in ascending expert number. -/
def Participant.choices (x : Participant) (i : Nat) : List Choice := sortBy (·.expert) (x.returns.filter (fun c => c.index == i))

/-- An inverse-permutation entry (Table 7.6). -/
def Choice.entry (c : Choice) : Nat := b2n c.dropped * 2 ^ 31 + c.expert * 2 ^ 21 + c.slot % 2 ^ 21

/-- The writes that end counting. -/
def Participant.recordUnits (x : Participant) : List EngUnit :=
  let d := x.desc
  writesAt (dRrec d) (x.header 3) ++ writesAt (dRrec d + 0x100) x.countTable
    ++ x.selected.flatMap (fun i =>
      indexWrites d i ((x.choices i).flatMap (fun c => natLe 4 c.entry)) ((x.choices i).flatMap (fun c => natLe 4 c.weight.toNat)))
    ++ writesAt (dRrec d + dOff d) ((x.dropRecs.take (dDropCap d)).flatten)

/-- Counting ends (R183): the route record is written, counts are exported, and RCLOSE answers. -/
def State.countedTry (s : State) (w : RouteWork) (x : Participant) : State :=
  let y := x.flag (if decide (dDropCap x.desc < x.dropRecs.length) then 0x10 else 0)
  s.withUnits w x.inst (recordRow x.desc) y.recordUnits (fun s1 gs =>
    let s2 := if dExport x.desc then
        s1.setVars x.job (fun vars => (List.range (min (dE x.desc) (32 - dSvBase x.desc))).foldl (fun sv k =>
          setAt sv (dSvBase x.desc + k) (BitVec.ofNat 64 (Table.getD x.counts k (0, 0)).2)) vars)
      else s1
    let s3 := (s2.onPart x (fun _ => { y with st := .counted, closing := none })).dropRoute w
    match x.closing with
    | some r => s3.answerStatus r 0 0 (y.poisoned || gs.any (·.isNone))
    | none => s3)

/-- The returns, the counts and the marks that counting waits for are in. -/
def Participant.counted (x : Participant) : Bool :=
  x.st == .counting && x.returns.length == x.sent && x.marks.length == npartOf x.desc
    && (List.range (dG x.desc)).all (fun g => x.homes.contains (dHome x.desc g))

/-- A participant takes a record in, which is progress (R170). -/
def State.partTakes (s : State) (x : Participant) (f : Participant → Participant) : State := (s.onPart x f).progress x.job x.inst

/-- A slot return at the participant that selected the index (R182, R183): of participants on one device, the one whose record made the
choice, for its home returns it once. -/
def State.takeReturn (s : State) (rec_ : LinkRec) : State :=
  let b := rec_.body
  let c : Choice := { index := recNat b 0 4, expert := recNat b 4 2, dropped := bitAt (recNat b 6 1) 0, slot := recNat b 8 4, weight := BitVec.ofNat 32 (recNat b 12 4) }
  match (s.partsOf rec_.job rec_.rid).find? (fun x =>
      x.picks.any (fun h => h.index == c.index && h.expert == c.expert && h.weight == c.weight)
        && !x.returns.any (fun y => y.index == c.index && y.expert == c.expert)) with
  | some x => s.partTakes x (fun z => { z with returns := z.returns ++ [c] })
  | none => s

/-- A home's counts at a participant that has none from it yet (R182). -/
def State.takeCounts (s : State) (rec_ : LinkRec) : State :=
  let b := rec_.body
  let h := recNat b 0 1
  match (s.partsOf rec_.job rec_.rid).find? (fun x => !x.homes.contains h) with
  | some x => s.partTakes x (fun z => { z.flag (recNat b 1 1 % 16) with
      homes := z.homes ++ [h]
      counts := (List.range (recNat b 4 4)).foldl (fun t i =>
        Table.put t (recNat b (8 + 12 * i) 4) (recNat b (12 + 12 * i) 4, recNat b (16 + 12 * i) 4)) z.counts })
  | none => s

/-! ## Scatter (R187) -/

/-- The rows that an RROW sends: index and choice. -/
def Participant.scatter (x : Participant) (lo hi : Nat) : List (Nat × Choice) :=
  (upFrom lo (hi - lo)).flatMap (fun i => ((x.choices i).filter (fun c => !c.dropped)).map (fun c => (i, c)))

/-- Send rows with what was read of each, in order. -/
def State.sendRows (s : State) (x : Participant) (units : Nat) : List (Nat × Choice) → List (Option (List Byte)) → State
  | [], _ => s
  | (_, c) :: rest, gs =>
    let (bytes, bad) := fillUnits s.draws ((gs.take units).map (fun g => (g, 16)))
    let s1 := ({ s with draws := s.draws + 16 * units }).toPart x (dHomeOf x.desc c.expert) 5 0xB bad
      (natLe 1 (dHomeOf x.desc c.expert) ++ zeros 3 ++ natLe 4 c.slot ++ bytes)
    State.sendRows s1 x units rest (gs.drop units)

/-- RROW at its engine (R187, R384). An acknowledgement names a device and a slot, and no participant (Table 1.10): an RROW waits while a
row of its batch is out to the same slot of the same device, so that each acknowledgement belongs to one RROW. -/
def State.rrowTry (s : State) (w : RouteWork) (r : Req) : State :=
  match s.resolvePart r (z32 r.d) with
  | none => s.endForm w r 1 false
  | some x =>
    let lo := bits r.b.toNat 0 32
    let hi := bits r.b.toNat 32 32
    let va := addrOf r.a
    if x.st != .counted then s.endForm w r 1 false
    else if va % 16 ≠ 0 || decide (hi < lo) || decide (dNtok x.desc < hi) || !(upFrom lo (hi - lo)).all (fun i => x.selected.contains i) then
      s.endForm w r 2 false
    else
      let rows := x.scatter lo hi
      let outs := rows.map (fun p => ((partEntry x.desc (dHomeOf x.desc p.2.expert)).1, p.2.slot))
      let n := dXrow x.desc
      let us := rows.flatMap (fun p => (List.range (n / 16)).map (fun u => ({ va := va + p.1 * n + 16 * u, len := 16 } : EngUnit)))
      if (s.partsOf x.job x.batch).any (fun y => y.rrow.any (fun q => q.outs.any outs.contains)) then s
      else s.withUnits w x.inst (fun a => (a - va) / n) us (fun s1 gs =>
        if rows.isEmpty then s1.endForm w r 0 false
        else
          let s2 := s1.onPart x (fun z => { z with rrow := z.rrow ++ [{ req := r, outs := outs, poison := gs.any (·.isNone) }] })
          (s2.dropRoute w).sendRows x (n / 16) rows gs)

/-- A row at its home (R187): written at its slot, and acknowledged. -/
def State.rowTry (s : State) (w : RouteWork) (rec_ : LinkRec) : State :=
  let b := rec_.body
  match (s.partsOf rec_.job rec_.rid).find? (fun x => x.p == recNat b 0 1) with
  | none => s.dropRoute w
  | some x =>
    let slot := recNat b 4 4
    let va := recNat x.desc 0x28 8 + slot * dXrow x.desc
    let us := (writesAt va (b.drop 8)).map (fun u => { u with poison := rec_.poison })
    s.withUnits w x.inst (fun _ => slot) us (fun s1 gs =>
      (s1.dropRoute w).sendRec w.die 5
        { kind := 0xC, job := rec_.job, dst := rec_.src, src := s.devnum, rid := rec_.rid,
          body := natLe 4 slot ++ natLe 1 (b2n (gs.any (·.isNone))) ++ zeros 3 })

/-- A row acknowledgement (R187): the last one answers its RROW. -/
def State.takeAck (s : State) (rec_ : LinkRec) : State :=
  let slot := recNat rec_.body 0 4
  let bad := recNat rec_.body 4 1 != 0
  match (s.partsOf rec_.job rec_.rid).find? (fun x => x.rrow.any (fun w => w.outs.contains (rec_.src, slot))) with
  | none => s
  | some x =>
    match takeFirst (fun w => w.outs.contains (rec_.src, slot)) x.rrow with
    | none => s
    | some (w, rest) =>
      let outs := w.outs.erase (rec_.src, slot)
      if outs.isEmpty then (s.partTakes x (fun z => { z with rrow := rest })).answerStatus w.req 0 0 (w.poison || bad)
      else s.partTakes x (fun z => { z with rrow := { w with outs := outs, poison := w.poison || bad } :: rest })

/-! ## Final (R188) -/

/-- The group table (R188, Table 6.8). -/
def Participant.groupTable (x : Participant) : List Byte :=
  let d := x.desc
  (List.range (dE d)).flatMap (fun e =>
    let mine := dHomeOf d e == x.p
    natLe 4 (x.offsetOf e) ++ natLe 4 (if mine then (Table.getD x.counts e (0, 0)).2 else 0)
      ++ natLe 8 (recNat d 0x48 8 + e * recNat d 0x50 8) ++ zeros 8 ++ zeros 2 ++ natLe 2 (b2n (!mine)) ++ zeros 4)

/-- Finalising ends: the group table and the header's state are written, the participant is FREE, and RCLOSE answers. -/
def State.finalTry (s : State) (w : RouteWork) (x : Participant) : State :=
  let us := writesAt (recNat x.desc 0x40 8) x.groupTable ++ writesAt (dRrec x.desc + 6) [4]
  s.withUnits w x.inst (fun _ => 0) us (fun s1 gs =>
    let s2 : State := { s1.dropRoute w with parts := s1.parts.filter (fun y => !y.same x) }
    match x.closing with
    | some r => s2.answerStatus r 0 0 (x.poisoned || gs.any (·.isNone))
    | none => s2)

/-- A release mark (R195): the batch's other participants here are poisoned, answer what is pending, and become FREE. -/
def State.takeRelease (s : State) (rec_ : LinkRec) : State :=
  let xs := s.partsOf rec_.job rec_.rid
  let s1 : State := { s with
      parts := s.parts.filter (fun y => !(y.job == rec_.job && y.batch == rec_.rid))
      routeWork := s.routeWork.filter (fun w => !(w.job == rec_.job && w.batch == some rec_.rid
        && (match w.what with | .counted _ | .final _ => true | _ => false))) }
  xs.foldl (fun t x =>
    let t1 := match x.closing with | some r => t.answerStatus r 0 0 true | none => t
    x.rrow.foldl (fun u w => u.answerStatus w.req 0 0 true) t1) s1

/-! ## RBIAS and RSTAT (R192, R194) -/

/-- RBIAS at its engine. -/
def State.rbiasTry (s : State) (w : RouteWork) (r : Req) : State :=
  match s.resolvePart r (z32 r.a) with
  | none => s.endForm w r 1 false
  | some x =>
    if x.st != .counted then s.endForm w r 1 false
    else if !dBias x.desc then s.endForm w r 2 false
    else
      let b := dBiasB x.desc
      let n := dE x.desc
      s.withRead w x.inst b 16 (fun s1 got =>
        match got with
        | none => s1.endForm w r 2 true
        | some h =>
          let at_ := b + 0x1000 + 0x1000 * (1 - recNat h 4 1)
          s1.withRead w x.inst at_ (4 * n) (fun s2 got =>
            match got with
            | none => s2.endForm w r 2 true
            | some vec =>
              let target := recNat x.desc 0x5C 4
              let gamma := FloatFmt.fp32.val (recNat x.desc 0x58 4)
              let new := (List.range n).flatMap (fun e =>
                let c := (Table.getD x.counts e (0, 0)).1
                let sign : Int := if c < target then 1 else if c = target then 0 else -1
                natLe 4 (rneFp32 (fmaVal gamma (intVal sign) (FloatFmt.fp32.val (recNat vec (4 * e) 4)) false).1))
              let us := writesAt at_ new ++ writesAt (b + 5) [1] ++ writesAt (b + 8) (natLe 4 x.batch)
              s2.withUnits w x.inst (fun _ => 0) us (fun s3 gs => s3.endForm w r 0 (gs.any (·.isNone)))))

/-- Code of a participant state (Table 7.2). -/
def PartSt.code : PartSt → Nat
  | .opened => 1 | .counting => 2 | .counted => 3 | .finalising => 4

/-- RSTAT at its engine. R177 gives status RSTATE to a form that resolves to no participant or to more than one, R194 gives RSTAT no
status: it answers B64 0 there, as for a batch that is not open (the model's choice, log entry 95). -/
def State.rstatTry (s : State) (w : RouteWork) (r : Req) : State :=
  let v := match s.resolvePart r (z32 r.a) with
    | some x => x.st.code * 2 ^ 61 + x.flags.toNat * 2 ^ 53 + x.sent % 2 ^ 21 * 2 ^ 32 + x.selected.length % 2 ^ 32
    | none => 0
  (s.dropRoute w).answer r 1 (BitVec.ofNat 64 v) false

/-! ## RCLOSE (R181, R188) -/

/-- RCLOSE select: end marks are sent, and counting begins. -/
def State.rcloseSelTry (s : State) (w : RouteWork) (r : Req) : State :=
  match s.resolvePart r (z32 r.a) with
  | none => s.endForm w r 1 false
  | some x =>
    if x.st != .opened then s.endForm w r 1 false
    else
      let s1 := (s.dropRoute w).onPart x (fun z => { z with st := .counting, closing := some r })
      (List.range (npartOf x.desc)).foldl (fun t q =>
        t.toPart x q 4 8 false (natLe 1 x.p ++ natLe 1 x.flags.toNat ++ zeros 2 ++ natLe 4 x.gen.toNat ++ zeros 8 ++ sharedFields x.desc)) s1

/-- RCLOSE final: final marks are sent, and finalising begins. -/
def State.rcloseFinTry (s : State) (w : RouteWork) (r : Req) : State :=
  match s.resolvePart r (z32 r.a) with
  | none => s.endForm w r 1 false
  | some x =>
    if x.st != .counted then s.endForm w r 1 false
    else
      let s1 := (s.dropRoute w).onPart x (fun z => { z with st := .finalising, closing := some r })
      (List.range (npartOf x.desc)).foldl (fun t q => t.toPart x q 5 0xD false (natLe 1 x.p ++ zeros 7)) s1

/-- A final mark (R188). -/
def State.takeFinal (s : State) (rec_ : LinkRec) : State :=
  let q := recNat rec_.body 0 1
  match (s.partsOf rec_.job rec_.rid).find? (fun x => !x.finals.contains q) with
  | some x => s.partTakes x (fun z => { z with finals := z.finals ++ [q] })
  | none => s

/-! ## RCOMB (R189, R385) -/

/-- The fields of a combine record are legal, but for what only the route record tells. -/
def combineOk (b : List Byte) : Bool :=
  recNat b 0 8 % 64 == 0 && recNat b 8 8 % 16 == 0 && recNat b 0x10 4 % 16 == 0 && recZero b 0x19 7 && recNat b 0x14 4 % 16 == 0
    && decide (16 ≤ recNat b 0x14 4) && decide (recNat b 0x14 4 ≤ 65536) && (recNat b 0x18 1 == 0 || recNat b 0x18 1 == 2)
    && decide (recNat b 0x14 4 ≤ recNat b 0x10 4)

/-- The device of a batch's participant, as the job's cores opened it; this device where they have not. -/
def State.partDev (s : State) (j batch q : Nat) : Nat :=
  match Table.find (s.job j).batches batch with
  | some ps => bits (recNat ps (4 * q) 4) 16 10
  | none => s.devnum

/-- The request for an output row at another device. -/
def State.rowAsked (s : State) (w : RouteWork) (n dev va : Nat) : Option FabReq := s.fabricFind [3, w.id, 1, dev] false va n

/-- Ask other devices for output rows (home's device, VA): true when every answer is here. -/
def State.askRows (s : State) (w : RouteWork) (n : Nat) : List (Nat × Nat) → Bool → State × Bool
  | [], here => (s, here)
  | (dev, va) :: rest, here =>
    match s.rowAsked w n dev va with
    | some f => State.askRows s w n rest (here && f.answer.isSome)
    | none =>
      let (s1, rid) := s.fresh
      let s2 : State := { s1 with fabric := s1.fabric ++
        [{ owner := [3, w.id, 1, dev], write := false, va := va, dev := dev, pa := 0, len := n, rid := rid }] }
      let ask : LinkRec :=
        { kind := 0xE, job := w.job, dst := dev, src := s.devnum, rid := rid, body := natLe 8 va ++ natLe 4 n ++ zeros 4 }
      State.askRows (s2.sendRec w.die 5 ask) w n rest false

/-- Elements of an output row as FP32 codes. -/
def rowCodesOf (yfmt : Nat) (bs : List Byte) : List Nat :=
  if yfmt = 2 then (List.range (bs.length / 2)).map (fun j => recNat bs (2 * j) 2 * 2 ^ 16)
  else (List.range (bs.length / 4)).map (fun j => recNat bs (4 * j) 4)

/-- `combine` for one index (R189): the weights in ascending expert order, each with its row unless it was dropped. -/
def combineRow (yfmt elements : Nat) (cs : List (Nat × Option (List Byte))) : List Byte :=
  let f := FloatFmt.fp32
  let total := cs.foldl (fun d c => addFp32 d (f.val c.1)) 0
  let acc := cs.foldl (fun acc c =>
    match c.2 with
    | none => acc
    | some row =>
      let v : Nat := if bits total 0 31 = 0 then 0 else rneFp32 (divVal (f.val c.1) (f.val total)).1
      (acc.zip (rowCodesOf yfmt row)).map (fun (a, x) => rneFp32 (fmaVal (f.val v) (f.val x) (f.val a) false).1))
    (List.replicate elements 0)
  acc.flatMap (fun a => if yfmt = 2 then natLe 2 (roundTo .bf16 (f.val a) .rne false 0).1 else natLe 4 a)

/-- Cut a list into runs of these lengths. -/
def chopBy {α : Type} : List Nat → List α → List (List α)
  | [], _ => []
  | n :: ns, xs => xs.take n :: chopBy ns (xs.drop n)

/-- RCOMB at its engine. -/
def State.rcombTry (s : State) (w : RouteWork) (r : Req) : State :=
  let lo := bits r.b.toNat 0 32
  let hi := bits r.b.toNat 32 32
  if addrOf r.a % 32 ≠ 0 then s.endForm w r 2 false
  else
    s.withRead w r.inst (addrOf r.a) 160 (fun s1 got =>
      match got with
      | none => s1.endForm w r 2 true
      | some b =>
        if !combineOk b then s1.endForm w r 2 false
        else
          let rrec := recNat b 0 8
          let yrow := recNat b 0x14 4
          let yfmt := recNat b 0x18 1
          s1.withRead w r.inst rrec 256 (fun s2 got =>
            match got with
            | none => s2.endForm w r 2 true
            | some h =>
              let n := recNat h 0x15 1
              let npart := recNat h 0x0E 1
              let count := hi - lo
              if decide (hi < lo) || decide (recNat h 0x18 4 < hi) || !recZero b (0x20 + 8 * npart) (128 - 8 * npart) then s2.endForm w r 2 false
              else if count = 0 then s2.endForm w r 0 false
              else
                let inv := unitsAt (rrec + recNat h 0x58 4 + 4 * lo * n) (4 * count * n)
                let wts := unitsAt (rrec + recNat h 0x5C 4 + 4 * lo * n) (4 * count * n)
                let tab := unitsAt (rrec + 0x100) (16 * recNat h 0x10 2)
                let entries (o va : Nat) : Option Nat :=
                  if decide (rrec + o + 4 * lo * n ≤ va) && decide (va < rrec + o + 4 * hi * n) then some ((va - (rrec + o)) / (4 * n)) else none
                let rowIn (va : Nat) : Nat := ((entries (recNat h 0x58 4) va).or (entries (recNat h 0x5C 4) va)).getD lo
                s2.withUnits w r.inst rowIn (inv ++ wts ++ tab) (fun s3 gs =>
                  let part (us : List EngUnit) (gs : List (Option (List Byte))) : List Byte × Bool :=
                    fillUnits s3.draws ((gs.zip us).map (fun p => (p.1, p.2.len)))
                  let (ib, bad1) := part inv (gs.take inv.length)
                  let (wb, bad2) := part wts ((gs.drop inv.length).take wts.length)
                  let (tb, bad3) := part tab (gs.drop (inv.length + wts.length))
                  let s3 := { s3 with draws := s3.draws + 8 * count * n + 16 * recNat h 0x10 2 }
                  let ent (i c : Nat) : Nat := recNat ib (4 * (i * n + c)) 4
                  let homeOf_ (e : Nat) : Nat := recNat tb (16 * e + 12) 1 % 16
                  let rowVa (x : Nat) : Nat × Nat :=
                    let q := homeOf_ (bits x 21 10)
                    (s3.partDev w.job (recNat h 8 4) q, (recNat b (0x20 + 8 * q) 8 + bits x 0 21 * yrow) % 2 ^ 64)
                  let wanted := (List.range count).flatMap (fun i => ((List.range n).filter (fun c => !bitAt (ent i c) 31)).map (fun c => (i, c)))
                  let far := (wanted.map (fun p => rowVa (ent p.1 p.2))).filter (fun a => a.1 != s3.devnum)
                  let (s4, here) := s3.askRows w yrow far true
                  if !here then s4
                  else
                    let near := (wanted.filter (fun p => (rowVa (ent p.1 p.2)).1 == s3.devnum)).map (fun p => (p, (rowVa (ent p.1 p.2)).2))
                    let reads := near.flatMap (fun p => unitsAt p.2 yrow)
                    let nearRow (va : Nat) : Nat := match near.find? (fun p => decide (p.2 ≤ va) && decide (va < p.2 + yrow)) with | some p => lo + p.1.1 | none => lo
                    s4.withUnits w r.inst nearRow reads (fun s5 gs =>
                      let rows := chopBy (near.map (fun p => (unitsAt p.2 yrow).length)) gs
                      let local_ (k : Nat) : Option (List Byte) := joinUnits (rows.getD k [])
                      let rowOf (p : Nat × Nat) : Option (List Byte) :=
                        match (near.zipIdx).find? (fun q => q.1.1 == p) with
                        | some (_, k) => local_ k
                        | none =>
                          let a := rowVa (ent p.1 p.2)
                          match s5.rowAsked w yrow a.1 a.2 with
                          | some f => (match f.answer with | some (0, bs) => some bs | _ => none)
                          | none => none
                      let allBad := bitAt (recNat h 7 1) 0 || bad1 || bad2 || bad3
                      let outs := (List.range count).map (fun i =>
                        let cs := (List.range n).map (fun c =>
                          (recNat wb (4 * (i * n + c)) 4, if bitAt (ent i c) 31 then none else rowOf (i, c)))
                        let bad := allBad || (wanted.filter (fun p => p.1 == i)).any (fun p => (rowOf p).isNone)
                        let row := combineRow yfmt (if yfmt = 2 then yrow / 2 else yrow / 4) cs
                        (recNat b 8 8 + i * recNat b 0x10 4, row, bad))
                      let us := outs.flatMap (fun o => (writesAt o.1 o.2.1).map (fun u => { u with poison := o.2.2 }))
                      let outRow (va : Nat) : Nat := lo + (va - recNat b 8 8) / recNat b 0x10 4
                      s5.withUnits w r.inst outRow us (fun s6 gs =>
                        s6.endForm w r 0 (outs.any (fun o => o.2.2) || gs.any (·.isNone)))))))

/-- An output row is read for another device (R189) and sent back. -/
def State.outRowTry (s : State) (w : RouteWork) (rec_ : LinkRec) : State :=
  let va := recNat rec_.body 0 8
  let n := recNat rec_.body 8 4
  let us := unitsAt va n
  s.withUnits w 256 (fun _ => 0) us (fun s1 gs =>
    let (bs, bad) := fillUnits s1.draws ((gs.zip us).map (fun p => (p.1, p.2.len)))
    (({ s1 with draws := s1.draws + n }).dropRoute w).sendRec w.die 5
      { kind := 0xF, poison := bad, job := rec_.job, dst := rec_.src, src := s.devnum, rid := rec_.rid,
        body := natLe 1 (b2n bad) ++ zeros 7 ++ bs })

/-! ## The engines' order -/

/-- Try a piece of work: it ends, or it stays. -/
def State.routeTry (s : State) (w : RouteWork) : State :=
  match w.what with
  | .form r =>
    match r.instr with
    | .ropen _ => s.ropenTry w r
    | .rsel _ => s.rselTry w r
    | .rrow _ => s.rrowTry w r
    | .rcloseSel _ => s.rcloseSelTry w r
    | .rcloseFin _ => s.rcloseFinTry w r
    | .rcomb _ => s.rcombTry w r
    | .rbias _ => s.rbiasTry w r
    | .rstat _ => s.rstatTry w r
    | _ => s.dropRoute w
  | .record b =>
    match b.kind with
    | 7 => (match s.takeSelection b with | (t, true) => t.dropRoute w | _ => s)
    | 8 => (match s.takeEndMark b with | (t, true) => t.dropRoute w | _ => s)
    | 0xB => s.rowTry w b
    | 0xE => s.outRowTry w b
    | _ => s.dropRoute w
  | .counted p =>
    match (s.partsOf w.job (w.batch.getD 0)).find? (fun x => x.p == p) with
    | some x => s.countedTry w x
    | none => s.dropRoute w
  | .final p =>
    match (s.partsOf w.job (w.batch.getD 0)).find? (fun x => x.p == p) with
    | some x => s.finalTry w x
    | none => s.dropRoute w

/-- Try the work with this id, unless the engines leave it for an event of its own, it is frozen, or earlier work holds it back. -/
def State.routeStep (s : State) (id : Nat) : State :=
  match s.routeWork.find? (fun w => w.id == id) with
  | none => s
  | some w => if s.enginesRest || w.frozen.isSome || s.heldBack w then s else s.routeTry w

/-- Add a piece of work, and try it at once. -/
def State.pushRoute (s : State) (die job : Nat) (batch : Option Nat) (what : RouteItem) : State :=
  let (s1, id) := s.fresh
  let s2 : State := { s1 with routeWork := s1.routeWork ++ [{ id := id, die := die, job := job, batch := batch, what := what }] }
  s2.routeStep id

/-- Whether a participant's closing writes are queued already. -/
def State.closingQueued (s : State) (x : Participant) : Bool :=
  s.routeWork.any (fun w => w.job == x.job && w.batch == some x.batch
    && (match w.what with | .counted p | .final p => p == x.p | _ => false))

/-- Queue the closing writes of every participant that has all it waits for. One that finalises waits for the acknowledgements of its own
rows too, so that each of its RROWs is answered (R187). -/
def State.closeParts (s : State) : State :=
  s.parts.foldl (fun t x =>
    if t.closingQueued x then t
    else if x.counted then t.pushRoute (t.partDie x) x.job (some x.batch) (.counted x.p)
    else if x.st == .finalising && x.finals.length == npartOf x.desc && x.rrow.isEmpty then
      t.pushRoute (t.partDie x) x.job (some x.batch) (.final x.p)
    else t) s

/-- Try all the work of the engines once, in order, and what it lets go on. -/
def State.routeRun (s : State) : State :=
  ((s.routeWork.map (·.id)).foldl (fun t id => t.routeStep id) s).closeParts

/-- A unit of a piece of work is performed by itself, as MEMORY_PERFORM names it; work that has none left goes on. -/
def State.performRoute (s : State) (id n : Nat) (ecc : EccOutcome) : State :=
  match s.routeWork.find? (fun w => w.id == id) with
  | none => s
  | some w =>
    if (s.job w.job).halted || w.frozen.isSome || s.heldBack w then s
    else (s.routeTry { w with single := some (n, ecc) }).closeParts

/-- The batch that a form names. -/
def Req.batch? (r : Req) : Option Nat :=
  match r.instr with
  | .rsel _ | .rrow _ => some (z32 r.d)
  | .rcloseSel _ | .rcloseFin _ | .rbias _ | .rstat _ => some (z32 r.a)
  | _ => none

/-- A routing form reaches its die's engine (commit step 4). -/
def State.acceptRoute (s : State) (c : Nat) (r : Req) : State := (s.pushRoute (dieOf c) r.job r.batch? (.form r)).closeParts

/-- The die of the engine that serves an arriving record. -/
def State.recordDie (s : State) (b : LinkRec) : Nat :=
  match (s.partsOf b.job b.rid).find? (fun x => b.kind != 0xB || x.p == recNat b.body 0 1) with
  | some x => s.partDie x
  | none => 0

/-- The answer to an agent's request to another device; one that its instance has given up is gone with it (R103). -/
def State.fabricAnswer (s : State) (rid status : Nat) (bs : List Byte) : State :=
  { s with fabric := (s.fabric.filter (fun f => f.rid != rid || f.owner.head? != some 0 || f.answer.isSome)).map (fun (f : FabReq) =>
      if f.rid = rid && f.answer.isNone then { f with answer := some (status, bs) } else f) }

/-- A routing record is taken by its engine (R180 to R189, R195); one for a job that is not here is discarded. -/
def State.routeRecord (s : State) (b : LinkRec) : State :=
  if (match s.job? b.job with | some x => x.ended | none => true) then s
  else
    (match b.kind with
      | 7 | 8 | 0xB => s.pushRoute (s.recordDie b) b.job (some b.rid) (.record b)
      | 9 => s.takeReturn b
      | 0xA => s.takeCounts b
      | 0xC => s.takeAck b
      | 0xD => s.takeFinal b
      | 0xE => s.pushRoute 0 b.job none (.record b)
      | 0xF => s.fabricAnswer b.rid (recNat b.body 0 1) (b.body.drop 8)
      | 0x10 => s.takeRelease b
      | _ => s).routeRun

end Sys2Proof.Machine
end

