-- ==== Sys2Proof/Machine/SysReqs.lean ====
section
/-! DEFINITION. Requests of frames, of the scheduler and of the system forms, as a commit hands them on (R143, R287 to R298,
R386 to R392), and the one operation that hands a request to whatever serves it (commit step 4). -/

namespace Sys2Proof.Machine

/-! ## Frames -/

/-- A FALLOC reaches the allocator of its target core (R287). -/
def State.acceptFalloc (s : State) (r : Req) : State :=
  match s.devCore r.job (z32 r.b) with
  | some t => s.onCore t (fun k => { k with fallocs := k.fallocs ++ [{ req := r, block := z32 r.a }] })
  | none => s

/-- The words of a token to core `dst`, for the WALL event of what is dropped at the wall and is no token (R112). -/
def Req.wallToken (r : Req) (dev dst frame : Nat) : Token :=
  { r.token dev 13 r.a false with core := BitVec.ofNat 7 dst, frame := BitVec.ofNat 19 frame }

/-- FFREE (R288): a local frame ends; a remote one is told of over the mesh; outside the rectangle it is dropped. -/
def State.acceptFfree (s : State) (c : Nat) (r : Req) : State :=
  let dst := fpCore r.a
  let base := fpBase r.a
  if dst = r.core then s.endFrame c r.job base
  else
    match s.devCore r.job dst with
    | some _ => { s with mesh := s.mesh ++ [{ job := r.job, src := r.core, dst := dst, vc := 0, what := .ffree r.job base dst r.inst }] }
    | none =>
      let t := r.wallToken s.devnum dst base
      s.wallDrop r.job c t.w0 t.w1

/-! ## The scheduler -/

/-- CANCEL (R294): the instance of an id, or the phase of an id, or the firing's own; an id that names none is ignored. -/
def State.acceptCancel (s : State) (r : Req) (phase : Bool) : State :=
  let v := z32 r.a
  if phase then
    let own := match s.inst? r.job r.inst with | some x => x.phase | none => 65536
    (s.cancelPhase r.job (if v = 0xFFFFFFFF then own else v)).settle r.job settleBound
  else
    let slot := if v = 0xFFFFFFFF then r.inst else v % 256
    match s.inst? r.job slot with
    | some x => if v = 0xFFFFFFFF || x.id slot == v then (s.cancelInst r.job slot).settle r.job settleBound else s
    | none => s

/-- SVWR (R387). -/
def State.acceptSvwr (s : State) (r : Req) : State := s.sendVar r (z32 r.a) r.b

/-- TICK (R389): it waits for its edge; a job without a tick is answered at once. -/
def State.acceptTick (s : State) (r : Req) : State :=
  if (s.job r.job).period = 0 then s.answer r 3 0 false
  else s.onJob r.job (fun x => { x with ticks := x.ticks ++ [(r, z32 r.a, s.time.toNat)] })

/-- Rooms of an `EXPO` value. -/
def expoRooms (v : Nat) : List Nat := (List.range 8).filter (fun i => bitAt v i)

/-- `PHASEID` of an `EXPO` value. -/
def expoPhase (v : Nat) : Nat := bits v 32 16

/-- A request to a room begins its wake, if it sleeps (R72). -/
def State.beginWake (s : State) (r : Nat) : State :=
  if (s.room r).lit then s else { s with rooms := Table.modify s.rooms r {} (fun m => { m with waking := true }) }

/-- EXPO (R75, R76, R79, R390): the register is written, counts pass to their previous-phase copies where `PHASEID` changes,
and the answer waits for every room of the mask. -/
def State.acceptExpo (s : State) (r : Req) : State :=
  let v := if s.proof then r.a.toNat - bits r.a.toNat 2 6 * 4 else r.a.toNat
  let s1 := s.onJob r.job (fun x =>
    let y := { x with expo := BitVec.ofNat 64 v }
    if expoPhase v = expoPhase x.expo.toNat then y else { y with prevWakes := x.wakes, prevBytes := x.bytes, wakes := [], bytes := [] })
  let s2 := (expoRooms v).foldl (fun t n => t.beginWake n) s1
  if (expoRooms v).all (fun n => (s2.room n).lit) then s2.answer r 3 (BitVec.ofNat 64 v) false
  else s2.onJob r.job (fun x => { x with expos := x.expos ++ [(r, BitVec.ofNat 64 v, (s.job r.job).expo)] })

/-- Answer the EXPOs of every job whose rooms are LIT (R76). -/
def State.answerExpos (s : State) : State :=
  s.jobs.foldl (fun t (j, x) =>
    let ready (p : Req × W64 × W64) : Bool := (expoRooms p.2.1.toNat).all (fun n => (t.room n).lit)
    let t1 := (x.expos.filter ready).foldl (fun u p => u.answer p.1 3 p.2.1 false) t
    t1.onJob j (fun y => { y with expos := y.expos.filter (fun p => !ready p) })) s

/-! ## Counters (R388) -/

/-- A counter of CNTRD. -/
def State.counterOf (s : State) (c : Nat) (r : Req) : Nat :=
  let x := s.job r.job
  let i := z32 r.a
  match bits r.m.mflg.toNat 0 2 with
  | 0 => if i < 20 then (Table.getD (s.core c).perf (64 * r.job + i) 0).toNat else 0
  | 1 =>
    if i < 32 then
      match i % 4 with
      | 0 => Table.getD x.wakes (i / 4) 0
      | 1 => Table.getD x.bytes (i / 4) 0
      | 2 => Table.getD x.prevWakes (i / 4) 0
      | _ => Table.getD x.prevBytes (i / 4) 0
    else 0
  | 2 =>
    match i with
    | 0 => x.wall.toNat
    | 1 => x.lostTrap
    | 2 => x.lostFault
    | 3 => (match s.inst? r.job r.inst with | some v => v.poison | none => 0)
    | 4 => x.owed
    | 5 => x.deadlines
    | _ => 0
  | _ => 0

/-- CNTRD's answer is placed straight in the issuing core's buffer (R388); one that finds no room there waits on the mesh. -/
def State.placeCounter (s : State) (c : Nat) (r : Req) (shadow : Bool) : State :=
  let t := if shadow then r.token s.devnum 0 0 true else r.token s.devnum 3 (BitVec.ofNat 64 (s.counterOf c r)) false
  match s.letIn c t with
  | (s1, true) => s1
  | (s1, false) => s1.deliver 128 t

/-! ## Stealing (R295 to R298) -/

/-- GDONE (R298): the core closes to stealing for the instance, and its requests receive empty replies. -/
def State.acceptGdone (s : State) (c : Nat) (r : Req) : State :=
  let k := s.core c
  let mine (m : StealReq) : Bool := m.job == r.job && m.inst == r.inst && !m.reserved
  let key := (r.job, r.inst)
  let k1 := { k with mailbox := k.mailbox.filter (fun m => !mine m), closed := if k.closed.contains key then k.closed else key :: k.closed }
  (k.mailbox.filter mine).foldl (fun t m => t.stealAnswer c r.core m.reply 0 false) (s.setCore c k1)

/-- A STEAL leaves for its victim (R296). `DEV` is the device field of its FRAMEP (Table 10.7): a request that names another device
leaves for it like any token, and is no steal request there (log entry 90). -/
def State.sendSteal (s : State) (c jc j inst victim : Nat) (reply : Token) (poison : Bool) : State :=
  let t : Token := { reply with core := BitVec.ofNat 7 victim, poison := poison }
  if reply.dev.toNat ≠ s.devnum then s.sendToken c jc t
  else
  match s.devCore j victim with
  | none => s.wallDrop j c t.w0 t.w1
  | some _ =>
    let s1 : State := { s with mesh := s.mesh ++ [{ job := j, src := jc, dst := victim, vc := 0, what := .steal victim poison reply inst }] }
    if victim = jc then s1 else s1.countSent j inst jc

/-- A STEAL reaches its victim (R296). -/
def State.takeSteal (s : State) (c jc j inst : Nat) (reply : Token) (poison : Bool) : State :=
  let k := s.core c
  if poison then s.stealAnswer c jc reply 0 true
  else if decide (4 ≤ k.mailbox.length) || k.closed.contains (j, inst) then s.stealAnswer c jc reply 0 false
  else
    let (s1, id) := s.fresh
    s1.onCore c (fun k => { k with mailbox := k.mailbox ++ [{ id := id, job := j, inst := inst, reply := reply }] })

/-! ## Commit step 4 -/

/-- A request is handed to whatever serves it; none where it must wait for a place (R163, R164, R166, R359). -/
def State.performRequest (s : State) (c : Nat) (r : Req) : Option State :=
  match r.instr with
  | .cpy _ | .cpyr _ => s.enterCopy c r
  | .mma _ | .mmas _ | .mmaw _ | .mmax _ => s.acceptMma c r
  | .racc _ | .racs _ => s.contribute c r false
  | .wgo _ => some (s.acceptWgo c r)
  | .wpar _ => some (s.acceptWpar c r)
  | .wstop _ => some (s.acceptWstop c r)
  | .wstat _ => some (s.acceptWstat c r)
  | .ropen _ | .rsel _ | .rrow _ | .rcloseSel _ | .rcloseFin _ | .rcomb _ | .rbias _ | .rstat _ => some (s.acceptRoute c r)
  | .falloc _ => some (s.acceptFalloc r)
  | .ffree _ => some (s.acceptFfree c r)
  | .cancel w => some (s.acceptCancel r (w.mod != 0))
  | .gdone _ => some (s.acceptGdone c r)
  | .svwr _ => some (s.acceptSvwr r)
  | .tick _ => some (s.acceptTick r)
  | .expo _ => some (s.acceptExpo r)
  | .perfSet _ =>
    some (if z32 r.a < 20 then s.onCore c (fun k => { k with perf := Table.put k.perf (64 * r.job + z32 r.a) r.b }) else s)
  | _ =>
    match r.instr.form with
    | some (_, .t _) => some (s.acceptTile c r)
    | some (_, .m _) => s.enterMem c r
    | _ => some s

/-- A request that names a continuation and is dropped in shadow: the continuation receives a poisoned CTRL token (R136). -/
def Req.answersShadow (r : Req) : Bool :=
  match r.instr with
  | .cancel _ | .perfSet _ => false
  | _ => true

/-- The accumulator that a RACC or RACS names exists for a poison mark: its handle is valid, its key in range (R350). -/
def State.marksAcc (s : State) (c : Nat) (r : Req) : Bool :=
  match r.instr with
  | .racc _ => (s.core c).handleOk r.core r.job r.a
  | .racs _ => decide (z32 r.b < 256)
  | _ => false

/-- A request of a shadow firing (R136, R350): frame requests and GDONE are made as usual, an accumulator that is named rightly takes a
poison mark, and everything else is dropped. -/
def State.performShadow (s : State) (c : Nat) (r : Req) : Option State :=
  match r.instr with
  | .falloc _ | .ffree _ | .gdone _ => s.performRequest c r
  | .racc _ | .racs _ => (if s.marksAcc c r then s.contribute c r true else some s).map (fun t => t.answerCtrl r true)
  | _ => some (if r.answersShadow then s.answerCtrl r true else s)

end Sys2Proof.Machine
end

