-- ==== Sys2Proof/Machine/Commit.lean ====
section
/-! DEFINITION. The commit of a firing (R139): its checks (R149, R150, R324, R327, R332), its seven steps, and what waits
where an engine or the reorder window is full (R163, R164, R166, R359). -/

namespace Sys2Proof.Machine

/-! ## Checks -/

/-- The tile operands that a request names, the target of TFREE among them. -/
def Req.named (r : Req) : List W64 :=
  match r.instr with
  | .tfree _ => [r.a]
  | _ => r.handles

/-- The handles that a staged item names, with the index of its word. -/
def Staged.names (shadow : Bool) : Staged → List (W64 × Nat)
  | .keep _ v i => [(v, i)]
  | .send t i => if t.type = 12 then [(t.w2, i)] else []
  | .request r => if shadow then [] else r.named.map (fun h => (h, r.index))
  | _ => []

/-- An accumulator state exists on the tile (R349). -/
def Core.accOn (k : Core) (h : W64) : Bool := k.accs.any (fun a => a.isTile && a.name == h.toNat)

/-- The in-place rules (R149, R327, R349) and TFREE's (R332). -/
def Core.mayWrite (k : Core) (r : Req) : Bool :=
  (match r.target with
    | some h => !(k.opTile h).view && !r.targetIsSource && (k.opTile h).refcnt == 1 && !k.accOn h
    | none => true)
    && (match r.instr with | .tfree _ => (k.opTile r.a).refcnt == 1 | _ => true)

/-- Every handle to which the commit adds a reference (Table 6.6). -/
def Firing.increments (l : Firing) : List W64 :=
  l.staged.flatMap (fun x =>
    match x with
    | .keep _ v _ => [v]
    | .send t _ => if t.type = 12 then [t.w2] else []
    | .request r => if l.shadow then [] else r.handles
    | _ => [])

/-- What the commit of a firing traps on, if it does: the trap and the index of its word. -/
def Firing.commitTrap (l : Firing) (s : State) (c : Nat) : Option (Trap × Nat) :=
  let k := s.core c
  let stale := (l.staged.flatMap (Staged.names l.shadow)).find? (fun p => !l.handleOk s c p.1)
  match stale with
  | some (_, i) => some (.tileStale, i)
  | none =>
    let shared := l.staged.findSome? (fun x =>
      match x with
      | .request r => if l.shadow || k.mayWrite r then none else some r.index
      | _ => none)
    match shared with
    | some i => some (.tileShared, i)
    | none =>
      let incs := l.increments
      if incs.any (fun h => decide (65535 < (k.opTile h).refcnt + incs.count h)) then some (.tileShared, l.pc) else none

/-- Where a firing traps: the word at an index of its block, with the values it read there. -/
def State.siteAt (s : State) (c : Nat) (l : Firing) (index : Nat) : TrapSite :=
  let word := match (s.core c).blockOf l.job l.block with
    | some b => b.code.getD index 0
    | none => 0
  let (a, b, cd) := Table.getD l.seen index (0, 0, 0)
  { word := word, index := index, a := a, b := b, cd := cd, input := some l.first }

/-! ## Steps 1 to 3 -/

/-- One slot write in program order: the slot, and a kept handle whose release step 7 makes (R292). -/
def Core.commitWrite (k : Core) (l : Firing) (slot : Nat) (val : W64) (kept : Bool) : Core × List W64 :=
  let x := k.slot slot
  (k.setSlot slot { x with val := val, poison := l.shadow, kept := kept, owner := some l.job }, if x.kept then [x.val] else [])

/-- What a staged item does to the core in steps 1 and 3, with the handles that step 7 releases. -/
def Core.applyStaged (k : Core) (l : Firing) (x : Staged) : Core × List W64 :=
  match x with
  | .write a v => k.commitWrite l a v false
  | .keep a v _ => k.commitWrite l a v true
  | .drop a => k.commitWrite l a 0 false
  | .flimit b n =>
    match Table.find k.blocks b with
    | some blk => ({ k with blocks := Table.put k.blocks b { blk with limit := n } }, [])
    | none => (k, [])
  | _ => (k, [])

/-- The in-place writes of a target that are not the last of their commit answer CTRL (R327). -/
def markEarlier : List Staged → List Staged
  | [] => []
  | .request r :: xs =>
    let later := xs.any (fun y => match y with | .request q => q.target.isSome && q.target == r.target | _ => false)
    .request { r with notLast := r.target.isSome && later } :: markEarlier xs
  | x :: xs => x :: markEarlier xs

/-- Steps 1 to 3: slot writes, increments, limits. The lane keeps what the later steps need. -/
def State.enterCommit (s : State) (c : Nat) (l : Firing) : State × Firing :=
  let k := s.core c
  let (k1, rel) := l.staged.foldl (fun (p : Core × List W64) x =>
    let (k, r) := p.1.applyStaged l x
    (k, p.2 ++ r)) (k, [])
  let k2 := l.increments.foldl (fun k h => k.retain (handleIndex h)) k1
  let rest := markEarlier (l.staged.filter (fun x => match x with | .write _ _ | .keep _ _ _ | .drop _ | .flimit _ _ => false | _ => true))
  (s.setCore c k2, { l with entered := true, staged := rest, release := l.release ++ rel })

/-! ## Steps 4 to 7 -/

/-- The staged requests, in program order. -/
def Firing.requests (l : Firing) : List Req := l.staged.filterMap (fun x => match x with | .request r => some r | _ => none)

/-- Step 4 until a request must wait: the state, and the requests still to be handed on. A request takes its id as it is
handed on, so that ids rise in the order of acceptance. -/
def State.stepRequests (s : State) (c : Nat) (shadow : Bool) : List Req → State × List Req
  | [] => (s, [])
  | r :: rs =>
    let (t, id) := s.fresh
    let q := { r with id := id }
    match (if shadow then t.performShadow c q else t.performRequest c q) with
    | some s1 => State.stepRequests s1 c shadow rs
    | none => (s, r :: rs)

/-- Step 5: one staged send (R284, R296, R297). -/
def State.stepSend (s : State) (c : Nat) (l : Firing) (x : Staged) : State :=
  let jc := s.coreFor c l
  match x with
  | .send t _ =>
    let spoiled := t.type == 12 && ((s.core c).opTile t.w2).poison
    s.sendToken c jc { t with poison := l.shadow || spoiled }
  | .steal victim reply => s.sendSteal c jc l.job l.inst victim reply l.shadow
  | .stealReply n t =>
    let s1 := s.onCore c (fun k => { k with mailbox := k.mailbox.filter (fun m => m.id != n) })
    s1.sendToken c jc { t with poison := l.shadow }
  | _ => s

/-- After step 5: CNTRD's answers (R388). -/
def State.stepCounter (s : State) (c : Nat) (l : Firing) (x : Staged) : State :=
  match x with
  | .counter r => s.placeCounter c r l.shadow
  | _ => s

/-- Step 6: sticky flags in program order (R392). -/
def Staged.flags (f : BitVec 5) : Staged → BitVec 5
  | .flagsRaise x => f ||| x
  | .flagsSet x => x
  | .flagsJoin x => f ||| x
  | _ => f

/-- TFREE at step 7: the count is 0 whoever holds the reference, and a kept slot keeps the handle as a plain value (R332). -/
def Core.freeAtCommit (k : Core) (h : W64) : Core :=
  let k1 := k.onTile (handleIndex h) (fun t => if t.st.live then { t with refcnt := 0, st := .freeing } else t)
  { k1 with slots := k1.slots.map (fun p => if p.2.kept && p.2.val == h then (p.1, { p.2 with kept := false }) else p) }

/-- Steps 5 to 7, once every request is handed on. -/
def State.finishCommit (s : State) (c : Nat) (l : Firing) : State :=
  let s1 := l.staged.foldl (fun t x => t.stepSend c l x) s
  let s2 := l.staged.foldl (fun t x => t.stepCounter c l x) s1
  let jc := s2.coreFor c l
  s2.onCore c (fun k =>
    let k1 := if l.shadow then k else
      let f := Table.getD k.xflags l.job 0
      let g := l.staged.foldl Staged.flags f
      if g = f then k else { k with xflags := Table.put k.xflags l.job g }
    let k2 := l.frees.foldl (fun k h => k.freeAtCommit h) k1
    l.release.foldl (fun k h => k.releaseHandle jc l.job h) k2)

/-- The commit waits for the reorder window (R166), behind which later firings may commit. -/
def Firing.waitsWindow (l : Firing) : Bool :=
  match l.requests with
  | r :: _ => (match r.instr with | .racc _ | .racs _ => true | _ => false)
  | [] => false

/-- The commit of a firing whose body has ended: none where it is over, by its commit or by a trap; else the lane as it
waits. -/
def State.commitLane (s : State) (c : Nat) (l : Firing) : State × Option Firing :=
  let start : State × Option Firing :=
    if l.entered then (s, some l)
    else
      match l.commitTrap s c with
      | some (t, i) => (s.takeTrap c l t (s.siteAt c l i), none)
      | none =>
        let s1 := if l.shadow then (s.onInst l.job l.inst (fun v => { v with poison := v.poison + 1 })).count c l.job 4 1 else s
        let freed (r : Req) : Option W64 := match r.instr with | .tfree _ => some r.a | _ => none
        let (s2, l1) := s1.enterCommit c { l with frees := if l.shadow then [] else l.requests.filterMap freed }
        ((s2.count c l.job 1 1).progress l.job l.inst, some l1)
  match start with
  | (s1, none) => (s1, none)
  | (s1, some l1) =>
    let (s2, waiting) := s1.stepRequests c l1.shadow l1.requests
    if waiting.isEmpty then (s2.finishCommit c l1, none)
    else
      let others := l1.staged.filter (fun x => match x with | .request _ => false | _ => true)
      (s2, some { l1 with staged := waiting.map .request ++ others })

/-- Commit the lanes of a group in lane order, those of jobs in `blocked` apart: what is left of them, and the jobs blocked now (R359).
The lanes behind one that waits stay behind it, for requests leave in lane order (R357); a wait for the reorder window holds back no other
group (R166). -/
def State.commitLanes (s : State) (c : Nat) : List Firing → List Nat → State × List Firing × List Nat
  | [], blocked => (s, [], blocked)
  | l :: ls, blocked =>
    if l.dead then State.commitLanes s c ls blocked
    else if !l.ended || l.stopped || blocked.contains l.job then
      let (s1, rest, b) := State.commitLanes s c ls blocked
      (s1, l :: rest, b)
    else
      match s.commitLane c l with
      | (s1, none) => State.commitLanes s1 c ls blocked
      | (s1, some l1) => (s1, l1 :: ls.filter (fun x => !x.dead), if l1.waitsWindow then blocked else l1.job :: blocked)

/-- Commit the groups of a core that have ended, oldest first: what is left of them. -/
def State.commitGroups (s : State) (c : Nat) : List Group → List Nat → State × List Group
  | [], _ => (s, [])
  | g :: gs, blocked =>
    let (s1, lanes, b) := s.commitLanes c g.lanes blocked
    let (s2, rest) := State.commitGroups s1 c gs b
    (s2, if lanes.isEmpty then rest else { g with lanes := lanes } :: rest)

/-- Commits that wait on a core go on as far as they can; one that traps may freeze an instance. -/
def State.resumeCommits (s : State) (c : Nat) : State :=
  let gs := (s.core c).groups
  let (s1, rest) := (s.onCore c (fun k => { k with groups := [] })).commitGroups c gs []
  (s1.onCore c (fun k => { k with groups := rest ++ k.groups })).stopLanes c

/-- A commit of the job waits for an engine, behind which none of its firings commits (R359): the first lane of a group tells. -/
def Core.commitBlocked (k : Core) (j : Nat) : Bool :=
  k.groups.any (fun g => match g.lanes.find? (fun l => !l.dead && !l.stopped) with
    | some l => l.job == j && l.ended && !(l.entered && l.waitsWindow)
    | none => false)

end Sys2Proof.Machine
end

