-- ==== Sys2Proof/Machine/Issue.lean ====
section
/-! DEFINITION. The matcher (R130 to R136, R172, R209), the choice of the job that issues and the forming of groups (R114,
R137, R141), and the issue of one word to the lanes of a group (R137 to R139, R252). -/

namespace Sys2Proof

/-- Ports that a mode accepts (Table 6.1). -/
def MatchMode.accepts (m : MatchMode) (port : Nat) : Bool :=
  match m with
  | .match1 | .matchc => decide (port < 3)
  | .match2 | .merge => decide (port < 2)

/-- Slots that a mode's places take. -/
def MatchMode.span : MatchMode → Nat
  | .match1 => 0 | .match2 => 2 | .matchc => 2 | .merge => 4

end Sys2Proof

namespace Sys2Proof.Machine

/-! ## The checks of R134 -/

/-- What the matcher finds of a token: the block and its entry, the index of the entry's first body word, whether the
firing is frameless, the token as converted on entry, and the token as it came (R142, R209). -/
structure Matched where
  block : Block
  entry : Entry
  first : Nat
  frameless : Bool
  token : Token
  came : Token

/-- The mode of a conversion on entry: RNE towards float types, RZ towards integer types (R209). -/
def entryMode (into : ScalarTy) : RMode := if into.float.isSome then .rne else .rz

/-- Check 4: the token's type is the declared one, or converts to it. A poisoned token skips the check. -/
def typedFor (decl : Option ScalarTy) (cnv : Bool) (t : Token) : Option Token :=
  match decl with
  | none => some t
  | some ty =>
    if t.poison || t.type.toNat == ty.code then some t
    else
      match ScalarTy.ofCode t.type.toNat with
      | some from_ =>
        if cnv then
          (cvtScalar ty from_ t.w2 (entryMode ty) false 0).map (fun p =>
            { t with type := BitVec.ofNat 5 ty.code, w2 := p.1, xf := p.2 })
        else none
      | none => none

/-- The checks of R134 in order, with the index and the word at which the firing would trap. -/
def State.checkToken (s : State) (c : Nat) (t : Token) : Except (Trap × Nat × W64) Matched :=
  let k := s.core c
  let j := t.job.toNat
  match k.blockOf j t.block.toNat with
  | none => .error (.blockAbsent, 0, 0)
  | some b =>
    match b.entryAt t.entry.toNat with
    | none => .error (.blockAbsent, 0, 0)
    | some (i, w, e) =>
      let frame := k.frames.find? (fun f => f.base == t.frame.toNat && f.job == j && f.block == t.block.toNat)
      let loose := e.mode == .match1 && !b.framesGiven
      let framed := match frame with
        | some f => decide (e.slot + e.mode.span ≤ f.size)
        | none => loose
      if !framed then .error (.frameBad, i, w)
      else if !e.mode.accepts t.port.toNat then .error (.type, i, w)
      else
        match typedFor (if t.port = 1 then e.rty else e.lty) e.cnv t with
        | none => .error (.type, i, w)
        | some u => .ok { block := b, entry := e, first := i + 1, frameless := frame.isNone, token := u, came := t }

/-! ## Deferral (R133) -/

/-- A firing matched on the same frame and entry has not committed or aborted. -/
def Core.openFiring (k : Core) (t : Token) : Bool :=
  let same (l : Firing) : Bool :=
    l.job == t.job.toNat && l.block == t.block.toNat && l.frame == t.frame.toNat && l.entry == t.entry.toNat && !l.dead
  k.ready.any same || k.groups.any (fun g => g.lanes.any same)

/-- The token would park on a full place, or is a `matchc` R token without a sticky value. -/
def Core.placeFull (k : Core) (m : Matched) : Bool :=
  let p := m.token.frame.toNat + m.entry.slot
  let port := m.token.port.toNat
  match m.entry.mode with
  | .match1 => false
  | .match2 => (k.slot p).present && (k.slot (p + 1)).port == port
  | .matchc => port == 1 && !(k.slot p).present
  | .merge => (k.slot (p + 2 * port)).present

/-! ## Places (R131) -/

/-- An uncorrectable error struck a slot of a place. -/
def Core.placeBad (k : Core) (place : Nat) : Bool := k.badSlots.contains place || k.badSlots.contains (place + 1)

/-- The token parked in a place of an entry; it is poisoned where an error struck a slot of the place (R173), here or before the place
was saved. -/
def Core.parkedToken (k : Core) (t : Token) (place : Nat) : Token :=
  let b := k.slot (place + 1)
  let u := Token.ofWords t.w0 b.val.toNat (k.slot place).val b.side
  { u with port := BitVec.ofNat 2 b.port, xf := b.xf, poison := u.poison || (k.slot place).poison || b.poison || k.placeBad place }

/-- Park a token: W2 in the place's first slot, W1 and the sideband in its second. -/
def Core.park (k : Core) (t : Token) (place : Nat) : Core :=
  let j := t.job.toNat
  let a : Slot := { val := t.w2, present := true, poison := t.poison, owner := some j }
  let b : Slot := { val := BitVec.ofNat 64 t.w1, side := t.inst, port := t.port.toNat, xf := t.xf, owner := some j }
  (k.setSlot place a).setSlot (place + 1) b |>.count j 10 1

/-- What a place held, for the abort of the firing that takes it: an operand that an error struck stays poisoned. -/
def Core.held (k : Core) (t : Token) (place : Nat) : Parked :=
  { slot := place, first := k.slot place, second := { k.slot (place + 1) with val := BitVec.ofNat 64 (k.parkedToken t place).w1 } }

/-- Clear a place's presence; the bits of its slots stay as they are. -/
def Core.empty (k : Core) (place : Nat) : Core := { k with slots := Table.put k.slots place { k.slot place with present := false } }

/-! ## Firings (R135) -/

/-- The handle that a consumed operand brings. -/
def Token.ref (t : Token) : List W64 := if t.type = 12 then [t.w2] else []

/-- A firing as it stands at entry (Table 6.2). T2 to T7 are free draws. Log entry 4. -/
def Matched.firing (m : Matched) (draw : Nat) (from_ : Token) (t0 t1 : W64) (dim tyL tyR : Nat) (used : List Token) : Firing :=
  let t := m.token
  let xf := used.foldl (fun f u => f ||| u.xf) (0 : BitVec 5)
  { job := t.job.toNat
    inst := t.inst
    block := t.block.toNat
    entry := t.entry.toNat
    frame := t.frame.toNat
    frameless := m.frameless
    temps := [t0, t1] ++ (List.range 6).map (fun i => Config.freeTemp (draw + i))
    preds := [false, false, false]
    tag := from_.tag
    dim := dim
    tyL := tyL
    tyR := tyR
    otag := from_.tag
    odim := dim
    shadow := used.any (fun u => u.poison)
    first := from_
    staged := if xf = 0 then [] else [.flagsRaise xf]
    pc := m.first }

/-- A firing enters the ready queue. -/
def State.fire (s : State) (c : Nat) (l : Firing) : State :=
  let s1 := s.onCore c (fun k => { k with ready := k.ready ++ [{ l with seq := s.draws }] })
  { s1 with draws := s1.draws + 6 }

/-- The ports that a merge fires on now (R132): the place taken, and whether the R token is discarded with it. -/
def mergeChoice (l r : Token) : Nat × Bool :=
  let lc := l.dim == 7
  let rc := r.dim == 7
  if lc && rc then (0, true)
  else if lc then (1, false)
  else if rc then (0, false)
  else (if l.tag ≤ r.tag then 0 else 1, false)

/-- A merge entry whose places are both full, on core `c` as it now is, fires the token that R132 chooses. -/
def State.mergeFire (s : State) (c : Nat) (m : Matched) (k : Core) : State :=
  let p := m.token.frame.toNat + m.entry.slot
  let a := k.parkedToken m.token p
  let b := k.parkedToken m.token (p + 2)
  let (n, both) := mergeChoice a b
  let u := if n = 0 then a else b
  let q := p + 2 * n
  let l := m.firing s.draws u u.w2 (BitVec.ofNat 64 n) u.dim.toNat u.type.toNat 3 [u]
  let k1 := k.empty q
  if both then
    (s.setCore c (k1.empty (p + 2))).fire c { l with
      parked := [k.held m.token q, k.held m.token (p + 2)], release := u.ref ++ b.ref }
  else (s.setCore c k1).fire c { l with parked := [k.held m.token q], release := u.ref }

/-- The matcher takes a token that its checks and its places let through (Table 6.1). -/
def State.matchTaken (s : State) (c : Nat) (m : Matched) : State :=
  let t := m.token
  let j := t.job.toNat
  let jc := (s.job j).jobCore c
  let k := s.core c
  let p := t.frame.toNat + m.entry.slot
  let port := t.port.toNat
  let ty (u : Token) : Nat := u.type.toNat
  match m.entry.mode with
  | .match1 =>
    let l := m.firing s.draws t t.w2 (BitVec.ofNat 64 port) t.dim.toNat (ty t) 3 [t]
    s.fire c { l with inputs := [m.came], release := t.ref }
  | .match2 =>
    if !(k.slot p).present then s.setCore c (k.park t p)
    else
      let u := k.parkedToken t p
      let (a, b) := if port = 1 then (u, t) else (t, u)
      let l := m.firing s.draws a a.w2 b.w2 (max a.dim.toNat b.dim.toNat) (ty a) (ty b) [a, b]
      (s.setCore c (k.empty p)).fire c { l with inputs := [m.came], parked := [k.held t p], release := a.ref ++ b.ref }
  | .matchc =>
    if port = 1 then
      let u := k.parkedToken t p
      let l := m.firing s.draws t u.w2 t.w2 t.dim.toNat (ty u) (ty t) [u, t]
      s.fire c { l with inputs := [m.came], release := t.ref, staged := if t.xf = 0 then [] else [.flagsRaise t.xf] }
    else
      let k1 := if (k.slot p).present then ((k.parkedToken t p).ref.foldl (fun k v => k.releaseHandle jc j v) k).empty p else k
      if port = 0 then s.setCore c (k1.park t p)
      else s.setCore c (t.ref.foldl (fun k v => k.releaseHandle jc j v) k1)
  | .merge =>
    let k1 := k.park t (p + 2 * port)
    if (k1.slot p).present && (k1.slot (p + 2)).present then s.mergeFire c m k1 else s.setCore c k1

/-- A token that fails a check: the firing formed from it alone traps at the entry's MATCH word (R134). -/
def State.matchTrap (s : State) (c : Nat) (t : Token) (trap : Trap) (index : Nat) (word : W64) : State :=
  let l : Firing :=
    { job := t.job.toNat
      inst := t.inst
      block := t.block.toNat
      entry := t.entry.toNat
      frame := t.frame.toNat
      tag := t.tag
      dim := t.dim.toNat
      tyL := t.type.toNat
      tyR := 3
      first := t
      inputs := [t]
      release := t.ref }
  s.takeTrap c l trap { word := word, index := index, input := some t }

/-! ## The matcher (R130) -/

/-- What the matcher does with a token now. -/
inductive MatchStep where
  | later
  | take (m : Matched)
  | trap (t : Trap) (index : Nat) (word : W64)

/-- The matcher's view of a token. One whose instance is FROZEN and which fails a check stays. -/
def State.tokenStep (s : State) (c : Nat) (t : Token) : MatchStep :=
  match s.checkToken c t with
  | .error (e, i, w) =>
    (match s.inst? t.job.toNat t.inst with
      | some v => if v.st == .frozen then .later else .trap e i w
      | none => .trap e i w)
  | .ok m => if (s.core c).openFiring t || (s.core c).placeFull m then .later else .take m

/-- The matcher defers the token (R133). -/
def State.defers (s : State) (c : Nat) (t : Token) : Bool :=
  match s.checkToken c t with
  | .ok m => (s.core c).openFiring t || (s.core c).placeFull m
  | .error _ => false

/-- The first token of a job in a queue that the matcher does not pass over: those before it, the token, and those after. -/
def State.firstTaken (s : State) (c j : Nat) : List Token → List Token → Option (List Token × Token × MatchStep × List Token)
  | _, [] => none
  | seen, t :: ts =>
    if t.job.toNat = j then
      match s.tokenStep c t with
      | .later => State.firstTaken s c j ({ t with passed := t.passed || s.defers c t } :: seen) ts
      | x => some (seen.reverse, t, x, ts)
    else State.firstTaken s c j (t :: seen) ts

/-- Tokens per window that a job may have matched, 0 for no limit: the smaller of its limit and the HKC's (R116). -/
def State.rateLimit (s : State) (c j : Nat) : Nat :=
  let a := (s.job j).rate
  let b := (s.core c).hkcLimit
  if a = 0 then b else if b = 0 then a else min a b

/-- The counts of the window of 256 clocks that runs now (R172). -/
def Core.windowNow (k : Core) (clock : Nat) : Table Nat := if k.windowAt = clock / 256 then k.window else []

/-- The job may have a token matched in this window (R172). -/
def State.rateOk (s : State) (c j : Nat) : Bool :=
  let n := s.rateLimit c j
  n == 0 || decide (Table.getD ((s.core c).windowNow s.clock) j 0 < n)

/-- Job ids in cyclic order, beginning with the one after `j`. -/
def cyclicAfter (j : Nat) : List Nat := (List.range 64).map (fun i => (j + 1 + i) % 64)

/-- A merge entry of a job whose places are both full, and from which no firing is open: a firing that was aborted gave its operand back
(R142). -/
def State.mergeReady (s : State) (c j : Nat) : Option Matched :=
  let k := s.core c
  (k.frames.filter (fun f => f.job == j)).findSome? (fun f =>
    match k.blockOf j f.block with
    | none => none
    | some b =>
      (List.range b.code.length).findSome? (fun n =>
        match b.entryAt n with
        | some (i, _, e) =>
          let t : Token := { core := BitVec.ofNat 7 ((s.job j).jobCore c), dev := s.host.devnum, frame := BitVec.ofNat 19 f.base,
                             block := BitVec.ofNat 12 f.block, entry := BitVec.ofNat 7 n, job := BitVec.ofNat 6 j }
          let p := f.base + e.slot
          if e.mode == .merge && (k.slot p).present && (k.slot (p + 2)).present && !k.openFiring t then
            let u := k.parkedToken t p
            some { block := b, entry := e, first := i + 1, frameless := false, token := u, came := u }
          else none
        | none => none))

/-- The target has matched a tile of a walker of this core (R157). -/
def Core.matchedTile (k : Core) (t : Token) : Core :=
  if t.type = 12 then { k with walkers := k.walkers.map (fun (n, w) => (n, { w with out := w.out.erase t.w2 })) } else k

/-- The matcher takes a token of a job, or fires a merge of it again, marking and counting what it passes over. -/
def State.matchJob (s : State) (c j : Nat) : Option State :=
  let k := s.core c
  match s.mergeReady c j with
  | some m => some (s.mergeFire c m { k with lastMatched := j })
  | none =>
    match s.firstTaken c j [] k.buffer with
    | none => none
    | some (before, t, x, after) =>
      let fresh := countIf (fun (p : Token × Token) => p.1.passed && !p.2.passed) (before.zip k.buffer)
      let s1 := s.onCore c (fun k => { (k.count j 11 fresh).matchedTile t with
        buffer := before ++ after
        window := Table.modify (k.windowNow s.clock) j 0 (· + 1)
        windowAt := s.clock / 256
        lastMatched := j })
      match x with
      | .take m => some (s1.matchTaken c m)
      | .trap e i w => some (s1.matchTrap c t e i w)
      | .later => none

/-- The matcher passes over every token of a job: those that it defers are marked and counted (R133, R174). -/
def State.passOver (s : State) (c j : Nat) : State :=
  let hit (t : Token) : Bool := t.job.toNat == j && !t.passed && s.defers c t
  s.onCore c (fun k => { k.count j 11 (countIf hit k.buffer) with buffer := k.buffer.map (fun t => if hit t then { t with passed := true } else t) })

/-- The matcher turns to jobs in order until one has a token to take. -/
def State.matchFrom (s : State) (c : Nat) : List Nat → State
  | [] => s
  | j :: js =>
    match s.matchJob c j with
    | some t => t
    | none => State.matchFrom (s.passOver c j) c js

/-- One token of the matcher (MATCH): the next job in turn that has one to take. While the ready queue is full the matcher
stops (R137). -/
def State.matchNext (s : State) (c : Nat) : State :=
  let k := s.core c
  if decide (1024 ≤ k.ready.length) then s
  else
    s.matchFrom c ((cyclicAfter k.lastMatched).filter (fun j =>
      !(s.job j).halted && s.rateOk c j && (k.buffer.any (fun t => t.job.toNat == j) || k.frames.any (fun f => f.job == j))))

/-! ## Choosing what issues -/

/-- A lane still has words to issue. -/
def Firing.going (l : Firing) : Bool := !l.dead && !l.ended

/-- The job's group that has words to issue, with its place among the core's groups. -/
def Core.issuing (k : Core) (j : Nat) : Option (Nat × Group) :=
  (k.groups.zipIdx.find? (fun p => p.1.job == j && p.1.lanes.any Firing.going)).map (fun p => (p.2, p.1))

/-- Another firing of the frame is issued and not committed (R141). -/
def Core.frameBusy (k : Core) (l : Firing) : Bool :=
  !l.frameless && k.groups.any (fun g => g.lanes.any (fun m => m.job == l.job && !m.frameless && m.frame == l.frame && !m.dead))

/-- A ready firing can start: its instance is LIVE, and its frame is free of other firings or its block re-entrant. -/
def State.canIssue (s : State) (c : Nat) (l : Firing) : Bool :=
  let k := s.core c
  let live := match s.inst? l.job l.inst with
    | some v => v.st == .live
    | none => false
  match k.blockOf l.job l.block with
  | some b => live && (b.reent || !k.frameBusy l)
  | none => false

/-- The job's oldest ready firing that can start. -/
def State.nextReady (s : State) (c j : Nat) : Option Firing :=
  (s.core c).ready.find? (fun l => l.job == j && s.canIssue c l)

/-- The job has a firing to issue at this clock. -/
def State.hasIssue (s : State) (c j : Nat) : Bool :=
  let k := s.core c
  !(s.job j).halted && ((k.issuing j).isSome || (!k.commitBlocked j && (s.nextReady c j).isSome))

/-- The job that the slot table gives this clock (R114). -/
def State.issueJob (s : State) (c : Nat) : Option Nat :=
  let owner := (s.core c).slotTable.getD (s.clock % 64) 64
  let order := if owner < 64 then owner :: cyclicAfter owner else List.range 64
  order.find? (fun j => s.hasIssue c j)

/-- Take up to `n` more firings that may gather with a group, oldest first: the lanes taken, and what stays ready. -/
def State.gather (s : State) (c : Nat) (l : Firing) : Nat → List Firing → List Firing → List Firing × List Firing
  | _, [], got => (got, [])
  | n, x :: xs, got =>
    let fits := n != 0 && x.job == l.job && x.block == l.block && x.entry == l.entry && s.canIssue c x
      && !(got.any (fun y => y.frame == x.frame))
    if fits then State.gather s c l (n - 1) xs (got ++ [x])
    else
      let (g, rest) := State.gather s c l n xs got
      (g, x :: rest)

/-- Form the job's next group from its ready firings (R137). -/
def State.formGroup (s : State) (c j : Nat) : State :=
  let k := s.core c
  match s.nextReady c j, takeFirst (fun l => l.job == j && s.canIssue c l) k.ready with
  | some l, some (_, rest) =>
    let wide := match k.blockOf j l.block with | some b => b.gather | none => false
    let (got, left) := if wide then s.gather c l 7 rest [l] else ([l], rest)
    let lanes := got.zipIdx.map (fun p => { p.1 with lane := p.2 })
    let g : Group := { job := j, block := l.block, entry := l.entry, pc := l.pc, lanes := lanes }
    s.setCore c (({ k with ready := left, groups := k.groups ++ [g] }.count j 5 1).count j 6 lanes.length)
  | _, _ => s

/-- The core issues for the job of this clock (FIRING_ISSUE): waiting commits and routing work go on first, then the job's
group, or a new one, is at its next word. -/
def State.chooseIssue (s : State) (c : Nat) : State :=
  let s1 := (s.resumeCommits c).routeRun
  match s1.issueJob c with
  | none => s1
  | some j =>
    let s2 := if ((s1.core c).issuing j).isSome then s1 else s1.formGroup c j
    { s2 with issue := some (c, j) }

/-! ## Issuing a word -/

/-- Put a lane of a group back. -/
def Core.setLane (k : Core) (g n : Nat) (l : Firing) : Core :=
  match k.groups[g]? with
  | some x => { k with groups := setAt k.groups g { x with lanes := setAt x.lanes n l } }
  | none => k

/-- Put a lane of a group of a core back. -/
def State.setLane (s : State) (c g n : Nat) (l : Firing) : State := s.onCore c (fun k => k.setLane g n l)

/-- Lane `n` of group `g`. -/
def Core.laneAt (k : Core) (g n : Nat) : Option Firing :=
  match k.groups[g]? with
  | some x => x.lanes[n]?
  | none => none

/-- The values that a word reads in a lane, as the trap record holds them (Table 13.11). -/
def Firing.values (l : Firing) (s : State) (c : Nat) (b : Body) : W64 × W64 × W64 :=
  let (x, y, z) := b.sources
  (l.peek s c x, l.peek s c y, l.peek s c z)

/-- The word at an index executes in lane `n`: its effect, or the trap it takes (R138, R252). -/
def State.runLane (s : State) (c g index : Nat) (word : W64) (body : Body) (bad : Bool) (f : LaneFn) (n : Nat) : State :=
  match (s.core c).laneAt g n with
  | none => s
  | some l0 =>
    if l0.dead || l0.ended then s
    else if l0.skipped then s.setLane c g n { l0 with pc := index }
    else
      let l := { l0 with pc := index, shadow := l0.shadow || bad }
      if !l.executes body.hdr then s.setLane c g n l
      else
        let v := l.values s c body
        match f s c l with
        | .ok (s1, l1) =>
          let l2 := if l1.staged.length = l.staged.length then l1 else { l1 with seen := Table.put l1.seen index v }
          s1.setLane c g n l2
        | .error t =>
          let site : TrapSite := { word := word, index := index, a := v.1, b := v.2.1, cd := v.2.2, input := some l.first }
          (s.takeTrap c l t site).setLane c g n { l with dead := true }

/-- After a word: at the body's last one its lanes end and commit in lane order; at any other the group goes on. A group
without lanes left is gone. -/
def State.endWord (s : State) (c g : Nat) (last : Bool) : State :=
  match (s.core c).groups[g]? with
  | none => s
  | some x =>
    if x.lanes.all (fun l => l.dead) then s.onCore c (fun k => { k with groups := removeAt k.groups g })
    else if last then
      (s.onCore c (fun k => { k with
        groups := setAt k.groups g { x with lanes := x.lanes.map (fun l => { l with ended := true }) } })).resumeCommits c
    else s.onCore c (fun k => { k with groups := setAt k.groups g { x with pc := x.pc + 1 } })

/-- The word at which a group of a job stands. -/
def Core.wordAt (k : Core) (j : Nat) (x : Group) : W64 :=
  match k.blockOf j x.block with
  | some blk => blk.code.getD x.pc 0
  | none => 0

/-- An instruction word issues to the lanes of the group that issues now (R137, R174). -/
def issueWord (b : Body) (f : LaneFn) (s : State) : State :=
  match s.issue with
  | none => s
  | some (c, j) =>
    let s0 : State := { s with issue := none }
    match (s.core c).issuing j with
    | none => s0
    | some (g, x) =>
      let k := s.core c
      let word := k.wordAt j x
      let bad := k.badWords.contains (x.block, x.pc)
      let s1 := s0.onCore c (fun k => { k.count j 0 1 with lastIssue := s.clock })
      let s2 := (List.range x.lanes.length).foldl (fun t n => t.runLane c g x.pc word b bad f n) s1
      s2.endWord c g b.hdr.last

/-- The outcome of an instruction word. -/
def word (b : Body) (f : LaneFn) (s : State) : Host.Outcome State Fault Refusal := .next (issueWord b f s)

end Sys2Proof.Machine
end

