-- ==== Sys2Proof/Machine/Cancel.lean ====
section
/-! DEFINITION. What a cancel mark does at a core (R103), and what halting and cancelling share: giving up firings, tile
work and engine work. -/

namespace Sys2Proof.Machine

/-- A firing is given up and its inputs are discarded: its reservations and every reference that it still holds or has
still to hand on are released. -/
def State.discardFiring (s : State) (c : Nat) (l : Firing) : State :=
  let jc := s.coreFor c l
  let held := if l.entered then l.increments else []
  (((s.onCore c (fun k => held.foldl (fun k v => k.releaseHandle jc l.job v) (k.unreserve l))).releaseInputs c l).count c l.job 2 1)

/-- Groups without a lane that lives are gone. -/
def dropDead (gs : List Group) : List Group := gs.filter (fun g => g.lanes.any (fun l => !l.dead))

/-- Give up the firings of a core that satisfy a test: ready ones, and lanes of groups. -/
def State.discardFirings (s : State) (c : Nat) (p : Firing → Bool) : State :=
  let k := s.core c
  let q (l : Firing) : Bool := p l && !l.dead
  let gone := k.ready.filter q ++ k.groups.flatMap (fun g => g.lanes.filter q)
  let k1 := { k with
    ready := k.ready.filter (fun l => !q l)
    groups := dropDead (k.groups.map (fun g => { g with lanes := g.lanes.map (fun l => if q l then { l with dead := true } else l) })) }
  gone.foldl (fun t l => t.discardFiring c l) (s.setCore c k1)

/-- A tile whose write is given up is FULL, and poisoned if the write had begun. -/
def Tile.settled (t : Tile) (begun : Bool) : Tile :=
  { t with st := if t.st == TileSt.pending then TileSt.full else t.st, poison := t.poison || begun }

/-- A started or waiting tile or matrix request is given up: what it holds is released, its new tiles are freed, and a
target that it was writing keeps what it has, poisoned. -/
def Core.dropTileReq (k : Core) (q : TileReq) : Core :=
  let r := q.req
  let k1 := q.made.foldl (fun k i => k.freeTile i) k
  let k2 := match r.target with
    | some h =>
      if k1.stillWritten h then k1
      else k1.onTile (handleIndex h) (fun t => t.settled q.started)
    | none => k1
  k2.releaseOperands r []

/-- Give up the tile and matrix requests that satisfy a test. -/
def Core.dropTileReqs (k : Core) (p : Req → Bool) : Core :=
  let k1 := { k with
    tileReqs := k.tileReqs.filter (fun q => !p q.req)
    mmaReqs := k.mmaReqs.filter (fun q => !p q.req) }
  (k.tileReqs.filter (fun q => p q.req) ++ k.mmaReqs.filter (fun q => p q.req)).foldl (fun k q => k.dropTileReq q) k1

/-- Give up an accumulator: held contributions are released, an addition that has begun leaves its tile poisoned. -/
def Core.dropAcc (k : Core) (a : AccState) : Core :=
  a.held.foldl (fun k x =>
    let k1 := match x.made with
      | some i => k.freeTile i
      | none => k
    let k2 := if x.started && x.req.isRacc then
        k1.onTile (handleIndex x.req.a) (fun t => t.settled true)
      else k1
    k2.releaseHeld x) k

/-- End the accumulators that satisfy a test. -/
def Core.dropAccs (k : Core) (p : AccState → Bool) : Core :=
  (k.accs.filter p).foldl (fun k a => k.dropAcc a) { k with accs := k.accs.filter (fun a => !p a) }

/-- A walker's work stops: its queue and its round are gone, its configuration stays. -/
def State.stopWalker (s : State) (c w : Nat) : State :=
  let x := (s.core c).walker w
  let held := if x.shape.store then x.queue.filter Req.isWgo else []
  let s1 := (s.onCore c (fun k => held.foldl (fun k r => k.releaseHandle r.core r.job r.b) k)).leaveWalkerWork c w
  (s1.onWalker c w (fun y => { number := y.number, claimed := true, job := y.job, inst := y.inst, shape := y.shape })).leaveFault
    (.walker c w)

/-- Drop the parked operands and kept values of an instance's frames (R103): the frames stay. -/
def Core.dropParked (k : Core) (jc j i : Nat) : Core :=
  let mine := k.frames.filter (fun f => f.job == j && f.inst == i)
  let k1 := (mine.flatMap (fun f => upFrom f.base f.size)).foldl (fun k n => k.discardSlot jc j n) k
  { k1 with slots := k1.slots.map (fun (n, x) =>
      if mine.any (fun f => decide (f.base ≤ n) && decide (n < f.base + f.size)) then
        (n, { x with present := false, kept := false, poison := false }) else (n, x)) }

/-- A request's frozen elements leave the pending faults that they joined. -/
def State.leaveLoads (s : State) (rid : Nat) : State :=
  let gone (p : FaultPort) : Bool := match p with | .load i _ => i == rid | _ => false
  { s with faults := (s.faults.map (fun f => { f with ports := f.ports.filter (fun p => !gone p) })).filter (fun f => !f.ports.isEmpty) }

/-- The elements of a request that have left the core (R103); of a table load, a WCFG or a WATCH those that were sent to another home,
for at its own it reads nothing more. -/
def State.leftElems (s : State) (c : Nat) (m : MemReq) : List Elem :=
  let whole := match m.req.instr with
    | .watch _ | .drain _ | .wcflush _ | .pref _ => false
    | _ => s.gateOpen c m && (m.begun || !m.req.tileForm)
  (m.elems.zipIdx.filter (fun (e, i) =>
    whole && (if m.req.counted then s.elemLeft c m e i else match e.st with | .away _ => true | _ => false))).map (·.1)

/-- A memory request of a cancelled instance (R103): the elements that have left the core are performed and their answers discarded; the
rest is abandoned. -/
def State.cancelMem (s : State) (c : Nat) (m : MemReq) (left : List Elem) : State :=
  let r := m.req
  let s0 := s.leaveLoads r.id
  if !left.isEmpty then { s0 with memReqs := s0.memReqs.map (fun q => if q.req.id = r.id then { q with discard := true, elems := left } else q) }
  else
    let s1 : State := { s0 with memReqs := s0.memReqs.filter (fun q => q.req.id != r.id) }
    s1.onCore c (fun k =>
      let k1 := match m.tile with
        | some i => k.freeTile i
        | none => k
      let k2 := if r.tileForm && !m.begun then k1.releaseOperands r [] else k1
      { k2 with walkers := k2.walkers.map (fun (n, w) => if w.loading == some r.id then (n, { w with loading := none }) else (n, w)) })

/-- Cancel the memory requests that satisfy a test: what each has sent is judged before any is given up (R245). -/
def State.cancelMems (s : State) (c : Nat) (p : MemReq → Bool) : State :=
  (((s.memReqs.filter (fun m => p m && !m.discard)).map (fun m => (m, s.leftElems c m))).foldl (fun t x => t.cancelMem c x.1 x.2) s).endRecords c

/-- A copy request is given up: where it is at its queue's head, so are its accesses and its place in a fault. -/
def State.giveUpCopy (s : State) (x : CopyReq) : State :=
  let s1 : State := { s with copies := s.copies.filter (fun y => y.req.id != x.req.id) }
  match s.copies.find? (fun y => y.die == x.die && y.req.job == x.req.job && y.queue == x.queue) with
  | some y =>
    if y.req.id = x.req.id then (s1.leaveWork (copyWork x.die x.req.job x.queue) x.req.job x.req.inst x.req.core [x.die, x.queue]).leaveFault (.copy x.die x.req.job x.queue)
    else s1
  | none => s1

/-- A routing engine's form is given up. -/
def State.cancelRoute (s : State) (c : Nat) (w : RouteWork) : State :=
  let inst := match w.what with | .form r => (r.inst, r.core) | _ => (0, 0)
  let s1 := ((s.leaveWork [3, w.id] w.job inst.1 inst.2).dropRoute w).leaveFault (.routing w.id)
  match w.what with
  | .form r => s1.onCore c (fun k => k.releaseOperands r [])
  | _ => s1

/-- The instance's tokens in a cellar count no more: their places are marked 256, for no instance, and the refill passes
over them. A cellar that holds nothing else is empty, and its hold ends with it or with the job (R73, R169). -/
def Cellar.forget (v : Cellar) (i : Nat) (whole : Bool) : Cellar :=
  let insts := v.insts.map (fun n => if n = i then 256 else n)
  if insts.all (· == 256) then { v with head := v.tail, insts := [], hold := 0 }
  else { v with insts := insts, hold := if whole then 0 else v.hold }

/-- The forms that wait at a participant and satisfy a test are withdrawn. -/
def Participant.withdraw (p : Participant) (f : Req → Bool) : Participant :=
  let closing := match p.closing with
    | some r => if f r then none else some r
    | none => none
  { p with closing := closing, rrow := p.rrow.filter (fun w => !f w.req) }

/-- The cancel mark of an instance reaches core `c` (R103). -/
def State.cancelAt (s : State) (j i c : Nat) : State :=
  let jc := (s.job j).jobCore c
  let mine (r : Req) : Bool := r.of j i
  let s1 := s.discardFirings c (fun l => l.job == j && l.inst == i)
  let k := s1.core c
  let tok (t : Token) : Bool := t.job.toNat == j && t.inst == i
  let k1 := (k.buffer.filter tok).foldl (fun k t => k.releaseToken jc t) { k with buffer := k.buffer.filter (fun t => !tok t) }
  let k2 := ((k1.dropParked jc j i).dropTileReqs mine).dropAccs (fun a => a.job == j && a.inst == i)
  let k3 := { k2 with
    fallocs := k2.fallocs.filter (fun q => !mine q.req)
    mailbox := k2.mailbox.filter (fun m => !(m.job == j && m.inst == i)) }
  let s2 := s1.setCore c k3
  let ws := (k3.walkers.filter (fun (_, w) => w.claimed && w.job == j && w.inst == i)).map (·.1)
  let s3 := ws.foldl (fun t w => t.stopWalker c w) s2
  let here (r : Req) : Bool := mine r && r.core == jc
  let s4 := (s3.cancelMems c (fun m => here m.req)).flushDie (dieOf c) (fun e => e.job == j && e.insts.contains i)
  let s5 := (s4.copies.filter (fun x => here x.req)).foldl (fun t x => t.giveUpCopy x) s4
  let s6 := (s5.routeWork.filter (fun w => match w.what with | .form r => here r | _ => false)).foldl (fun t w => t.cancelRoute c w) s5
  let s7 := s6.onJob j (fun x => { x with
    ticks := x.ticks.filter (fun p => !here p.1)
    expos := x.expos.filter (fun p => !here p.1)
    svws := x.svws.filter (fun r => !here r)
    cellars := x.cellars.map (fun (n, v) => if n = jc then (n, v.forget i (x.st == .cancelling)) else (n, v)) })
  let s8 := { s7 with parts := s7.parts.map (fun (p : Participant) => p.withdraw here) }
  (s8.onInst j i (fun v => { v with marks := v.marks.filter (· != c) })).resumeCommits c

/-- The cancel mark of an instance has still to reach core `c`. -/
def State.markPending (s : State) (j i c : Nat) : Bool :=
  match s.inst? j i with
  | some v => v.cancelled && v.marks.contains c
  | none => false

end Sys2Proof.Machine
end

