-- ==== Sys2Proof/Machine/Clock.lean ====
section
/-! DEFINITION. The passage of time: clocks, the time base (R26), the counters of Table 6.13 that count clocks (R174), and
what the host writes in its own memory meanwhile. -/

namespace Sys2Proof.Machine

/-- The firmware runs a service (Table 2.5): PROOF, FULL or REDUCED. -/
def State.serving (s : State) : Bool :=
  s.hkc.main && (s.hkc.level == .proof || s.hkc.level == .full || s.hkc.level == .reduced)

/-- Add `n` to a counter of a job if a condition holds. -/
def Core.countWhen (k : Core) (j index n : Nat) (b : Bool) : Core := if b then k.count j index n else k

/-- A request of the tile unit of this job satisfies a test. -/
def Core.anyTile (k : Core) (j : Nat) (p : TileReq → Bool) : Bool := k.tileReqs.any (fun r => r.req.job == j && p r)

/-- The request is a TALLOC. -/
def Req.isTalloc (r : Req) : Bool := match r.instr with | .talloc _ => true | _ => false

/-- The counters of one job on a core that `n` clocks raise. Counter 14 is a free value of at most `n`
while the job has tiles there: the tile unit, the matrix array, walkers and the mesh meet in its banks (R154). A rate limit holds until
the window of 256 clocks ends (R172). Log entry 50. -/
def State.countClocks (s : State) (c j n : Nat) : State :=
  let k := s.core c
  let busy := k.anyTile j (fun r => r.started)
  let tiles := k.tiles.any (fun p => p.2.st != .free && p.2.job == j)
  let (s1, d) := if tiles then s.draw else (s, 0)
  let stall := if tiles then (Config.freeWord d).toNat % (n + 1) else 0
  let falloc := k.fallocs.any (fun r => r.req.job == j)
  let talloc := k.anyTile j (fun r => r.req.isTalloc && !r.started)
  let mma := k.mmaReqs.any (fun r => r.req.job == j && r.started)
  let limited := !s.rateOk c j && k.buffer.any (fun t => t.job.toNat == j)
  let window := k.groups.any (fun g => g.job == j && g.lanes.any (fun l => !l.dead && l.entered && l.waitsWindow))
  s1.onCore c (fun k => ((((((k.countWhen j 12 n falloc).countWhen j 13 n talloc).count j 14 stall).countWhen j 15 n mma).countWhen
    j 16 n busy).countWhen j 17 (min n (256 - s.clock % 256)) limited).countWhen j 18 n window)

/-- The counters of every job placed on a core. -/
def State.countCore (s : State) (n c : Nat) : State := (s.jobsAt c).foldl (fun t (j, _) => t.countClocks c j n) s

/-- The quiescence timer of an instance does not run (R170): it is FROZEN, its job is halted, or a not-present fault of it is
pending. -/
def State.timerStands (s : State) (j i : Nat) (x : Job) (v : Instance) : Bool :=
  v.st == .frozen || x.halted || s.faults.any (fun f => f.job == j && f.insts.contains i)

/-- A matrix array works for the instance: it passes a stop point every few clocks, and each is progress (R164, R170). -/
def State.arrayRuns (s : State) (j i : Nat) (x : Job) : Bool :=
  x.cores.any (fun c => (s.core c).mmaReqs.any (fun q => q.started && q.req.of j i))

/-- Move the timers that stand by `n` clocks; those of instances for which a matrix array works begin again. -/
def State.holdTimers (s : State) (n : Nat) : State :=
  { s with jobs := s.jobs.map (fun (j, x) =>
      (j, { x with insts := x.insts.map (fun (i, v) =>
        if s.timerStands j i x v then (i, { v with progress := v.progress + n, reported := v.reported + n })
        else if s.arrayRuns j i x then (i, { v with progress := s.clock + n })
        else (i, v)) })) }

/-- Blow fuses one by one, lowest first, until `n` are blown (R36). -/
def blowTo (n : Nat) (fuses : BitVec 64) : BitVec 64 :=
  (List.range 64).foldl (fun f i =>
    if countIf (fun k => f.getLsbD k) (List.range 64) < n && !f.getLsbD i then f ||| BitVec.ofNat 64 (2 ^ i) else f) fuses

/-- While a commit is under way, time lets one more bit be blown, or more: how many is free, so that a commit may be interrupted
with the counter at any value between (R36). Log entry 68. -/
def State.commitSome (s : State) : State :=
  match s.hkc.committing with
  | none => s
  | some n =>
    let (s1, d) := s.draw
    let h := s1.hkc
    let have_ := countIf (fun k => h.svnFuses.getLsbD k) (List.range 64)
    let next := min n (have_ + 1 + (Config.freeWord d).toNat % 64)
    { s1 with hkc := { h with svnFuses := blowTo next h.svnFuses, committing := if n ≤ next then none else some n } }

/-- `n` clocks pass: the time base gains 4 ns in every 5 clocks, and 8 ns at the clock of proof service (R26). No clock
runs without the main supply. R26 says nothing of a run of five that straddles the passage from PROOF to FULL: what has passed
of it is kept, and the run counts at the rate of the level at which it ends (the model's choice, log entry 80). A commit of the
security version goes on meanwhile (R36). -/
def State.tick (s : State) (n : Nat) : State :=
  if n = 0 || !s.hkc.main then s
  else
    let s1 := (s.cores.map (fun p => p.1)).foldl (fun t c => t.countCore n c) (s.holdTimers n).commitSome
    let total := s1.clockRem + n
    let gain := (if s1.proof then 8 else 4) * (total / 5)
    { s1 with time := s1.time + BitVec.ofNat 64 gain, clock := s1.clock + n, clockRem := total % 5 }

/-- Bytes that the host writes in its own memory. -/
def State.hostWrites (s : State) (bytes : Memory) : State :=
  { s with hostMem := bytes.foldl (fun m p => Memory.set m p.1 p.2) s.hostMem }

end Sys2Proof.Machine
end

