-- ==== Sys2Proof/Machine/CoreEvents.lean ====
section
/-! DEFINITION. The events of the cores: arrivals over the token mesh (R130, R151), the matcher and the issue stage (R131,
R137), spill and refill (R167 to R169), frames, tiles and matrix requests, banks, and errors of core storage (R173). -/

namespace Sys2Proof.Machine

/-- An event of the powered device: it changes nothing without the main supply. -/
def State.powered (s : State) (f : State → State) : Host.Outcome State Fault Refusal := .next (if s.hkc.main then f s else s)

/-! ## The mesh (R10, R11) -/

/-- The device for which a shipped tile has still to leave its core. -/
def MeshItem.leavesFor (x : MeshItem) (own : Nat) : Option Nat :=
  match x.what with
  | .tile t none => if t.dev.toNat = own then none else some t.dev.toNat
  | _ => none

/-- A curtain. -/
def MeshItem.isCurtain (x : MeshItem) : Bool := match x.what with | .curtain _ => true | _ => false

/-- An earlier item `y` goes ahead of `x` of its job: one sender to one receiver on one channel (R11, R24). A tile that leaves for
another device goes ahead of the tiles to the same core there, and of the curtain to the I/O die through which it leaves (R20, R117).
Answers of engines keep no order, but for those of the matrix array (R164), whose sender here is 129. -/
def State.sameWay (s : State) (y x : MeshItem) : Bool :=
  y.job == x.job && y.src == x.src && y.vc == x.vc && x.src != 128 &&
    (match y.leavesFor s.devnum, x.leavesFor s.devnum with
      | none, none => y.dst == x.dst
      | some d, some e => d == e && y.dst == x.dst
      | some d, none =>
        x.isCurtain && (match s.devCore y.job y.src with
          | some c => (s.egress (dieOf c) d).map (fun n => 64 + ioDieOf n) == some x.dst
          | none => false)
      | none, some _ => false)

/-- An earlier item `y` of another job goes ahead of `x` (R11): from the same core of the device to the same core, on the same channel.
Curtains wait on no other job (R117), held traffic holds back none (R169), and a tile that its core has still to read has not left. -/
def State.ahead (s : State) (y x : MeshItem) : Bool :=
  let between (m : MeshItem) : Option (Nat × Nat) :=
    match decide (m.src < 64), s.devCore m.job m.src, s.devCore m.job m.dst with
    | true, some a, some b => some (a, b)
    | _, _, _ => none
  let unsent := match y.what with | .tile _ none => true | _ => false
  y.job != x.job && y.vc == x.vc && !unsent && !y.isCurtain && !x.isCurtain && (between x).isSome && between y == between x
    && ((s.job y.job).cellar y.dst).hold == 0

/-- An item of the mesh is behind an earlier one. -/
def State.behind (s : State) (i : Nat) (x : MeshItem) : Bool := (s.mesh.take i).any (fun y => s.sameWay y x || s.ahead y x)

/-- Take item `i` of the mesh, if it is behind no other. -/
def State.takeMesh (s : State) (i : Nat) : Option (MeshItem × State) :=
  match s.mesh[i]? with
  | none => none
  | some x => if s.behind i x then none else some (x, { s with mesh := removeAt s.mesh i })

/-- An item from one core to another core of the device is received (R97). -/
def State.received (s : State) (x : MeshItem) (inst : Nat) : State :=
  if decide (x.src < 64) && x.src != x.dst then s.countReceived x.job inst x.dst else s

/-- What belongs to this instance is discarded at core `c` (R103): it has ended, or its cancel mark has reached the core. -/
def State.discards (s : State) (j i c : Nat) : Bool :=
  match s.inst? j i with
  | some v => v.st == .ended || (v.cancelled && !v.marks.contains c)
  | none => true

/-- A token reaches its core (R130): admitted to the buffer, or written to the cellar; held traffic waits on the mesh (R169). For a
pre-empted job it goes to the cellar (R117). A shape variable's value reaches the core's copy (R387). -/
def State.arrive (s : State) (i : Nat) : State :=
  match s.takeMesh i with
  | some (x, s1) =>
    match x.what with
    | .value t =>
      match s.devCore x.job x.dst with
      | none =>
        if (s.job x.job).st == .preempted && ((s.job x.job).asSaved.devCore x.dst).isSome then
          if ((s.job x.job).cellar x.dst).hold ≠ 0 then s
          else (match (if s.discards x.job t.inst 64 then (s1, true) else s1.spillTo 64 x.job x.dst t) with
            | (s2, true) => (s2.received x t.inst).progress x.job t.inst
            | (s2, false) => { s2 with mesh := s.mesh })
        else (s1.wallDrop x.job (if x.src < 64 then (s.devCore x.job x.src).getD 255 else x.src) t.w0 t.w1).received x t.inst
      | some c =>
        if s.discards x.job t.inst c then (s1.releaseTokenAt x.job x.dst t).received x t.inst
        else
          match s1.letIn c t with
          | (s2, true) => (s2.received x t.inst).progress x.job t.inst
          | (s2, false) => { s2 with mesh := s.mesh }
    | .svar n v id => s1.takeVar x.job x.dst n v id
    | _ => s
  | none => s

/-- TOKEN_ARRIVAL. -/
def execTokenArrival (i : Nat) (s : State) : Host.Outcome State Fault Refusal := s.powered (fun t => t.arrive i)

/-- MATCH. -/
def execMatchToken (core : Nat) (s : State) : Host.Outcome State Fault Refusal := s.powered (fun t => t.matchNext core)

/-- FIRING_ISSUE. No job issues in HALTED (R39). -/
def execFiringIssue (core : Nat) (s : State) : Host.Outcome State Fault Refusal :=
  .next (if s.serving then s.chooseIssue core else s)

/-- ISSUE_RECOVERY_END (R116). -/
def State.endRecovery (s : State) (c : Nat) : State :=
  match (s.core c).recovery with
  | none => s
  | some t =>
    if decide (t + 2 ^ 20 ≤ s.clock) || (s.jobsAt c).all (fun (_, x) => (x.cellar (x.jobCore c)).count == 0) then
      (s.onCore c (fun k => { k with recovery := none })).rebuildSlots c
    else s

/-- ISSUE_RECOVERY_END. -/
def execIssueRecoveryEnd (core : Nat) (s : State) : Host.Outcome State Fault Refusal := s.powered (fun t => t.endRecovery core)

/-- RATE_WINDOW (R172): a window that began at an earlier multiple of 256 clocks than this one's has ended. -/
def execRateWindow (core : Nat) (s : State) : Host.Outcome State Fault Refusal :=
  s.powered (fun t =>
    if (t.core core).windowAt < t.clock / 256 then t.onCore core (fun k => { k with window := [], windowAt := t.clock / 256 }) else t)

/-! ## Spill and refill (R167) -/

/-- Tokens that a job's spill from the buffer moves: down to 14,336 entries in the buffer, or to its reservation. -/
def State.spillCount (s : State) (c j : Nat) : Nat :=
  let k := s.core c
  min (k.buffer.length - 14336) (k.holds j - (s.job j).resv)

/-- Write tokens to a cellar in order: the state, and whether every one was taken. -/
def State.spillAll (s : State) (c j : Nat) : List Token → State × Bool
  | [] => (s, true)
  | t :: ts =>
    match s.spillToken c j t with
    | (s1, true) => State.spillAll s1 c j ts
    | (s1, false) => (s1, false)

/-- Split off the last `n` tokens of job `j`, in order, from a buffer. -/
def newestOf (j n : Nat) (buffer : List Token) : List Token × List Token :=
  let total := countIf (fun (t : Token) => t.job.toNat == j) buffer
  let (kept, gone, _) := buffer.foldl (fun (p : List Token × List Token × Nat) t =>
    if t.job.toNat == j then
      (if p.2.2 < total - n then (p.1 ++ [t], p.2.1, p.2.2 + 1) else (p.1, p.2.1 ++ [t], p.2.2 + 1))
    else (p.1 ++ [t], p.2)) ([], [], 0)
  (kept, gone)

/-- The spill engine moves a job's newest queued tokens to its empty cellar, newest last (R167). Where a write does not go
through, the tokens stay in the buffer, so that the queue's order holds, and none is counted. Log entry 52. -/
def State.spillNewest (s : State) (c j : Nat) : State :=
  let k := s.core c
  let x := s.job j
  let v := x.cellar (x.jobCore c)
  if v.hold ≠ 0 || v.count ≠ 0 || decide (k.buffer.length ≤ 15360) || decide (k.holds j ≤ x.resv) then s
  else
    let (kept, gone) := newestOf j (s.spillCount c j) k.buffer
    match s.spillAll c j gone with
    | (s1, true) => s1.onCore c (fun k => { k with buffer := kept })
    | (s1, false) =>
      let hold := ((s1.job j).cellar (x.jobCore c)).hold
      (s1.onCore c (fun y => { y with perf := k.perf })).setCellar j (x.jobCore c) { v with hold := hold }

/-- SPILL. -/
def execSpill (core job : Nat) (s : State) : Host.Outcome State Fault Refusal := s.powered (fun t => t.spillNewest core job)

/-- A job may refill at a core now (R167): at once while it has no token queued there, and else in turn while the buffer
holds at most 12,288 entries. -/
def State.mayRefill (s : State) (c j : Nat) : Bool :=
  let k := s.core c
  let waiting (i : Nat) : Bool := match s.job? i with
    | some x => x.running && decide (0 < (x.cellar (x.jobCore c)).count)
    | none => false
  waiting j && (k.holds j == 0 || (decide (k.buffer.length ≤ 12288) && (cyclicAfter k.lastRefilled).find? waiting == some j))

/-- The token that cellar bytes give, if their check word agrees (R168). -/
def tokenFromCellar (bs : List Byte) (count : Nat) : Option Token :=
  let check := recNat bs 24 8
  if bits check 32 32 = count % 2 ^ 32 && bits check 0 24 = 0 then
    some (Token.ofWords (recNat bs 0 8) (recNat bs 8 8) (BitVec.ofNat 64 (recNat bs 16 8)) (bits check 24 8))
  else none

/-- A token comes back from the cellar, and is discarded if its instance is gone. -/
def State.refilled (s : State) (c j : Nat) (t : Token) : State :=
  if s.discards j t.inst c then s.releaseTokenAt j ((s.job j).jobCore c) t
  else s.onCore c (fun k => (k.count j 9 1) |> fun k => { k with buffer := k.buffer ++ [t] })

/-- Refill up to `n` tokens from a cellar's head. A lost header, or a DARK floor, faults the job with QUEUE_UE; a page that
is not present freezes the traffic (R73, R168, R169). -/
def State.refillFrom (s : State) (c j : Nat) : Nat → State
  | 0 => s
  | n + 1 =>
    let x := s.job j
    let jc := x.jobCore c
    let v := x.cellar jc
    let after : Cellar := { v with head := v.head + 1, insts := v.insts.drop 1 }
    if v.count = 0 || v.hold = 2 || v.hold = 4 then s
    else if v.insts.head? = some 256 then State.refillFrom (s.setCellar j jc after) c j n
    else if !s.admits c j then s
    else
      let off := v.head % v.slots * 32
      let port := spillPort s j jc off
      match s.vread (refillOwner j jc) (some port) j (v.va + off) 32 with
      | (s1, .wait) => s1
      | (s1, .data bs) =>
        match tokenFromCellar bs v.head with
        | some t => State.refillFrom (((s1.dropOwner (refillOwner j jc)).setCellar j jc after).refilled c j t) c j n
        | none => s1.cancelJob j 5 1
      | (s1, .absent va f) =>
        let (s2, _) := s1.absentFault port 256 (.spill jc false) va .read f
        s2.setCellar j jc { v with hold := 2 }
      | (s1, _) => s1.cancelJob j 5 1

/-- REFILL: one burst of up to 64 tokens. -/
def execRefill (core job : Nat) (s : State) : Host.Outcome State Fault Refusal :=
  s.powered (fun t =>
    if t.mayRefill core job then (t.refillFrom core job 64).onCore core (fun k => { k with lastRefilled := job }) else t)

/-! ## Frames -/

/-- The `i`-th waiting FALLOC of a core is served (R143): with the frame at `base`, or, where the block is absent, with a
poisoned answer. FALLOCs of one block are served in arrival order. -/
def State.serveFalloc (s : State) (c i base : Nat) : State :=
  let k := s.core c
  match k.fallocs[i]? with
  | none => s
  | some q =>
    let r := q.req
    let older := (k.fallocs.take i).any (fun p => p.req.job == r.job && p.block == q.block)
    let s1 := s.setCore c { k with fallocs := removeAt k.fallocs i }
    if older then s
    else
      match k.blockOf r.job q.block with
      | none => s1.answer r 13 0 true
      | some b =>
        if k.underLimit r.job q.block b && k.runFree base b.fsize then
          (s1.giveFrame c r.job r.inst q.block base).answer r 13 (framePtr base ((s.job r.job).jobCore c) s.devnum) false
        else s

/-- FALLOC_REQUEST. -/
def execFallocRequest (core i base : Nat) (s : State) : Host.Outcome State Fault Refusal := s.powered (fun t => t.serveFalloc core i base)

/-- An FFREE arrives from another core (R288): a frame that is not live is passed over. -/
def State.arriveFfree (s : State) (i : Nat) : State :=
  match s.takeMesh i with
  | some (x, s1) =>
    match x.what with
    | .ffree j base _ _ => (match s.devCore j x.dst with | some c => s1.endFrame c j base | none => s1)
    | _ => s
  | none => s

/-- REMOTE_FFREE. -/
def execRemoteFfree (i : Nat) (s : State) : Host.Outcome State Fault Refusal := s.powered (fun t => t.arriveFfree i)

/-- A steal request arrives at its victim (R296). -/
def State.arriveSteal (s : State) (i : Nat) : State :=
  match s.takeMesh i with
  | some (x, s1) =>
    match x.what with
    | .steal _ poison reply inst =>
      (match s.devCore x.job x.dst with
        | some c =>
          let s2 := s1.received x inst
          if s.discards x.job inst c then s2 else (s2.takeSteal c x.dst x.job inst reply poison).progress x.job inst
        | none => s1)
    | _ => s
  | none => s

/-- STEAL_REQUEST_ARRIVAL. -/
def execStealRequestArrival (i : Nat) (s : State) : Host.Outcome State Fault Refusal := s.powered (fun t => t.arriveSteal i)

/-! ## Shipped tiles (R150, R151) -/

/-- What a tile ships: its shape, its elements at minimal pitch, and its scale tile. -/
def Core.shipped (k : Core) (i : Nat) : TileData :=
  let t := k.tile i
  { fmt := t.fmt, rows := t.nrows, cols := t.ncols, poison := k.tilePoison t, data := k.rowsOf t,
    scale := (k.scaleOf t).map (fun q => (q.fmt, q.nrows, q.ncols, k.rowsOf q)) }

/-- Rows of bytes at minimal pitch, in whole 64-byte units. -/
def pitchedRows (rows : List (List Byte)) : List Byte := rows.flatMap (fun r => (r ++ zeros (roundUp r.length 64 - r.length)))

/-- The body of a tile-transfer record (Table 1.10), with the receiver's slot in W1[13:6] (R23). -/
def tileBody (t : Token) (slot : Nat) (d : TileData) : List Byte :=
  let bytes := pitchedRows d.data
  let (srows, scols, sbytes) := match d.scale with
    | some (_, r, c, rows) => (r, c, pitchedRows rows)
    | none => (1, 1, [])
  t.linkBytes slot ++ natLe 2 (d.rows - 1) ++ natLe 2 (d.cols - 1) ++ natLe 1 d.fmt
    ++ natLe 1 (b2n d.scale.isSome + 2 * b2n d.poison) ++ zeros 2 ++ natLe 4 bytes.length ++ natLe 4 sbytes.length
    ++ natLe 2 (srows - 1) ++ natLe 2 (scols - 1) ++ zeros 4 ++ bytes ++ sbytes

/-- The last byte of a shipped tile leaves its core: its data travels on, or crosses a link, and the send's reference is
released. A tile still being written keeps the send waiting. -/
def State.tileLeaves (s : State) (i : Nat) : State :=
  match s.mesh[i]? with
  | none => s
  | some x =>
    match x.what, s.devCore x.job x.src with
    | .tile t none, some c =>
      let k := s.core c
      let n := handleIndex t.w2
      if (k.tile n).st == TileSt.pending || s.behind i x then s
      else
        let d := k.shipped n
        let s1 := s.onCore c (fun k => (k.touchWith (k.tile n) s.clock).releaseHandle x.src x.job t.w2)
        let t1 := { t with poison := t.poison || d.poison }
        if t.dev.toNat = s.devnum then { s1 with mesh := setAt s1.mesh i { x with what := .tile t1 (some d) } }
        else
          let slot := match s.inst? x.job t.inst with
            | some v => Table.getD v.ready t.dev.toNat 0
            | none => 0
          ({ s1 with mesh := removeAt s1.mesh i }).sendRec (dieOf c) 1
            { kind := 1, poison := d.poison, job := x.job, dst := t.dev.toNat, src := s.devnum, body := tileBody t1 slot d }
    | _, _ => s

/-- TILE_LAST_BYTE_LEFT. -/
def execTileLastByteLeft (i : Nat) (s : State) : Host.Outcome State Fault Refusal := s.powered (fun t => t.tileLeaves i)

/-- Shapes that a shipped tile asks for. -/
def TileData.asks (d : TileData) : List (Nat × Nat × Nat) :=
  (d.fmt, d.rows, d.cols) :: (match d.scale with | some (f, r, c, _) => [(f, r, c)] | none => [])

/-- Write what was shipped into the tiles made for it: FULL, poisoned as its source was, with its scale tile attached. -/
def Core.fillShipped (k : Core) (d : TileData) (made : List Nat) : Core :=
  let i := made.headD 0
  let k1 := (k.putRows (k.tile i) 0 d.data).onTile i (fun t => { t with st := TileSt.full, poison := d.poison })
  match d.scale, made with
  | some (_, _, _, rows), [_, j] =>
    ((k1.putRows (k1.tile j) 0 rows).onTile j (fun t => { t with st := TileSt.full })).onTile i (fun t => { t with scv := true, scale := j })
  | _, _ => k1

/-- The request for space of item `i` of the mesh waits, from now on if it has not waited before (R148). -/
def State.awaitSpace (s : State) (i : Nat) : State :=
  match s.mesh[i]? with
  | some x =>
    if x.asked.isSome then s
    else
      let (t, n) := s.fresh
      { t with mesh := setAt t.mesh i { x with asked := some n } }
  | none => s

/-- A shipped tile arrives (R151): with the tiles granted for it, in its turn among the requests for space, and written, its token is
placed; else it waits. One for a pre-empted job waits until the job resumes (R117, log entry 29). -/
def State.arriveTile (s : State) (i : Nat) (gs : List TileGrant) : State :=
  match s.takeMesh i with
  | some (x, s1) =>
    match x.what, s.devCore x.job x.dst with
    | .tile t (some d), some c =>
      if s.discards x.job t.inst c then s1.received x t.inst
      else if s.queuedBefore c (x.asked.getD s.nextId) then s.awaitSpace i
      else
        match (s1.core c).makeAll s.clock x.job t.inst .pending d.asks gs with
        | none => s.awaitSpace i
        | some (k1, made) =>
          let k2 := k1.fillShipped d made
          let t1 := { t with w2 := k2.handle x.dst (made.headD 0), poison := t.poison || d.poison }
          match (s1.setCore c k2).letIn c t1 with
          | (s2, true) => (s2.received x t.inst).progress x.job t.inst
          | (_, false) => { (s1.letIn c t1).1 with mesh := s.mesh }
    | .tile t (some _), none =>
      if (s.job x.job).st == .preempted && ((s.job x.job).asSaved.devCore x.dst).isSome && !s.discards x.job t.inst 64 then s
      else s1.received x t.inst
    | _, _ => s
  | none => s

/-- TILE_ARRIVAL. -/
def execTileArrival (i : Nat) (grant : List TileGrant) (s : State) : Host.Outcome State Fault Refusal :=
  s.powered (fun t => t.arriveTile i grant)

/-! ## Tiles and matrix requests -/

/-- TILE_FREE (R148, R332). -/
def execTileFree (core index : Nat) (s : State) : Host.Outcome State Fault Refusal :=
  s.powered (fun t => (t.freeEntryNow core index).onCore core Core.replaceBanks)

/-- TILE_OP_START (R325, R347, R370): a request of the tile unit, the addition of a contribution, or a tile memory form. -/
def execTileOpStart (core rid : Nat) (grant : List TileGrant) (s : State) : Host.Outcome State Fault Refusal :=
  s.powered (fun t => ((t.startTile core rid grant).startAdd core rid grant).startMemTile core rid grant)

/-- TILE_OP_DONE (R325, R348). -/
def execTileOpDone (core rid : Nat) (s : State) : Host.Outcome State Fault Refusal :=
  s.powered (fun t => (t.doneTile core rid).doneAdd core rid)

/-- MMA_START (R164). -/
def execMmaStart (core rid : Nat) (grant : List TileGrant) (s : State) : Host.Outcome State Fault Refusal :=
  s.powered (fun t => t.startMma core rid grant)

/-- MMA_DONE (R164, R165). -/
def execMmaDone (core rid : Nat) (residueOk : Bool) (s : State) : Host.Outcome State Fault Refusal :=
  s.powered (fun t => t.doneMma core rid residueOk)

/-! ## Banks (R80) -/

/-- The banks of a bank's group, which pass their states together (R153). -/
def groupBanks (bank : Nat) : List Nat := upFrom (8 * (bank / 8)) 8

/-- The banks of a group enter SAFELIGHT: no firing of the core, and no request of the group, for 4,096 clocks. -/
def Core.dimBanks (k : Core) (bank clock : Nat) : Core :=
  if k.lastIssue + 4096 ≤ clock ∧
      (groupBanks bank).all (fun b => (Table.getD k.banks b {}).st == .lit && decide ((Table.getD k.banks b {}).last + 4096 ≤ clock)) then
    { k with banks := (groupBanks bank).foldl (fun m b => Table.put m b { Table.getD m b {} with st := .safelight }) k.banks }
  else k

/-- BANK_SAFELIGHT: of a bank and of its group. -/
def execBankSafelight (core bank : Nat) (s : State) : Host.Outcome State Fault Refusal :=
  s.powered (fun t => t.onCore core (fun k => k.dimBanks bank t.clock))

/-- BANK_WAKE: a sleeping bank that a request asks for, with its group. -/
def execBankWake (core bank : Nat) (s : State) : Host.Outcome State Fault Refusal :=
  s.powered (fun t =>
    if (Table.getD (t.core core).banks bank {}).st == .safelight then t.onCore core (fun k => k.lightBanks (groupBanks bank) t.clock) else t)

/-! ## Errors of core storage (R128, R173) -/

/-- A tile overlaps a 64-byte unit: its space holds it, or a row of a view does. -/
def Tile.overlaps (t : Tile) (unit : Nat) : Bool :=
  if t.view then (List.range t.nrows).any (fun r => decide (t.base + r * t.pitch ≤ unit) && decide (unit < t.base + r * t.pitch + cdiv t.rowLen 64))
  else decide (t.base ≤ unit) && decide (unit < t.base + t.units)

/-- The tiles that overlap a 64-byte unit, views included. -/
def Core.tilesOver (k : Core) (unit : Nat) : List Nat :=
  (k.tiles.filter (fun (_, t) => t.st != TileSt.free && t.overlaps unit)).map (·.1)

/-- An uncorrectable error in a core's storage (Table 6.12). -/
def State.strike (s : State) (c : Nat) (place : EccPlace) : State :=
  let k := s.core c
  match place with
  | .frameSlot n => (s.setCore c { k with badSlots := n :: k.badSlots }).uncorrectable c true
  | .instructionWord b i => (s.setCore c { k with badWords := (b, i) :: k.badWords }).uncorrectable c true
  | .tileUnit u =>
    let k1 := (k.tilesOver u).foldl (fun k i => k.onTile i (fun t => { t with poison := true })) k
    let b := (bankAt (64 * u)).1
    (s.setCore c { k1 with failing := if k1.failing.contains b then k1.failing else b :: k1.failing }).uncorrectable c false
  | .tileEntry i =>
    let s1 := s.uncorrectable c false
    if (k.tile i).st == TileSt.free then s1 else s1.cancelJob (k.tile i).job 5 2
  | .tokenEntry p lost =>
    let s1 := s.uncorrectable c false
    match k.buffer[p]? with
    | none => s1
    | some t =>
      if lost then s1.cancelJob t.job.toNat 5 1
      else s1.onCore c (fun k => { k with buffer := setAt k.buffer p { t with poison := true } })
  | .counts j => (s.uncorrectable c false).cancelJob j 5 2

/-- ECC_ERROR. -/
def execEccError (core : Nat) (place : EccPlace) (correctable : Bool) (s : State) : Host.Outcome State Fault Refusal :=
  s.powered (fun t => if correctable then t.corrected core else t.strike core place)

/-! ## Cancel marks (R103) -/

/-- INSTANCE_CANCEL_MARK. -/
def execInstanceCancelMark (job slot core : Nat) (s : State) : Host.Outcome State Fault Refusal :=
  s.powered (fun t => if t.markPending job slot core then t.cancelAt job slot core else t)

end Sys2Proof.Machine
end

