-- ==== Sys2Proof/Machine/MemEvents.lean ====
section
/-! DEFINITION. The events of device memory, of the engines that access it, and of what other devices and the host ask of
it (R53, R69 to R73, R81, R86, R92, R157, R223, R237, R240 to R243, R376). -/

namespace Sys2Proof.Machine

/-! ## Requests of the cores and engines -/

/-- MEMORY_PERFORM (R223): an element of a core's request, or a unit of a routing engine's work. -/
def execMemoryPerform (rid elem : Nat) (ecc : EccOutcome) (s : State) : Host.Outcome State Fault Refusal :=
  s.powered (fun t => if t.memReqs.any (fun m => m.req.id == rid) then t.performMem rid elem ecc else t.performRoute rid elem ecc)

/-- PAGE_WALK (R86). -/
def execPageWalk (rid elem : Nat) (s : State) : Host.Outcome State Fault Refusal := s.powered (fun t => t.pageWalkMem rid elem)

/-- WATCH_TIMEOUT (R240). -/
def execWatchTimeout (rid : Nat) (s : State) : Host.Outcome State Fault Refusal := s.powered (fun t => t.watchExpires rid)

/-- HOST_RESPONSE (R242). -/
def execHostResponse (rid elem : Nat) (ok : Bool) (s : State) : Host.Outcome State Fault Refusal :=
  s.powered (fun t => t.hostAnswer rid elem ok)

/-- WC_ENTRY_WRITE: the `i`-th entry of a die's combiner is written to its home (R237). -/
def execWcEntryWrite (die i : Nat) (s : State) : Host.Outcome State Fault Refusal :=
  s.powered (fun t => match (Table.getD t.wc die [])[i]? with | some e => t.flushEntry die e | none => t)

/-- The job's engines work: it is not halted (R117). -/
def State.engineRuns (s : State) (j : Nat) : Bool := !(s.job j).halted

/-- WALKER_ELEMENT (R157 to R162): units of its round are performed by themselves, or it goes on to its next step. -/
def execWalkerElement (core walker : Nat) (turn : WalkerTurn) (s : State) : Host.Outcome State Fault Refusal :=
  s.powered (fun t =>
    if t.engineRuns ((t.core core).walker walker).job then
      (if turn.units.isEmpty && turn.entries.isEmpty then t.walkerStep core walker turn.grant else t.walkerUnits core walker turn.units turn.entries)
    else t)

/-- The request at the head of a copy queue goes on; a unit that it completes is progress (R170). -/
def State.copyStep (s : State) (die job queue : Nat) : State :=
  let head (t : State) : Option CopyReq := t.copies.find? (fun x => x.die == die && x.req.job == job && x.queue == queue)
  let t := s.copyHead die job queue
  match head s with
  | none => t
  | some x =>
    match head t with
    | some y => if y.req.id == x.req.id && y.row == x.row && y.unit == x.unit then t else t.progress job x.req.inst
    | none => t.progress job x.req.inst

/-- Units of the request at the head of a copy queue are performed by themselves (R235): each is progress (R170). -/
def State.copyTurn (s : State) (die job queue : Nat) (units : List (Nat × Bool)) : State :=
  let t := s.copySome die job queue units
  match s.copyAt die job queue with
  | some x => if t.fabric.length = s.fabric.length then t else t.progress job x.req.inst
  | none => t

/-- A PREF waits to be served by this die's copy engine, which serves it ahead of queued work (R163, R366). -/
def State.prefWaits (s : State) (die : Nat) : Bool :=
  s.memReqs.any (fun m => (match m.req.instr with | .pref _ => true | _ => false) && !m.begun && s.engineRuns m.req.job
    && (match s.devCore m.req.job m.req.core with | some c => dieOf c == die && s.gateOpen c m | none => false))

/-- COPY_REQUEST (R374 to R377): units of the request are performed by themselves, or it goes on as far as it can. -/
def execCopyRequest (die job : Nat) (turn : CopyTurn) (s : State) : Host.Outcome State Fault Refusal :=
  s.powered (fun t =>
    if !t.engineRuns job || t.prefWaits die then t
    else if turn.units.isEmpty then t.copyStep die job turn.queue
    else t.copyTurn die job turn.queue turn.units)

/-! ## Fault records (R92) -/

/-- The 128 bytes of a fault record (Table 4.11). -/
def FaultRec.bytes (r : FaultRec) : List Byte :=
  natLe 8 r.id ++ natLe 1 r.kind ++ natLe 1 r.reason ++ natLe 1 r.access ++ natLe 1 r.portType ++ natLe 1 r.portNum
    ++ natLe 1 r.walker ++ natLe 2 r.joined ++ natLe 8 r.va ++ natLe 8 r.entry ++ natLe 1 r.level ++ zeros 3
    ++ natLe 4 r.inst.toNat ++ (r.port ++ zeros 48).take 48 ++ natLe 8 r.time.toNat ++ zeros 31 ++ natLe 1 1

/-- How the writing of a record ended. -/
inductive RingStep where
  /-- written at this slot -/
  | written (s : State) (slot : Nat)
  /-- the slot is not free, or another device or a port of the host is waited for -/
  | waits (s : State)
  /-- the slot could not be read or written -/
  | lost (s : State)

/-- Write a record at the next slot of its job's fault ring, if that slot is free. -/
def State.putFault (s : State) (r : FaultRec) : RingStep :=
  let x := s.job r.job
  let slot := x.faultNext % x.faultN
  let va := x.faultVa + 128 * slot
  let o := faultOwner r.id
  match s.vread o none r.job (va + 0x7F) 1 with
  | (t, .wait) => .waits (s.keepAsks t)
  | (s1, .data [b]) =>
    if b = 0 then
      match s1.vwrite o none r.job va r.bytes with
      | (t, .wait) => .waits (s.keepAsks t)
      | (s2, .data _) => .written ((s2.dropOwner o).onJob r.job (fun y => { y with faultNext := y.faultNext + 1 })) slot
      | (s2, _) => .lost (s2.dropOwner o)
    else .waits (s.dropOwner o)
  | (s1, _) => .lost (s1.dropOwner o)

/-- Write the first buffered record whose slot is free, records of one job in their order: one that cannot be written is
discarded and counted, and each raises its FAULT event. -/
def State.writeFault (s : State) (die : Nat) : List FaultRec → List Nat → State
  | [], _ => s
  | r :: rest, held =>
    let drop (t : State) : State :=
      { t with faultBuf := Table.put t.faultBuf die ((Table.getD t.faultBuf die []).filter (fun q => q.id != r.id)) }
    if held.contains r.job then State.writeFault s die rest held
    else if (s.job? r.job).isNone then drop s
    else
      match s.putFault r with
      | .written t slot => (drop t).faultEvent r.job r.id slot r.kind
      | .lost t => (drop t).loseFault r.job r.id r.kind
      | .waits t => State.writeFault t die rest (r.job :: held)

/-- FAULT_RECORD_WRITE. -/
def execFaultRecordWrite (die : Nat) (s : State) : Host.Outcome State Fault Refusal :=
  s.powered (fun t => t.writeFault die (Table.getD t.faultBuf die []) [])

/-! ## Floors and rooms (R70 to R74, R81) -/

/-- A room and a floor mask of FLOOR.ALLOC and FLOOR.FREE as floors, ascending. -/
def floorsOf (room mask : Nat) : List Nat := ((List.range 16).filter (fun i => bitAt mask i)).map (fun i => 16 * room + i)

/-- The floors that a command record names. -/
def Cmd.floors (c : Cmd) : List Nat := floorsOf (recNat c.bytes 0x10 1) (recNat c.bytes 0x12 2)

/-- The queues whose command has begun and satisfies a test. -/
def State.begunWhere (s : State) (p : Cmd → Bool) : List Nat :=
  (List.range 16).filter (fun q => match (s.queue q).cur with | some c => c.begun && p c | none => false)

/-- A CKPT or a RESTORE is under way, during which no other command completes (R44, R56). -/
def State.exclusive (s : State) : Bool :=
  (List.range 16).any (fun q => match (s.queue q).cur with | some c => c.op == 0x13 || c.op == 0x14 | none => false)

/-- Complete every FLOOR.ALLOC whose floors are all LIT (R70). -/
def State.finishAllocs (s : State) : State :=
  let done (c : Cmd) : Bool := c.op == 0x0D && c.floors.all (fun f => (s.floor f).st.open)
  if s.exclusive then s else (s.begunWhere done).foldl (fun t q => t.complete q 0 0 0) s

/-- Cellar traffic that a DARK floor holds goes on (R73). -/
def State.releaseDark (s : State) : State :=
  { s with jobs := s.jobs.map (fun (j, x) =>
      (j, { x with cellars := x.cellars.map (fun (n, v) => if v.hold = 3 then (n, { v with hold := 0 }) else (n, v)) })) }

/-- A ZEROING floor is LIT; the floors of one FLOOR.ALLOC become LIT in ascending order (R70). -/
def State.lightFloor (s : State) (f : Nat) : State :=
  let earlier := s.begunWhere (fun c => c.op == 0x0D && c.floors.contains f && c.floors.any (fun g => decide (g < f) && (s.floor g).st == .zeroing))
  if (s.floor f).st == .zeroing && (s.room (f / 16)).lit && earlier.isEmpty then
    ({ s with floors := Table.modify s.floors f {} (fun x => { x with st := .lit }) }).finishAllocs.releaseDark
  else s

/-- FLOOR_LIT. -/
def execFloorLit (room floor : Nat) (s : State) : Host.Outcome State Fault Refusal := s.powered (fun t => t.lightFloor (16 * room + floor))

/-- BACKGROUND_ZERO (R71). -/
def execBackgroundZero (room floor region : Nat) (s : State) : Host.Outcome State Fault Refusal :=
  s.powered (fun t =>
    let f := t.floor (16 * room + floor)
    if f.st == .lit && decide (region < 65536) && !f.cleared.contains region then
      { t with floors := Table.put t.floors (16 * room + floor) { f with cleared := f.cleared ++ [region] } }
    else t)

/-- PATROL_SCRUB (R81): `corrected` units are written back corrected, and the units `bad` of the floor are poisoned. A region that
still reads as zeros with valid ECC has none (R71). One just before a read stands for what the code finds at that read, where the
read's own event names no outcome: the read may wake a SAFELIGHT room (log entry 55). -/
def execPatrolScrub (room floor corrected : Nat) (bad : List Nat) (s : State) : Host.Outcome State Fault Refusal :=
  s.powered (fun t =>
    let f := 16 * room + floor
    let us := (bad.filter (fun u => floorOf (64 * u) == f && !t.cleanRegion (64 * u))).eraseDups
    if (t.floor f).st.open then
      let t1 := t.onEcnt (80 + room) (fun e => { e with corr := (e.corr + corrected) % 2 ^ 32, uncorr := min (e.uncorr + us.length) 0xFFFF })
      { t1 with
        poison := t1.poison ++ us.filter (fun u => !t1.poison.contains u)
        hkc := { t1.hkc with defects := { t1.hkc.defects with rows := t1.hkc.defects.rows ++ us.filter (fun u => !t1.hkc.defects.rows.contains u) } } }
    else t)

/-- Rooms that a running job's exposure covers (R72, R76): those of `EXPO`, and those that a pending EXPO removes. -/
def State.covered (s : State) (r : Nat) : Bool :=
  s.jobs.any (fun (_, x) => x.running && (bitAt x.expo.toNat r || x.expos.any (fun p => bitAt p.2.2.toNat r)))

/-- Clocks in 100 µs. -/
def State.idleClocks (s : State) : Nat := if s.proof then 62500 else 125000

/-- ROOM_SAFELIGHT (R72): a room that no running job exposes, no request has reached for 100 µs, and no command works on. -/
def execRoomSafelight (room : Nat) (s : State) : Host.Outcome State Fault Refusal :=
  s.powered (fun t =>
    let m := t.room room
    let worked (c : Cmd) : Bool := ((c.op == 0x0D || c.op == 0x0E) && c.floors.any (fun f => f / 16 == room)) || c.op == 0x13 || c.op == 0x14
    if m.lit && !t.covered room && decide (m.last + t.idleClocks ≤ t.clock) && (t.begunWhere worked).isEmpty then
      { t with
        rooms := Table.put t.rooms room { m with lit := false }
        floors := t.floors.map (fun (k, f) => if k / 16 = room && f.st == .lit then (k, { f with st := .safelight }) else (k, f)) }
    else t)

/-- ROOM_WAKE (R72, R76): a room that is waking is LIT, and what waited for rooms that are LIT by now goes on. -/
def execRoomWake (room : Nat) (s : State) : Host.Outcome State Fault Refusal :=
  s.powered (fun t => (if (t.room room).waking then t.lightRoom room else t).answerExpos)

/-! ## The host's accesses (R16, R53, R243) -/

/-- The CXL port that decodes a room is up and does not refuse traffic (R15, R16, R52). -/
def State.portServes (s : State) (room : Nat) : Bool :=
  match s.host.ports[room / 4]? with
  | some p => p.up && !p.refused
  | none => false

/-- Append an answer to the host. -/
def State.answerHost (s : State) (a : CxlAnswer) : State := { s with host := { s.host with answers := s.host.answers ++ [a] } }

/-- CXL_MEM_READ: the 64-byte unit of an address (R224). Poisoned data have free bytes. Log entry 55. -/
def execCxlMemRead (pa : Nat) (ecc : EccOutcome) (s : State) : Host.Outcome State Fault Refusal :=
  s.powered (fun t =>
    let u := pa / 64 * 64
    if decide (hbmBytes ≤ pa) || !t.portServes (roomOf pa) then t
    else
      match (t.hbmEcc u 64 ecc).devRead none u 64 with
      | (t1, .data bs) => t1.answerHost { pa := u, data := bs, poison := false }
      | (t1, _) =>
        let (t2, d) := t1.drawMany 64
        t2.answerHost { pa := u, data := (List.range 64).map (fun i => Config.freeByte (d + i)), poison := true })

/-- CXL_MEM_WRITE: bytes within one 64-byte unit; a partial write reads the unit's other bytes, and their error-correcting
code with them. Its completion carries no data. -/
def execCxlMemWrite (pa : Nat) (data : List Byte) (ecc : EccOutcome) (s : State) : Host.Outcome State Fault Refusal :=
  s.powered (fun t =>
    if decide (hbmBytes ≤ pa) || data.isEmpty || decide (64 < pa % 64 + data.length) || !t.portServes (roomOf pa) then t
    else
      let t1 := if data.length = 64 then t else t.hbmEcc (pa / 64 * 64) 64 ecc
      (t1.devWrite none pa data).1.answerHost { pa := pa, data := [], poison := false })

/-! ## What other devices ask (R22, R69) -/

/-- The virtual channel of a record (Table 1.10). -/
def LinkRec.vc (r : LinkRec) : Nat :=
  match r.kind with
  | 1 => 1
  | 2 | 3 | 4 | 5 => 2
  | 6 => 3
  | 7 | 8 | 9 | 0xA => 4
  | 0xB | 0xC | 0xD | 0xE | 0xF | 0x10 => 5
  | 0x14 => bits (recNat r.body 16 8) 61 3
  | _ => 6

/-- Records of routing engines, which wait at the I/O die while their job is pre-empted (R117). -/
def LinkRec.routing (r : LinkRec) : Bool := decide (7 ≤ r.kind) && decide (r.kind ≤ 0x10)

/-- A record that has reached this device waits, and holds no other job's back: one for the routing engines of a pre-empted job (R117),
or a mark of a fabric instance that this device has not started (R125). -/
def State.recWaits (s : State) (r : LinkRec) : Bool :=
  if r.routing then (s.job r.job).st == .preempted
  else if r.kind = 0x11 || r.kind = 0x12 || r.kind = 0x13 then
    (match s.job? r.job with
      | some x => decide (Table.getD x.ordinals r.rid 0 ≤ recNat r.body 0 4)
      | none => true)
  else false

/-- Record `i` is behind an earlier one of its sender and channel (R22): of its own job, and for marks of its tag, or one that does not
wait. Log entry 56. -/
def State.recBehind (s : State) (i : Nat) (r : LinkRec) : Bool :=
  (s.inbox.take i).any (fun y => y.src == r.src && y.vc == r.vc
    && ((y.job == r.job && (r.vc != 6 || y.rid == r.rid)) || !s.recWaits y))

/-- Take record `i` of this kind, unless it waits or is behind another. -/
def State.takeRec (s : State) (i kind : Nat) : Option (LinkRec × State) :=
  match s.inbox[i]? with
  | none => none
  | some r => if r.kind != kind || s.recWaits r || s.recBehind i r then none else some (r, { s with inbox := removeAt s.inbox i })

/-- Handle record `i` of a kind. -/
def State.onRec (s : State) (i kind : Nat) (f : State → LinkRec → State) : Host.Outcome State Fault Refusal :=
  s.powered (fun t =>
    match t.takeRec i kind with
    | some (r, t1) => f t1 r
    | none => t)

/-- The die of an HBM address's controller. -/
def dieOfRoom (pa : Nat) : Nat := roomOf pa / 2

/-- What a request of another device finds at an address: an address error, a refused floor, or memory. -/
inductive RemoteTarget where
  | error
  | dark
  | memory
  deriving DecidableEq, Repr

/-- The target of a request (R69). -/
def State.targetAt (s : State) (pa : Nat) : RemoteTarget :=
  if hbmBytes ≤ pa then .error else if (s.floor (floorOf pa)).st.open then .memory else .dark

/-- Answer a request with a status. -/
def State.replyTo (s : State) (r : LinkRec) (pa status : Nat) (bs : List Byte) : State :=
  s.respond (if pa < hbmBytes then dieOfRoom pa else 0) r.job r.src r.rid status bs

/-- A refused request has reached its room all the same (R72). -/
def State.refuseDark (s : State) (r : LinkRec) (pa : Nat) : State := (s.touchRoom none (roomOf pa) 0).replyTo r pa 1 []

/-- A read request at its home. -/
def State.remoteRead (s : State) (r : LinkRec) : State :=
  let pa := recNat r.body 0 8
  let n := recNat r.body 8 4
  match s.targetAt pa with
  | .error => s.replyTo r pa 2 []
  | .dark => s.refuseDark r pa
  | .memory =>
    match s.hbmRead none pa n with
    | (s1, .data bs) => s1.replyTo r pa 0 bs
    | (s1, _) => s1.replyTo r pa 1 []

/-- READ_REQUEST. -/
def execReadRequest (i : Nat) (s : State) : Host.Outcome State Fault Refusal := s.onRec i 2 State.remoteRead

/-- A write request at its home; one that carries `POISON` marks its units. -/
def State.remoteWrite (s : State) (r : LinkRec) : State :=
  let pa := recNat r.body 0 8
  let n := recNat r.body 8 4
  match s.targetAt pa with
  | .error => s.replyTo r pa 2 []
  | .dark => s.refuseDark r pa
  | .memory =>
    if r.poison then
      let s1 := (s.touchRoom none (roomOf pa) n).clearRegions none pa n
      ({ s1 with poison := s1.poison ++ (unitsOf pa n).filter (fun u => !s1.poison.contains u) }).replyTo r pa 0 []
    else
      match s.hbmWrite none pa ((r.body.drop 16).take n) with
      | (s1, .data _) => s1.replyTo r pa 0 []
      | (s1, _) => s1.replyTo r pa 1 []

/-- WRITE_REQUEST. -/
def execWriteRequest (i : Nat) (s : State) : Host.Outcome State Fault Refusal := s.onRec i 3 State.remoteWrite

/-- An atomic request at its home. The record tells no value type: sums, logic and exchanges need none, and the order of
`.min` and `.max` is a free choice. Log entry 54. -/
def State.remoteAtomic (s : State) (r : LinkRec) : State :=
  let pa := recNat r.body 0 8
  let n := 2 ^ recNat r.body 8 1
  let ty : ScalarTy := if Config.freeSigned r.rid r.src then .s64 else .z64
  match s.targetAt pa with
  | .error => s.replyTo r pa 2 []
  | .dark => s.refuseDark r pa
  | .memory =>
    match s.atomicAt none pa n (recNat r.body 9 1) ty (recNat r.body 16 8) (recNat r.body 24 8) with
    | (s1, .value old) => s1.replyTo r pa 0 (natLe n old)
    | (s1, _) => s1.replyTo r pa 1 []

/-- ATOMIC_REQUEST. -/
def execAtomicRequest (i : Nat) (s : State) : Host.Outcome State Fault Refusal := s.onRec i 4 State.remoteAtomic

/-- The request that stands for another device's WATCH in a controller. -/
def LinkRec.watchReq (r : LinkRec) (id : Nat) : MemReq :=
  let pa := recNat r.body 0 8
  let w : MWord := { (default : MWord) with wid := BitVec.ofNat 3 (recNat r.body 8 1) }
  let q : Req := { id := id, job := remoteJob + r.src, inst := r.job, instr := .watch w, tag := BitVec.ofNat 32 r.rid }
  let a := BitVec.ofNat 64 pa
  { req := { q with a := a, b := BitVec.ofNat 64 (recNat r.body 16 8), d := BitVec.ofNat 64 (recNat r.body 24 8) }
    elems := [{ va := pa, len := 2 ^ recNat r.body 8 1, dest := pa }] }

/-- WATCH_REQUEST (R240): it waits at the controller, in its turn, while the table is full (R368). -/
def execWatchRequest (i : Nat) (s : State) : Host.Outcome State Fault Refusal :=
  s.onRec i 5 (fun t r =>
    let pa := recNat r.body 0 8
    match t.targetAt pa with
    | .error => t.replyTo r pa 2 []
    | .dark => t.refuseDark r pa
    | .memory =>
      let (t1, id) := t.fresh
      ({ t1 with memReqs := t1.memReqs ++ [r.watchReq id] }).watchAt 0 id none pa none)

/-- What an answer of another device lets go on: spills, combiner entries, the device's rings, records and reports, and the routing
engines. -/
def State.answered (s : State) (r : LinkRec) : State :=
  let s1 := match (s.fabric.find? (fun f => f.rid == r.rid)).map (·.owner) with
    | some [7, j, jc] => s.spillAnswered j jc
    | some [10, die, j, unit] => s.wcAnswered die j unit
    | some [12, kind, n, id] => s.ringAnswered kind n id
    | _ => s
  s1.runPosts.routeRun

/-- A response reaches the agent that asked (R69, R241). -/
def State.takeResponse (s : State) (r : LinkRec) : State :=
  let status := recNat r.body 0 1
  let bs := r.body.drop 8
  match s.awayElem r.rid with
  | some (m, n) => s.elemResponse m n r.rid r.src status bs
  | none => (s.fabricAnswer r.rid status bs).answered r

/-- RESPONSE. -/
def execResponse (i : Nat) (s : State) : Host.Outcome State Fault Refusal := s.onRec i 6 State.takeResponse

/-! ## Records of the routing engines (chapter 07) -/

/-- SELECTION_RECORD (R180). -/
def execSelectionRecord (i : Nat) (s : State) : Host.Outcome State Fault Refusal := s.onRec i 7 State.routeRecord
/-- END_MARK (R182). -/
def execEndMark (i : Nat) (s : State) : Host.Outcome State Fault Refusal := s.onRec i 8 State.routeRecord
/-- SLOT_RETURN (R183). -/
def execSlotReturn (i : Nat) (s : State) : Host.Outcome State Fault Refusal := s.onRec i 9 State.routeRecord
/-- COUNTS (R182). -/
def execCounts (i : Nat) (s : State) : Host.Outcome State Fault Refusal := s.onRec i 0xA State.routeRecord
/-- ROW (R187). -/
def execRow (i : Nat) (s : State) : Host.Outcome State Fault Refusal := s.onRec i 0xB State.routeRecord
/-- ROW_ACKNOWLEDGEMENT (R187). -/
def execRowAcknowledgement (i : Nat) (s : State) : Host.Outcome State Fault Refusal := s.onRec i 0xC State.routeRecord
/-- FINAL_MARK (R188). -/
def execFinalMark (i : Nat) (s : State) : Host.Outcome State Fault Refusal := s.onRec i 0xD State.routeRecord
/-- OUTPUT_ROW_READ (R189). -/
def execOutputRowRead (i : Nat) (s : State) : Host.Outcome State Fault Refusal := s.onRec i 0xE State.routeRecord
/-- OUTPUT_ROW_DATA (R189). -/
def execOutputRowData (i : Nat) (s : State) : Host.Outcome State Fault Refusal := s.onRec i 0xF State.routeRecord
/-- RELEASE_MARK (R195). -/
def execReleaseMark (i : Nat) (s : State) : Host.Outcome State Fault Refusal := s.onRec i 0x10 State.routeRecord

/-! ## Tiles from other devices (R22, R23) -/

/-- Rows of bytes cut from rows at minimal pitch. -/
def rowsFrom (bs : List Byte) (len : Nat) : Nat → List (List Byte)
  | 0 => []
  | n + 1 => bs.take len :: rowsFrom (bs.drop (roundUp len 64)) len n

/-- What a tile-transfer record holds: its token, with the sideband from W1[13:6], and the tile. A scale tile is UINT8. -/
def LinkRec.shipment (r : LinkRec) : Token × TileData :=
  let b := r.body
  let w1 := recNat b 8 8
  let t := Token.ofWords (recNat b 0 8) w1 (BitVec.ofNat 64 (recNat b 16 8)) (bits w1 6 8)
  let rows := recNat b 24 2 + 1
  let cols := recNat b 26 2 + 1
  let fmt := recNat b 28 1
  let flags := recNat b 29 1
  let n := recNat b 32 4
  let srows := recNat b 40 2 + 1
  let scols := recNat b 42 2 + 1
  let data := b.drop 48
  let scale := if bitAt flags 0 then some (9, srows, scols, rowsFrom (data.drop n) scols srows) else none
  (t, { fmt := fmt, rows := rows, cols := cols, poison := bitAt flags 1, data := rowsFrom data (rowBytes fmt cols) rows, scale := scale })

/-- A token for a part of a fabric instance that ended before its peers' is received: its totals are told again (R126). -/
def State.lateToken (s : State) (j slot : Nat) : State :=
  match s.endedParts.find? (fun p => p.job == j && p.slot == slot) with
  | some p =>
    let q := { p with received := (p.received + 1) % 2 ^ 32 }
    ({ s with endedParts := q :: s.endedParts.filter (fun e => e != p) }.tellEnded q 1).tellEnded q 2
  | none => s

/-- A token or tile that arrived from another device enters the mesh at an I/O die, or is dropped at the wall (R97, R112,
R117): the cellar of its core takes a value token of a pre-empted job, where it has room. -/
def State.enterFrom (s : State) (io : Nat) (t : Token) (what : Flight) : State :=
  let j := t.job.toNat
  let dst := t.core.toNat
  let s1 := s.countReceived j t.inst (64 + io)
  let onMesh (u : State) : State :=
    { u with mesh := u.mesh ++ [{ job := j, src := 64 + io, dst := dst, vc := t.cls.toNat, what := what }] }
  match s.job? j with
  | none => (s1.wallDrop j (64 + io) t.w0 t.w1).lateToken j t.inst
  | some x =>
    if x.st == .preempted then
      if (x.asSaved.devCore dst).isNone then s1.wallDrop j (64 + io) t.w0 t.w1
      else
        match what with
        | .value t =>
          if (x.cellar dst).hold ≠ 0 then onMesh s1
          else (match s1.spillTo 64 j dst t with
            | (s2, true) => s2
            | (s2, false) => onMesh s2)
        | _ => onMesh s1
    else if x.st == .cancelling || (x.devCore dst).isNone then (s1.wallDrop j (64 + io) t.w0 t.w1).lateToken j t.inst
    else onMesh s1

/-- TILE_TRANSFER. -/
def execTileTransfer (i : Nat) (s : State) : Host.Outcome State Fault Refusal :=
  s.onRec i 1 (fun t r =>
    let (tok, d) := r.shipment
    t.enterFrom r.io tok (.tile tok (some d)))

end Sys2Proof.Machine
end

