-- ==== Sys2Proof/Machine/SchedEvents.lean ====
section
/-! DEFINITION. The events of the job scheduler: completion (R98, R126), marks of fabric instances (R125, R126), primed
tokens (R109), tick edges (R101) and the quiescence detector (R170, R171). -/

namespace Sys2Proof.Machine

/-! ## Completion (R98, R126) -/

/-- The instance completes, once its stores that the write combiners hold are performed (R244): it ends with its status, and its
job settles. -/
def State.finishInst (s : State) (j i : Nat) (v : Instance) : State :=
  let mine (e : WcEntry) : Bool := e.job == j
  let s1 := s.flushWhere mine
  if s1.wcHolds mine then s1 else (s1.endInst j i v.endStatus).settle j settleBound

/-- Key of a part's totals of one collection. -/
def totalsKey (dev coll : Nat) : Nat := 2 * dev + (coll - 1)

/-- The totals of one collection over every part, once all are in: held, sent and received sums. -/
def Instance.sums (v : Instance) (devs : List Nat) (coll : Nat) : Option (Nat × Nat × Nat) :=
  (devs.mapM (fun d => Table.find v.totals (totalsKey d coll))).map (fun xs =>
    (xs.foldl (fun n p => n + p.1) 0, xs.foldl (fun n p => n + p.2.1) 0 % 2 ^ 32, xs.foldl (fun n p => n + p.2.2) 0 % 2 ^ 32))

/-- Store the part's own totals and send them. -/
def State.publish (s : State) (j i tag ordinal : Nat) (peers : List Nat) (coll : Nat) (n : Nat × Nat × Nat) : State :=
  (s.onInst j i (fun v => { v with totals := Table.put v.totals (totalsKey s.devnum coll) n })).tellTotals j tag ordinal peers coll n

/-- Forget every second collection. -/
def Instance.dropSecond (v : Instance) : Instance := { v with totals := v.totals.filter (fun p => p.1 % 2 == 0) }

/-- One turn of the exchange of totals: the part sends its first collection once it holds nothing and again when that has
changed, its second once every first one is in and they agree, and completes once the second ones agree with them. -/
def State.checkFabric (s : State) (j i : Nat) (v : Instance) (tag : Nat) (peers : List Nat) : State :=
  let own := s.devnum
  let n := s.collect j i
  let devs := own :: peers
  if n.1 ≠ 0 then s
  else if Table.find v.totals (totalsKey own 1) != some n then (s.onInst j i Instance.dropSecond).publish j i tag v.ordinal peers 1 n
  else
    match v.sums devs 1 with
    | none => s
    | some (h1, s1, v1) =>
      if h1 ≠ 0 || s1 ≠ v1 then s
      else if (Table.find v.totals (totalsKey own 2)).isNone then s.publish j i tag v.ordinal peers 2 n
      else
        match v.sums devs 2 with
        | none => s
        | some (h2, s2, v2) =>
          if h2 = 0 && s2 = v2 && s2 = s1 then s.finishInst j i v
          else s.onInst j i (fun w => { w.dropSecond with totals := Table.del w.dropSecond.totals (totalsKey own 1) })

/-- The scheduler collects an instance's counts (R98): both collections read the same state in one step. -/
def State.checkComplete (s : State) (j i : Nat) : State :=
  match s.job? j, s.inst? j i with
  | some x, some v =>
    if x.halted || !(v.st == .live || (v.st == .frozen && v.cancelled)) || !v.marks.isEmpty then s
    else
      match x.fabricOf v with
      | some (tag, peers) => s.checkFabric j i v tag peers
      | none =>
        let (h, a, b) := s.collect j i
        if h = 0 && a = b then s.finishInst j i v else s
  | _, _ => s

/-- INSTANCE_COMPLETE_CHECK. -/
def execInstanceCompleteCheck (job slot : Nat) (s : State) : Host.Outcome State Fault Refusal :=
  s.powered (fun t => t.checkComplete job slot)

/-! ## Marks from the peers -/

/-- The part of a fabric instance here: its slot. -/
def Job.fabricInst (x : Job) (tag ordinal : Nat) : Option (Nat × Instance) :=
  x.insts.find? (fun (_, v) =>
    v.st != .ended && v.ordinal == ordinal && (match x.fabricOf v with | some (t, _) => t == tag | none => false))

/-- Handle a mark of the fabric instance that it names; one for a part that has ended is passed over. -/
def State.onMark (s : State) (i kind : Nat) (f : State → LinkRec → Nat → Instance → State) : Host.Outcome State Fault Refusal :=
  s.powered (fun t =>
    match t.takeRec i kind with
    | none => t
    | some (r, t1) =>
      match (t1.job r.job).fabricInst r.rid (recNat r.body 0 4) with
      | some (n, v) => f t1 r n v
      | none => t1)

/-- READY_MARK (R125): the peer's slot. -/
def execReadyMark (i : Nat) (s : State) : Host.Outcome State Fault Refusal :=
  s.onMark i 0x11 (fun t r n _ => t.onInst r.job n (fun v => { v with ready := Table.put v.ready r.src (recNat r.body 4 1) }))

/-- A part's totals of one collection are in: its new first collection ends its own second one and this part's. -/
def Instance.takeTotals (v : Instance) (own : Nat) (r : LinkRec) : Instance :=
  let coll := recNat r.body 4 1
  let got := (recNat r.body 8 8, recNat r.body 16 4, recNat r.body 20 4)
  let w := if coll = 1 then { v with totals := Table.del (Table.del v.totals (totalsKey r.src 2)) (totalsKey own 2) } else v
  { w with totals := Table.put w.totals (totalsKey r.src coll) got }

/-- A first collection of a peer reaches a part that has ended already: the peer has forgotten the second ones, and this part's is told
again (R126, log entry 70). -/
def State.tellLate (s : State) (r : LinkRec) : State :=
  match s.endedParts.find? (fun p => p.job == r.job && p.tag == r.rid && p.ordinal == recNat r.body 0 4) with
  | some p => if recNat r.body 4 1 = 1 then s.tellEnded p 2 else s
  | none => s

/-- COUNT_TOTALS (R126). -/
def execCountTotals (i : Nat) (s : State) : Host.Outcome State Fault Refusal :=
  s.powered (fun t =>
    match t.takeRec i 0x12 with
    | none => t
    | some (r, t1) =>
      match (t1.job r.job).fabricInst r.rid (recNat r.body 0 4) with
      | some (n, _) => t1.onInst r.job n (fun v => v.takeTotals t1.devnum r)
      | none => t1.tellLate r)

/-- CANCEL_MARK (R126). -/
def execCancelMark (i : Nat) (s : State) : Host.Outcome State Fault Refusal :=
  s.onMark i 0x13 (fun t r n _ => (t.cancelInst r.job n).settle r.job settleBound)

/-! ## Primed tokens (R109) -/

/-- The value of a primed token (Table 10.19): an address fills W2[54:0] (Table 8.4). -/
def Prime.word (p : Prime) (g : Graph) (v : Instance) : W64 :=
  match p.kind with
  | 1 => BitVec.ofNat 64 (bits v.arg.toNat 0 55)
  | 2 => BitVec.ofNat 64 v.count
  | 3 => BitVec.ofNat 64 ((g.image + g.dataOff + p.value.toNat) % 2 ^ 55)
  | _ => p.value

/-- A primed token, as if its core had sent it to itself. -/
def Prime.token (p : Prime) (dev j i jc base : Nat) (w2 : W64) : Token where
  dev := BitVec.ofNat 10 dev
  core := BitVec.ofNat 7 jc
  frame := BitVec.ofNat 19 base
  block := BitVec.ofNat 12 p.block
  entry := BitVec.ofNat 7 p.entry
  port := BitVec.ofNat 2 p.port
  job := BitVec.ofNat 6 j
  tag := p.tag
  type := BitVec.ofNat 5 p.type
  dim := BitVec.ofNat 3 p.dim
  cls := if p.type = 12 then 1 else 0
  src := BitVec.ofNat 7 jc
  w2 := w2
  inst := i

/-- Place one primed token. -/
def State.placePrime (s : State) (j i : Nat) (x : Job) (g : Graph) (v : Instance) (p : Prime) : State :=
  let c := x.cores.getD (v.window * g.cores + p.gcore) 64
  match v.roots.find? (fun r => r.core == c && r.block == p.block) with
  | some r =>
    let jc := x.jobCore c
    let t := p.token s.devnum j i jc (r.base.getD 0) (p.word g v)
    { s with mesh := s.mesh ++ [{ job := j, src := jc, dst := jc, vc := t.cls.toNat, what := .value t }] }
  | none => s

/-- The root frames that wait are asked for again; once all are given, and every peer of a cut graph is ready (R125), the
primed tokens are placed in the order of their directives. -/
def State.placePrimes (s : State) (j i : Nat) : State :=
  match s.job? j, s.inst? j i with
  | some x, some v =>
    if !x.running || v.st != .live || v.primes.isEmpty then s
    else
      let s1 := s.giveRoots j i
      match s1.inst? j i, Table.find x.graphs v.graph with
      | some w, some g =>
        let ready := match g.fabric with
          | some (_, peers) => peers.all (fun d => (Table.find w.ready d).isSome)
          | none => true
        if ready && w.roots.all (fun r => r.base.isSome) then
          (w.primes.foldl (fun t p => t.placePrime j i x g w p) s1).onInst j i (fun u => { u with primes := [] })
        else s1
      | _, _ => s1
  | _, _ => s

/-- PRIMED_TOKENS_PLACE. -/
def execPrimedTokensPlace (job slot : Nat) (s : State) : Host.Outcome State Fault Refusal :=
  s.powered (fun t => t.placePrimes job slot)

/-! ## Tick edges (R101, R389) -/

/-- A released ticked phase is unfinished at an edge: DEADLINE, and its policy is applied. -/
def State.missEdge (s : State) (j : Nat) (p : Phase) (edge : Nat) : State :=
  (s.onJob j (fun x => { x with deadlines := x.deadlines + 1, owed := x.owed + b2n p.queuePolicy })).event 0x0006 j
    (natLe 2 p.id ++ natLe 8 edge ++ natLe 1 (b2n p.queuePolicy))

/-- A pending TICK counts an edge that occurs after its arrival; one that has none left to go keeps the edge's time. -/
def tickPast (edge : Nat) (p : Req × Nat × Nat) : Req × Nat × Nat :=
  if p.2.1 = 0 || decide (edge ≤ p.2.2) then p
  else if p.2.1 = 1 then (p.1, 0, edge)
  else (p.1, p.2.1 - 1, p.2.2)

/-- Pending TICKs count an edge; those whose edge it is are answered with its time. -/
def State.tickAnswers (s : State) (j edge : Nat) : State :=
  let ts := (s.job j).ticks.map (tickPast edge)
  let s1 := s.onJob j (fun x => { x with ticks := ts.filter (fun p => p.2.1 != 0) })
  (ts.filter (fun p => p.2.1 == 0)).foldl (fun t p => t.answer p.1 3 (BitVec.ofNat 64 p.2.2) false) s1

/-- A tick edge of a running job, or of one that is being cancelled. -/
def State.applyEdge (s : State) (j edge : Nat) : State :=
  let s1 := match (s.job j).open_.head? with
    | some p =>
      if !p.ticked then s
      else if p.released then s.missEdge j p edge
      else s.onJob j (fun x => x.onPhase p.id (fun q => { q with released := true }))
    | none => s
  (s1.tickAnswers j edge).settle j settleBound

/-- A tick edge that passes while the job is pre-empted: the TICKs whose edge it is keep its time for RESUME. R101 raises one DEADLINE
at RESUME, and does not say which of several edges that passed it names: the last one (the model's choice, log entry 94). -/
def Job.passEdge (x : Job) (edge : Nat) : Job := { x with edgePassed := some edge, ticks := x.ticks.map (tickPast edge) }

/-- A tick edge of the job is reached. -/
def State.edge (s : State) (j : Nat) : State :=
  match s.job? j with
  | none => s
  | some x =>
    if x.period = 0 || decide (s.time.toNat < x.nextEdge) then s
    else
      let e := x.nextEdge
      let y := { x with nextEdge := e + x.period }
      match x.st with
      | .preempting => s.setJob j { y with heldEdges := y.heldEdges ++ [e] }
      | .preempted => s.setJob j (y.passEdge e)
      | .opened | .closing | .cancelling => (s.setJob j y).applyEdge j e

/-- TICK_EDGE. -/
def execTickEdge (job : Nat) (s : State) : Host.Outcome State Fault Refusal := s.powered (fun t => t.edge job)

/-! ## The quiescence detector (R129, R170, R171) -/

/-- One entry of 32 bytes (Table 6.11). -/
def reportEntry (kind jc : Nat) (body : List Byte) : List Byte :=
  let bs := natLe 1 kind ++ natLe 1 jc ++ zeros 2 ++ body
  bs ++ zeros (32 - bs.length)

/-- Places of a mode that can hold a token: the slot within the entry's places, and whether an R token can stand there. -/
def placesOfMode (m : MatchMode) : List Nat :=
  match m with
  | .match1 => []
  | .match2 | .matchc => [0]
  | .merge => [0, 2]

/-- Tag of the token parked for a port at an entry of a frame, if there is one. -/
def Core.parkedTag (k : Core) (base : Nat) (e : Entry) (port : Nat) : Option Nat :=
  (placesOfMode e.mode).findSome? (fun o =>
    let a := k.slot (base + e.slot + o)
    let b := k.slot (base + e.slot + o + 1)
    if a.present && b.port == port then some (bits b.val.toNat 32 32) else none)

/-- Kind 1: half-matches parked in the instance's frames. -/
def Core.reportParked (k : Core) (jc j i : Nat) : List (List Byte) :=
  (sortBy (fun f => f.base) (k.frames.filter (fun f => f.job == j && f.inst == i))).flatMap (fun f =>
    match k.blockOf j f.block with
    | none => []
    | some b => (List.range 128).filterMap (fun n =>
        match b.entryAt n with
        | some (_, _, e) =>
          let l := k.parkedTag f.base e 0
          let r := k.parkedTag f.base e 1
          if l.isNone && r.isNone then none
          else some (reportEntry 1 jc (natLe 4 f.base ++ natLe 2 f.block ++ natLe 1 n ++ natLe 1 (b2n l.isSome + 2 * b2n r.isSome)
            ++ natLe 4 (l.getD 0) ++ natLe 4 (r.getD 0)))
        | none => none))

/-- Kind 2: tokens that the matcher defers, with the cause. -/
def State.reportDeferred (s : State) (c jc j i : Nat) : List (List Byte) :=
  let k := s.core c
  let mine := k.buffer.filter (fun t => t.job.toNat == j && t.inst == i)
  (sortBy (fun (t : Token) => t.frame.toNat) mine).filterMap (fun t =>
    let entry (cause : Nat) : List Byte :=
      reportEntry 2 jc (natLe 4 t.frame.toNat ++ natLe 2 t.block.toNat ++ natLe 1 t.entry.toNat ++ natLe 1 t.port.toNat
        ++ natLe 4 t.tag.toNat ++ natLe 1 cause)
    match s.checkToken c t with
    | .error _ => none
    | .ok m =>
      if k.openFiring t then some (entry 2)
      else if k.placeFull m then some (entry (if m.entry.mode == .matchc then 1 else 0))
      else none)

/-- The largest free run of the frame store. -/
def Core.largestRun (k : Core) : Nat :=
  let (top, best) := (sortBy (fun (f : Frame) => f.base) k.frames).foldl (fun (p : Nat × Nat) f =>
    (max p.1 (f.base + f.size), max p.2 (f.base - p.1))) (0, 0)
  max best (frameSlots - top)

/-- Kind 3: FALLOCs of the instance that wait, one entry for each block. -/
def Core.reportFallocs (k : Core) (jc j i : Nat) : List (List Byte) :=
  let blocks := ((k.fallocs.filter (fun q => q.req.of j i)).map (fun q => q.block)).eraseDups
  (sortBy id blocks).map (fun b =>
    let limit := match k.blockOf j b with | some x => x.limit | none => 0
    reportEntry 3 jc (natLe 2 b ++ natLe 2 (k.liveFrames j b) ++ natLe 2 limit
      ++ natLe 4 (countIf (fun (q : FallocReq) => q.req.job == j && q.block == b) k.fallocs) ++ natLe 4 k.largestRun))

/-- Stripes of the tile store in which no tile lies. -/
def Core.freeStripes (k : Core) : Nat := storeUnits / 8 - (k.tiles.foldl (fun n (_, t) => n + (if t.st == TileSt.free then 0 else t.units)) 0) / 8

/-- Tiles that wait to be made for an instance at a core: (format, rows, columns). The tile unit's and the matrix array's requests, tile
loads, shipped tiles, walkers and emissions ask for them (R148). -/
def State.tileAsks (s : State) (c j i : Nat) : List (Nat × Nat × Nat) :=
  let k := s.core c
  let waits (q : TileReq) : Bool := q.req.of j i && !q.started
  (k.tileReqs.filter (fun q => waits q && q.req.producing)).flatMap (fun q => k.asks q.req)
    ++ (k.mmaReqs.filter waits).flatMap (fun q => k.mmaAsks q.req)
    ++ ((s.memOf c).filter (fun m => m.req.of j i && !m.begun && m.req.isTileLoad)).map (fun m => (m.req.memFmt, m.req.loadShape))
    ++ (s.mesh.filter (fun m => m.job == j && m.asked.isSome && m.what.inst? == some i && s.devCore j m.dst == some c)).flatMap (fun m =>
        match m.what with | .tile _ (some d) => d.asks | _ => [])
    ++ (k.walkers.filter (fun p => p.2.asked.isSome && p.2.job == j && p.2.inst == i)).map (fun p => (p.2.shape.fmt, p.2.wants))
    ++ k.accs.flatMap (fun a => (a.held.filter (fun x => x.asked.isSome && x.made.isNone && x.req.of j i)).map (fun x =>
        let t := k.opTile x.req.a; (x.req.t.fc.toNat, t.nrows, t.ncols)))

/-- The views that an instance's waiting TVIEWs ask for at a core: format, rows and columns. A view asks for no stripes. -/
def State.viewAsks (s : State) (c j i : Nat) : List (Nat × Nat × Nat) :=
  (s.core c).tileReqs.filterMap (fun q => match q.req.instr with
    | .tview w => if q.req.of j i && !q.started then let (nc, nr) := shapeOf q.req.d; some (w.fc.toNat, nr, nc) else none
    | _ => none)

/-- Kind 4: requests of the instance that wait for a tile to put their result in. -/
def State.reportTiles (s : State) (c jc j i : Nat) : List (List Byte) :=
  let k := s.core c
  let freeEntries := 4096 - countIf (fun (p : Nat × Tile) => p.2.st != TileSt.free) k.tiles
  let asks := (s.tileAsks c j i).map (fun p => (p, stripesOf p.2.1 (minPitch p.1 p.2.2))) ++ (s.viewAsks c j i).map (fun p => (p, 0))
  (sortBy (fun (a : (Nat × Nat × Nat) × Nat) => a.1.2.1) asks).map (fun ((f, r, n), stripes) =>
    reportEntry 4 jc (natLe 2 r ++ natLe 2 n ++ natLe 1 f ++ natLe 4 stripes ++ natLe 4 k.freeStripes ++ natLe 2 freeEntries))

/-- Kind 5: walkers of the instance that are frozen or back-pressured (R157), and WCFGs that wait for a walker and name none. -/
def State.reportWalkers (s : State) (c jc j i : Nat) : List (List Byte) :=
  let k := s.core c
  let held (n : Nat) (w : Walker) : Option (Nat × Nat × Nat) :=
    if w.claimed && w.job == j && w.inst == i then
      (match w.frozen with
        | some f => some (n, 0, f)
        | none => if s.backPressed c n then some (n, 1, 0) else none)
    else none
  let waiting := (s.memOf c).filter (fun m => m.req.of j i && (match m.req.instr with | .wcfg _ => !m.begun | _ => false))
  (sortBy (fun (p : Nat × Nat × Nat) => p.1) (k.walkers.filterMap (fun p => held p.1 p.2) ++ waiting.map (fun _ => (0, 2, 0)))).map
    (fun (n, st, f) => reportEntry 5 jc (natLe 1 n ++ natLe 1 st ++ natLe 8 f))

/-- Kind 6: accumulators of the instance that wait for their next tag. -/
def Core.reportWindows (k : Core) (jc j i : Nat) : List (List Byte) :=
  let blocked (a : AccState) : Bool := a.job == j && a.inst == i && !a.held.isEmpty && !a.holds a.expected
  let name (a : AccState) : Nat := if a.isTile then a.name else a.name * 2 ^ 32 + a.key
  (sortBy name (k.accs.filter blocked)).map (fun a =>
    let lowest := a.held.foldl (fun n x => min n x.req.tag.toNat) (2 ^ 32 - 1)
    reportEntry 6 jc (natLe 8 (name a) ++ natLe 4 a.expected.toNat ++ natLe 4 lowest ++ natLe 2 a.held.length))

/-- Kind 7: cellars that hold tokens or hold traffic (R399). -/
def State.reportCellar (s : State) (j jc : Nat) : List (List Byte) :=
  let v := (s.job j).cellar jc
  let hold := if v.hold = 4 then 0 else v.hold
  if v.count = 0 && hold = 0 then []
  else [reportEntry 7 jc (natLe 4 (v.count * 32) ++ natLe 4 v.bytes ++ natLe 1 hold)]

/-- The entries of a report, by kind, then job-logical core, then first field. -/
def State.reportEntries (s : State) (j i : Nat) : List (List Byte) :=
  let x := s.job j
  let cs := sortBy (fun c => x.jobCore c) x.cores
  cs.flatMap (fun c => (s.core c).reportParked (x.jobCore c) j i)
    ++ cs.flatMap (fun c => s.reportDeferred c (x.jobCore c) j i)
    ++ cs.flatMap (fun c => (s.core c).reportFallocs (x.jobCore c) j i)
    ++ cs.flatMap (fun c => s.reportTiles c (x.jobCore c) j i)
    ++ cs.flatMap (fun c => s.reportWalkers c (x.jobCore c) j i)
    ++ cs.flatMap (fun c => (s.core c).reportWindows (x.jobCore c) j i)
    ++ cs.flatMap (fun c => s.reportCellar j (x.jobCore c))

/-- The bytes of a report (Tables 6.10, 6.11). -/
def State.report (s : State) (j i : Nat) (v : Instance) : List Byte :=
  let es := s.reportEntries j i
  let kept := es.take 1022
  let (h, a, b) := s.collect j i
  natLe 4 0x444C434B ++ natLe 2 kept.length ++ natLe 1 (b2n (decide (1022 < es.length))) ++ natLe 1 j ++ natLe 4 (v.id i) ++ zeros 4
    ++ natLe 8 s.time.toNat ++ natLe 8 (s.clock - v.progress) ++ natLe 8 h ++ natLe 4 a ++ natLe 4 b ++ zeros 16 ++ kept.flatten

/-- The timer of a live instance with a nonzero count runs out: the report is written, then DEADLOCK is raised. -/
def State.deadlock (s : State) (j i : Nat) : State :=
  match s.job? j, s.inst? j i with
  | some x, some v =>
    let (h, a, b) := s.collect j i
    let idle := h = 0 && a = b
    if v.st != .live || idle || s.timerStands j i x v || decide (s.clock < max v.progress v.reported + 2 ^ x.qwin) then s
    else
      let bs := s.report j i v
      let va := x.reportVa + 32768 * (x.reportHalf % 2)
      let s1 := (s.onJob j (fun y => { y with reportHalf := y.reportHalf + 1 })).onInst j i (fun w => { w with reported := s.clock })
      s1.post j bs (some (va, natLe 4 (v.id i) ++ natLe 8 va ++ natLe 4 bs.length))
  | _, _ => s

/-- QUIESCENCE_TIMEOUT. -/
def execQuiescenceTimeout (job slot : Nat) (s : State) : Host.Outcome State Fault Refusal := s.powered (fun t => t.deadlock job slot)

end Sys2Proof.Machine
end

