-- ==== Sys2Proof/Machine/Loader.lean ====
section
/-! DEFINITION. The checks of CODE.LOAD on an object image (R247 to R250, R264, R265, R273 to R277), and the flip that puts
its blocks in force (R105, R106). -/

namespace Sys2Proof.Machine

/-! ## Blocks (R247 to R250) -/

/-- A block as the image holds it: its two header words and its instruction words. -/
structure RawBlock where
  h0 : Nat
  h1 : Nat
  words : List W64
  deriving DecidableEq, Repr

/-- `BLKID`. -/
def RawBlock.id (b : RawBlock) : Nat := bits b.h0 8 12
/-- `LEN` + 1 of a first header word. -/
def lenOf (h0 : Nat) : Nat := bits h0 20 7 + 1
/-- Frame size in slots. -/
def RawBlock.fsize (b : RawBlock) : Nat := bits b.h0 27 8 + 1

/-- Sum of the halfwords of a 64-bit word. -/
def halfSum (n : Nat) : Nat := bits n 0 16 + bits n 16 16 + bits n 32 16 + bits n 48 16

/-- The Header check of Table 10.15, within the block. -/
def RawBlock.headerOk (b : RawBlock) : Bool :=
  bits b.h0 0 8 == 1 && bits b.h0 45 19 == 0 && bits b.h1 0 48 == 0
    && (halfSum b.h0 + halfSum b.h1 + b.words.foldl (fun n w => n + halfSum w.toNat) 0) % 65536 == 0

/-- The word is a MATCH word. -/
def isMatch (w : W64) : Bool := bits w.toNat 55 9 == 1

/-- The entry of the table of a raw block. -/
def RawBlock.matchWord (b : RawBlock) (n : Nat) : Option W64 := (matchAt b.words 0 n).map (fun p => p.2)

/-- Entry `n` exists and its mode, as its bits name it, accepts a port. -/
def RawBlock.accepts (b : RawBlock) (n port : Nat) : Bool :=
  match b.matchWord n with
  | some w =>
    (match bits w.toNat 12 3 with
      | 0 | 2 => decide (port < 3)
      | 1 | 3 => decide (port < 2)
      | _ => false)
  | none => false

/-- The Targets check of Table 10.15. -/
def targetsOk (blocks : List RawBlock) (b : RawBlock) (i : Instr) : Bool :=
  let named (w : SWord) (next : Bool) : Bool :=
    match blocks.find? (fun x => x.id == w.tblk.toNat) with
    | some x => x.accepts w.tent.toNat w.tport.code && (!next || (x.matchWord (w.tent.toNat + 1)).isSome)
    | none => false
  match i.form with
  | some (_, .s w) =>
    (match i with
      | .steer _ => named w true
      | .steal _ => w.tblk.toNat == b.id && named w false
      | _ => named w false)
  | some (_, .m w) => b.accepts w.cent.toNat w.cport.code
  | some (_, .t w) => b.accepts w.cent.toNat w.cport.code
  | _ => true

/-- What a word charges (Table 6.3): sends, requests, and the slots that it writes; an STF writes one of its own. -/
structure Charge where
  sends : Nat := 0
  requests : Nat := 0
  slots : List Nat := []
  computed : Nat := 0

/-- The slot that a destination names. -/
def Spec.slots : Spec → List Nat
  | .slot i => [i.val]
  | _ => []

/-- The charge of an instruction. -/
def chargeOf (i : Instr) : Charge :=
  match i with
  | .send2 _ => { sends := 2 }
  | .send _ | .sendx _ | .steer _ | .merge _ | .steal _ => { sends := 1 }
  | .rsplit w => { sends := 1, slots := Spec.slots w.d }
  | .stf _ => { computed := 1 }
  | .cntrd _ => {}
  | .ffree _ | .cancel _ | .gdone _ | .perfSet _ | .flagsSet _ | .flagsJoin _ => { requests := 1 }
  | _ =>
    match i.form with
    | some (_, .m _) | some (_, .t _) => { requests := 1 }
    | some (_, .r w) => { slots := Spec.slots w.d }
    | some (_, .i w) => { slots := Spec.slots w.d }
    | _ => {}

/-- The words of a body: up to the next MATCH word. -/
def bodyOf : List W64 → List W64
  | [] => []
  | w :: ws => if isMatch w then [] else w :: bodyOf ws

/-- The Charges check of a body. -/
def chargesOk (ws : List W64) : Bool :=
  let cs : List Charge := ws.map (fun w => match decode w with | .ok i => chargeOf i | .error _ => {})
  let sends := cs.foldl (fun (n : Nat) (c : Charge) => n + c.sends) 0
  let requests := cs.foldl (fun (n : Nat) (c : Charge) => n + c.requests) 0
  let slots := (cs.flatMap (fun (c : Charge) => c.slots)).eraseDups.length + cs.foldl (fun (n : Nat) (c : Charge) => n + c.computed) 0
  decide (sends ≤ 16) && decide (requests ≤ 16) && decide (slots ≤ 32)

/-- The checks that name word `i` of a block: `rest` are the words after it, and `first` says that it begins a body. -/
def wordOk (blocks : List RawBlock) (b : RawBlock) (first : Bool) (i : Nat) (w : W64) (rest : List W64) : Bool :=
  let closes := match rest with | [] => true | x :: _ => isMatch x
  if isMatch w then
    match decodeMatch w with
    | .ok e => !closes && decide (e.slot + e.mode.span ≤ b.fsize)
    | .error _ => false
  else
    match decode w with
    | .error _ => false
    | .ok ins =>
      i != 0 && isWellFormed b.fsize ins && targetsOk blocks b ins && bitAt w.toNat 54 == closes
        && (!first || chargesOk (bodyOf (w :: rest)))

/-- Index of the first failing word. -/
def firstBad (blocks : List RawBlock) (b : RawBlock) : List W64 → Bool → Nat → Option Nat
  | [], _, _ => none
  | w :: ws, first, i => if wordOk blocks b first i w ws then firstBad blocks b ws (isMatch w) (i + 1) else some i

/-- Formats that an instruction's fields name. -/
def formatsNamed (i : Instr) : List Nat :=
  match i with
  | .tld w | .tst w | .tldi w | .tsti w => [bits w.mflg.toNat 0 6]
  | .tpwp w | .tlut w => [w.fa.toNat, w.fc.toNat]
  | _ =>
    match i.form with
    | some (_, .t w) => [w.fa.toNat, w.fb.toNat, w.fc.toNat]
    | _ => []

/-- Index of the first word that names a format outside proof service (R37). -/
def firstOutside (ws : List W64) : Option Nat :=
  (ws.zipIdx.find? (fun p => match decode p.1 with | .ok i => (formatsNamed i).any (fun f => !fmtProof f) | .error _ => false)).map
    (fun p => p.2)

/-- Block id and word index of the first failure of the blocks in ascending id: what BAD_BLOCK reports (R265). -/
def blocksFail (blocks : List RawBlock) : Option (Nat × Nat) :=
  let dup (n : Nat) : Bool := (blocks.filter (fun b => b.id == n)).length != 1
  blocks.findSome? (fun b =>
    if !b.headerOk || dup b.id then some (b.id, 0xFFFFFFFF) else (firstBad blocks b b.words false 0).map (fun i => (b.id, i)))

/-- The same for the Service check. -/
def serviceFail (blocks : List RawBlock) : Option (Nat × Nat) :=
  blocks.findSome? (fun b => (firstOutside b.words).map (fun i => (b.id, i)))

/-! ## The image (R273 to R277) -/

/-- The fields of the image header (Table 10.18). -/
structure ImageHeader where
  cores : Nat
  nblk : Nat
  npr : Nat
  boff : Nat
  blen : Nat
  poff : Nat
  doff : Nat
  dlen : Nat
  foff : Nat
  fabric : Bool
  bytes : Nat
  deriving DecidableEq, Repr

/-- The header's fields. -/
def imageHeader (h : List Byte) : ImageHeader where
  cores := recNat h 0x08 2
  nblk := recNat h 0x0A 2
  npr := recNat h 0x0C 4
  boff := recNat h 0x10 4
  blen := recNat h 0x14 4
  poff := recNat h 0x18 4
  doff := recNat h 0x1C 4
  dlen := recNat h 0x20 4
  foff := recNat h 0x24 4
  fabric := bitAt (recNat h 0x06 2) 0
  bytes := recNat h 0x28 4

/-- Two spans share no byte. -/
def apart (a n b m : Nat) : Bool := n == 0 || m == 0 || decide (a + n ≤ b) || decide (b + m ≤ a)

/-- The name is ASCII, padded with zeros. -/
def nameOk (bs : List Byte) : Bool :=
  let used := bs.takeWhile (· != 0)
  used.all (fun b => decide (b.toNat < 128)) && (bs.drop used.length).all (· == 0)

/-- Offsets of the failing fields of a header, whose command names `size` bytes (R273, R277), ascending. An overlap of two sections is a failure of
the later one's offset field, and a section that leaves the image one of its length field, or of its offset field where it has no length of its own;
R277 names no field for either (the model's choice, log entry 75). -/
def headerFails (h : List Byte) (size : Nat) : List Nat :=
  let x := imageHeader h
  let pl := 32 * x.npr
  let checks : List (Nat × Bool) :=
    [ (0x00, recNat h 0 4 == 0x43414C47),
      (0x04, recNat h 4 2 == 1),
      (0x06, decide (recNat h 6 2 < 2)),
      (0x08, decide (1 ≤ x.cores) && decide (x.cores ≤ 64)),
      (0x0A, decide (1 ≤ x.nblk) && decide (x.nblk ≤ 4096)),
      (0x0C, decide (x.npr ≤ 65536)),
      (0x10, x.boff % 16 == 0 && decide (0x40 ≤ x.boff)),
      (0x14, x.blen % 16 == 0 && decide (x.boff + x.blen ≤ x.bytes)),
      (0x18, x.poff % 16 == 0 && (x.npr == 0 || (decide (0x40 ≤ x.poff) && decide (x.poff + pl ≤ x.bytes)
        && apart x.boff x.blen x.poff pl))),
      (0x1C, x.doff % 16 == 0 && (if x.dlen = 0 then x.doff == x.bytes else x.doff % 4096 == 0 && decide (0x40 ≤ x.doff)
        && apart x.boff x.blen x.doff x.dlen && apart x.poff pl x.doff x.dlen)),
      (0x20, decide (x.doff + x.dlen ≤ x.bytes)),
      (0x24, if x.fabric then x.foff % 16 == 0 && decide (0x40 ≤ x.foff) && decide (x.foff + 16 ≤ x.bytes) else x.foff == 0),
      (0x28, x.bytes == size),
      (0x2C, recZero h 0x2C 4),
      (0x30, nameOk ((h.drop 0x30).take 16)) ]
  (checks.filter (fun p => !p.2)).map (fun p => p.1)

/-- Offset of a header's first failing field. -/
def headerFail (h : List Byte) (size : Nat) : Option Nat := (headerFails h size).head?

/-- Bytes of a fabric section with this many peers (R276). -/
def fabricLen (peers : Nat) : Nat := roundUp (8 + 2 * peers) 16

/-- Offset of the first failing field of a fabric section. -/
def fabricFail (x : ImageHeader) (f : List Byte) : Option Nat :=
  let n := recNat f 4 2
  let len := fabricLen n
  let short := n == 0 || decide (1023 < n)
  if !short && (decide (x.bytes < x.foff + len) || !apart x.boff x.blen x.foff len || !apart x.poff (32 * x.npr) x.foff len
      || !apart x.doff x.dlen x.foff len) then some 0x24
  else if short then some (x.foff + 4)
  else if !recZero f 6 2 then some (x.foff + 6)
  else
    match (List.range n).find? (fun k => decide (1023 < recNat f (8 + 2 * k) 2)) with
    | some k => some (x.foff + 8 + 2 * k)
    | none => if recZero f (8 + 2 * n) (len - (8 + 2 * n)) then none else some (x.foff + 8 + 2 * n)

/-- 64-bit words from bytes. -/
def codeOf (bs : List Byte) : Nat → List W64
  | 0 => []
  | n + 1 => BitVec.ofNat 64 (recNat bs 0 8) :: codeOf (bs.drop 8) n

/-- The blocks of a block area whose next byte lies at `pos`, each with the offset of padding of its own that is not zero, and the header
field that does not fit them (R274): bytes left after the last block are a wrong block count, and a block that passes the area's end is a
wrong area length. R277 names no field for either (the model's choice, log entry 75). -/
def readBlocks : Nat → Nat → List Byte → List (RawBlock × Option Nat) × Option Nat
  | _, _, [] => ([], none)
  | 0, _, _ => ([], some 0x0A)
  | n + 1, pos, bs =>
    let n0 := lenOf (recNat bs 0 8)
    let size := 16 + 8 * n0
    let padded := roundUp size 16
    if bs.length < padded then ([], some 0x14)
    else
      let b : RawBlock := { h0 := recNat bs 0 8, h1 := recNat bs 8 8, words := codeOf (bs.drop 16) n0 }
      let (rest, e) := readBlocks n (pos + padded) (bs.drop padded)
      ((b, if recZero bs size (padded - size) then none else some (pos + size)) :: rest, e)

/-- The block ids rise. -/
def idsRise : List RawBlock → Bool
  | a :: b :: rest => decide (a.id ≤ b.id) && idsRise (b :: rest)
  | _ => true

/-- The lowest of offsets. -/
def lowest : List Nat → Option Nat
  | [] => none
  | o :: os => some (os.foldl min o)

/-- The blocks of an area, all of them and in order, or the lowest failing offset. Fewer blocks than the header counts fail its block count,
and ids out of order the area's offset field: R277 names no field for either (the model's choice, log entry 75). -/
def areaBlocks (x : ImageHeader) (bs : List Byte) : Except Nat (List RawBlock) :=
  let (found, e) := readBlocks x.nblk x.boff bs
  let blocks := found.map (·.1)
  let short := if e.isNone && blocks.length != x.nblk then [0x0A] else []
  let order := if idsRise blocks then [] else [0x10]
  match lowest (e.toList ++ short ++ order ++ found.filterMap (·.2)) with
  | some o => .error o
  | none => .ok blocks

/-- Offset of the first failing field of the fabric section and the block area, as far as they could be read. -/
def layoutFail (x : ImageHeader) (fabric area : Option (List Byte)) : Option Nat :=
  let f := match fabric with | some bs => if x.fabric then (fabricFail x bs).toList else [] | none => []
  let a := match area with
    | some bs => (match areaBlocks x bs with | .error o => [o] | .ok _ => [])
    | none => []
  lowest (f ++ a)

/-- A prime record (Table 10.19). -/
def primeOf (r : List Byte) : Prime where
  block := recNat r 0 2
  entry := recNat r 2 1
  port := recNat r 3 1
  gcore := recNat r 4 2
  kind := recNat r 6 1
  type := recNat r 7 1
  tag := BitVec.ofNat 32 (recNat r 8 4)
  dim := recNat r 0x0C 1
  value := BitVec.ofNat 64 (recNat r 0x10 8)

/-- A prime record passes R277. -/
def primeOk (blocks : List RawBlock) (cores : Nat) (r : List Byte) : Bool :=
  let p := primeOf r
  let target := match blocks.find? (fun b => b.id == p.block) with
    | some b => decide (p.port < 3) && b.accepts p.entry p.port
    | none => false
  let kind := match p.kind with
    | 0 => decide (p.type ≤ 15)
    | 1 | 3 => p.type == 11
    | 2 => p.type == 3
    | _ => false
  target && decide (p.gcore < cores) && kind && decide (p.dim ≤ 7) && p.dim != 6 && recZero r 0x0D 3 && recZero r 0x18 8
    && (p.kind == 0 || p.kind == 3 || p.value == 0)

/-- The records of a prime table. -/
def primeRecords (bs : List Byte) : Nat → List (List Byte)
  | 0 => []
  | n + 1 => bs.take 32 :: primeRecords (bs.drop 32) n

/-! ## Loading (R105, R106) -/

/-- Words of a core's instruction memory in use: two header words and its code for each block. -/
def Core.codeWords (k : Core) : Nat := k.blocks.foldl (fun n (_, b) => n + b.code.length + 2) 0

/-- Words of each core's instruction memory. -/
def codeMemory : Nat := 65536

/-- Words that blocks take. -/
def rawWords (blocks : List RawBlock) : Nat := blocks.foldl (fun n b => n + b.words.length + 2) 0

/-- R106: a block id is held by another job on a target core, or belongs to a graph of the job with an instance that has
not ended. -/
def State.loadBusy (s : State) (j : Nat) (x : Job) (blocks : List RawBlock) : Bool :=
  let ids := blocks.map RawBlock.id
  let foreign := x.cores.any (fun c => (s.core c).blocks.any (fun (n, b) => ids.contains n && b.job != j))
  let running := x.graphs.any (fun (g, y) => y.blocks.any (fun b => ids.contains b)
    && x.insts.any (fun (_, v) => v.graph == g && v.st != .ended))
  foreign || running

/-- The block-table entry of a block of a graph. -/
def RawBlock.entry (b : RawBlock) (j g : Nat) : Block where
  job := j
  graph := some g
  checksum := BitVec.ofNat 16 (bits b.h1 48 16)
  code := b.words
  fsize := b.fsize
  limit := bits b.h0 35 8
  gather := bitAt b.h0 43
  reent := bitAt b.h0 44

/-- The flip on one core: entries of the retired graphs belong to no graph any more, and the new entries stand. -/
def Core.flip (k : Core) (j g : Nat) (retired : List Nat) (blocks : List RawBlock) : Core :=
  let ids := blocks.map RawBlock.id
  let kept := k.blocks.map (fun (n, b) =>
    if b.job = j && (match b.graph with | some h => retired.contains h | none => false) then (n, { b with graph := none }) else (n, b))
  { k with
    blocks := blocks.foldl (fun t b => Table.put t b.id (b.entry j g)) kept
    badWords := k.badWords.filter (fun p => !ids.contains p.1) }

/-- The graph id that a load takes: ids rise from 1 in 16 bits. Past 0xFFFF they begin again at 1, and pass over those in use (the
model's choice, log entry 87). -/
def Job.freeGraph (x : Job) : Nat → Nat → Nat
  | 0, g => g
  | n + 1, g => if (Table.find x.graphs g).isSome then Job.freeGraph x n (g % 0xFFFF + 1) else g

/-- The id of the next graph. -/
def Job.graphId (x : Job) : Nat := x.freeGraph x.graphs.length x.nextGraph

/-- The graph of an image takes the next id, and the graphs whose block ids it replaces are retired. -/
def State.flip (s : State) (j : Nat) (x : Job) (va : Nat) (h : ImageHeader) (fabric : Option (Nat × List Nat))
    (blocks : List RawBlock) (primes : List Prime) : State :=
  let ids := blocks.map RawBlock.id
  let g := x.graphId
  let retired := (x.graphs.filter (fun (_, y) => y.blocks.any (fun b => ids.contains b))).map (fun p => p.1)
  let s1 := x.cores.foldl (fun t c => t.onCore c (fun k => k.flip j g retired blocks)) s
  let graph : Graph := { cores := h.cores, blocks := ids, primes := primes, image := va, dataOff := h.doff, fabric := fabric }
  s1.onJob j (fun y => { y with
    nextGraph := g % 0xFFFF + 1
    graphs := Table.put (y.graphs.filter (fun p => !retired.contains p.1)) g graph })

/-! ## Reading the image -/

/-- Read a part of the image: none for one that cannot be read; the state alone while another device, or a port of the host, is
waited for. -/
def State.imagePart (s : State) (o : List Nat) (j va n : Nat) : Except State (State × Option (List Byte)) :=
  match s.vread o none j va n with
  | (t, .wait) => .error t
  | (t, .data bs) => .ok (t, some bs)
  | (t, _) => .ok (t, none)

/-- What follows the header of an image: its fabric section, its block area and its prime table; none for what cannot be read. -/
structure ImageParts where
  fabric : Option (List Byte)
  area : Option (List Byte)
  table : Option (List Byte)

/-- Read the fabric section, if the image has one. -/
def State.readFabric (s : State) (o : List Nat) (j va : Nat) (x : ImageHeader) : Except State (State × Option (List Byte)) :=
  if !x.fabric then .ok (s, some [])
  else do
    let (t, f) ← s.imagePart o j (va + x.foff) 16
    match f with
    | none => .ok (t, none)
    | some bs =>
      let n := recNat bs 4 2
      if n = 0 || decide (1023 < n) then .ok (t, some bs)
      else t.imagePart o j (va + x.foff) (min (fabricLen n) (x.bytes - x.foff))

/-- Read the sections of an image. -/
def State.readParts (s : State) (o : List Nat) (j va : Nat) (x : ImageHeader) : Except State (State × ImageParts) := do
  let (s1, f) ← s.readFabric o j va x
  let (s2, a) ← s1.imagePart o j (va + x.boff) x.blen
  let (s3, t) ← s2.imagePart o j (va + x.poff) (32 * x.npr)
  .ok (s3, ⟨f, a, t⟩)

/-- A header fails at the offsets `o :: os`: where its section fields let the fabric section and the block area be read, a field that these fail
may lie before (R277). -/
def State.firstFail (s : State) (own : List Nat) (j va : Nat) (x : ImageHeader) (fails : List Nat) (o : Nat) : Except State (State × Nat) :=
  let sound (fields : List Nat) : Bool := fields.all (fun n => !fails.contains n)
  if o ≤ 0x0A then .ok (s, o)
  else do
    let (s1, f) ← (if sound [0x24] && decide (0x24 < o) then s.readFabric own j va x else .ok (s, none))
    let (s2, a) ← (if sound [0x0A, 0x10, 0x14] then s1.imagePart own j (va + x.boff) x.blen else .ok (s1, none))
    .ok (s2, match layoutFail x f a with | some n => min n o | none => o)

/-! ## The verdict (R105, R265, R277) -/

/-- How a load ended: it waits for another device, was refused with a status and two results, or has flipped. -/
inductive Loaded where
  | wait (s : State)
  | refused (s : State) (status r0 r1 : Nat)
  | done (s : State) (graph : Nat)

/-- The fabric tag and the peers of a fabric section. -/
def fabricOf (x : ImageHeader) (f : List Byte) : Option (Nat × List Nat) :=
  if x.fabric then some (recNat f 0 4, (List.range (recNat f 4 2)).map (fun k => recNat f (8 + 2 * k) 2)) else none

/-- BAD_BLOCK: results 0 and 1 of the first failure of what could be read, in the order of R265 and R277. -/
def badBlock (x : ImageHeader) (p : ImageParts) : Option (Nat × Nat) :=
  match layoutFail x p.fabric p.area with
  | some o => some (0xFFFFFFFF, o)
  | none =>
    match p.area with
    | none => none
    | some a =>
      match areaBlocks x a with
      | .error o => some (0xFFFFFFFF, o)
      | .ok blocks =>
        (blocksFail blocks).or (match p.table with
          | none => none
          | some t => (((primeRecords t x.npr).zipIdx).find? (fun r => !primeOk blocks x.cores r.1)).map (fun r => (0xFFFFFFFE, r.2)))

/-- SERVICE_LIMIT in proof service (R37): a format outside its set, or the use of Yilyel that a fabric section is, which no block and
no word names (log entry 87). -/
def serviceBad (x : ImageHeader) (blocks : List RawBlock) : Option (Nat × Nat) :=
  (serviceFail blocks).or (if x.fabric then some (0xFFFFFFFF, 0x24) else none)

/-- The failures of a load whose header has passed, in the order BAD_BLOCK, SERVICE_LIMIT, NO_SPACE, LOAD_FAULT (R105), with BUSY
(R106) ahead of NO_SPACE; none where it can flip. -/
def State.loadFails (s : State) (j : Nat) (x : ImageHeader) (p : ImageParts) (blocks : List RawBlock) : Option (Nat × Nat × Nat) :=
  match badBlock x p with
  | some (a, b) => some (6, a, b)
  | none =>
    match (if s.proof then serviceBad x blocks else none) with
    | some (a, b) => some (5, a, b)
    | none =>
      if s.loadBusy j (s.job j) blocks then some (4, 0, 0)
      else if (s.job j).cores.any (fun c => decide (codeMemory < (s.core c).codeWords + rawWords blocks)) then some (8, 0, 0)
      else if p.fabric.isNone || p.area.isNone || p.table.isNone then some (7, 0, 0)
      else none

/-- CODE.LOAD of an image of `size` bytes at `va` for job `j`. -/
def State.load (s : State) (o : List Nat) (j va size : Nat) : Loaded :=
  match s.imagePart o j va 0x40 with
  | .error t => .wait t
  | .ok (s1, none) => .refused s1 7 0 0
  | .ok (s1, some hb) =>
    match headerFail hb size with
    | some n =>
      (match s1.firstFail o j va (imageHeader hb) (headerFails hb size) n with
        | .error t => .wait t
        | .ok (t, m) => .refused t 6 0xFFFFFFFF m)
    | none =>
      let h := imageHeader hb
      if (s.job j).cores.length < h.cores then .refused s1 2 0 0
      else
        match s1.readParts o j va h with
        | .error t => .wait t
        | .ok (s2, p) =>
          let blocks := match areaBlocks h (p.area.getD []) with | .ok ls => ls | .error _ => []
          match s2.loadFails j h p blocks with
          | some (st, r0, r1) => .refused s2 st r0 r1
          | none =>
            .done (s2.flip j (s.job j) va h (fabricOf h (p.fabric.getD [])) blocks
              ((primeRecords (p.table.getD []) h.npr).map primeOf)) (s.job j).graphId

end Sys2Proof.Machine
end

