-- ==== Sys2Proof/Machine/Patches.lean ====
section
/-! DEFINITION. The patch lists of GRAPH.START and GRAPH.BATCH (R62, R63). -/

namespace Sys2Proof.Machine

/-- A binary operation of Table 3.10 on `a` and `b`; none where its evaluation fails. -/
def binaryItem (kind a b : Nat) : Option Nat :=
  match kind with
  | 4 => if a + b < 2 ^ 64 then some (a + b) else none
  | 5 => if b ≤ a then some (a - b) else none
  | 6 => if a * b < 2 ^ 64 then some (a * b) else none
  | 7 => if b = 0 then none else some (a / b)
  | 8 => if b = 0 then none else some (cdiv a b)
  | 9 => some (min a b)
  | 10 => some (max a b)
  | 11 => if 63 < b then none else some (a * 2 ^ b % 2 ^ 64)
  | 12 => if 63 < b then none else some (a / 2 ^ b)
  | 13 => some (a &&& b)
  | _ => none

/-- The value that a push item pushes, and whether its unused bits are zero. -/
def pushItem (sv : List W64) (consts : List Nat) (item : Nat) : Option Nat :=
  match bits item 12 4 with
  | 1 => if bits item 5 7 = 0 then some (sv.getD (bits item 0 5) 0).toNat else none
  | 2 => some (bits item 0 12)
  | 3 => if bits item 2 10 = 0 then some (consts.getD (bits item 0 2) 0) else none
  | _ => none

/-- Evaluate items: the stack, and the operations so far. The value where an END finds one value. -/
def evalItems (sv : List W64) (consts : List Nat) : List Nat → List Nat → Nat → Option Nat
  | [], _, _ => none
  | item :: rest, stack, ops =>
    let kind := bits item 12 4
    if kind = 0 then
      (if bits item 0 12 = 0 then (match stack with | [v] => some v | _ => none) else none)
    else if kind ≤ 3 then
      match pushItem sv consts item with
      | some v => if stack.length < 8 then evalItems sv consts rest (v :: stack) ops else none
      | none => none
    else if bits item 0 12 ≠ 0 || decide (16 ≤ ops) then none
    else
      match stack with
      | b :: a :: below =>
        (match binaryItem kind a b with
          | some v => evalItems sv consts rest (v :: below) (ops + 1)
          | none => none)
      | _ => none

/-- A patch that passed the first pass: target, width, value. -/
structure Patch where
  target : Nat
  width : Nat
  value : Nat
  deriving DecidableEq, Repr

/-- The checks of one record that has been read, in the order of R62: BAD_ARG 2, EXPR 11, or the patch. R62 gives a record whose reserved bytes
are not zero no status: BAD_ARG is the model's choice (log entry 93). -/
def patchOf (sv : List W64) (r : List Byte) : Except Nat Patch :=
  let target := recNat r 0 8
  let width := recNat r 8 1
  if (width != 4 && width != 8) || target % width != 0 || !recZero r 9 7 then .error 2
  else
    match evalItems sv ((List.range 4).map (fun k => recNat r (0x10 + 8 * k) 8)) ((List.range 40).map (fun k => recNat r (0x30 + 2 * k) 2)) [] 0 with
    | some v => if v < 2 ^ (8 * width) then .ok ⟨target, width, v⟩ else .error 11
    | none => .error 11

/-- How a pass over a patch list ended: it waits for another device or a port of the host, failed with a status at an index, or is
done. -/
inductive Patching where
  | wait (s : State)
  | failed (s : State) (status index : Nat)
  | done (s : State) (ps : List Patch)

/-- The first pass: every record read and checked, under the shape variables of the command's acceptance, or the status and the index
of the first that fails. -/
def State.readPatches (s : State) (o : List Nat) (sv : List W64) (j va : Nat) : Nat → Nat → Patching
  | 0, _ => .done s []
  | n + 1, i =>
    match s.vread o none j (va + 128 * i) 128 with
    | (t, .wait) => .wait t
    | (s1, .data r) =>
      (match patchOf sv r with
        | .error st => .failed s1 st i
        | .ok p =>
          match State.readPatches s1 o sv j va n (i + 1) with
          | .done s2 ps => .done s2 (p :: ps)
          | e => e)
    | (s1, _) => .failed s1 12 i

/-- The second pass: the values are written in order, each once the one before it is performed. `keep` notes what is still to be written
where a write waits; a write that faults ends it with its index. -/
def State.writePatches (s : State) (o : List Nat) (j : Nat) (keep : State → List Patch → State) : List Patch → Nat → Patching
  | [], _ => .done s []
  | p :: ps, i =>
    match s.vwrite o none j p.target (natLe p.width p.value) with
    | (t, .wait) => .wait (keep t (p :: ps))
    | (s1, .data _) => State.writePatches (s1.dropOwner o) o j keep ps (i + 1)
    | (s1, _) => .failed s1 12 i

end Sys2Proof.Machine
end

