-- ==== Sys2Proof/Machine/Commands.lean ====
section
/-! DEFINITION. The command processor (R54 to R63): acceptance, the order of commands, and the commands that complete at
once. Those that halt, save or place jobs stand in `Saving` and `Placing`, and CKPT and RESTORE in `Attic`. -/

namespace Sys2Proof.Machine

/-! ## Records (R58, Table 3.7) -/

/-- A field of a command's record. -/
def Cmd.field (c : Cmd) (o n : Nat) : Nat := recNat c.bytes o n

/-- The job that a command names. -/
def Cmd.job (c : Cmd) : Nat := c.field 8 1

/-- The device-wide commands: FLOOR.ALLOC, FLOOR.FREE, CKPT and RESTORE. -/
def deviceWide (op : Nat) : Bool := op == 0x0D || op == 0x0E || op == 0x13 || op == 0x14

/-- Payload bytes that a command lists: offset and length. -/
def payloadOf (op : Nat) : List (Nat × Nat) :=
  match op with
  | 0x01 => [(0x10, 30), (0x30, 13), (0x40, 12), (0x50, 8)]
  | 0x04 => [(0x10, 24)]
  | 0x05 => [(0x10, 5)]
  | 0x06 => [(0x10, 1), (0x12, 2), (0x14, 4)]
  | 0x07 => [(0x10, 12)]
  | 0x08 => [(0x10, 4), (0x18, 18), (0x30, 32)]
  | 0x09 => [(0x10, 4), (0x18, 26), (0x38, 32)]
  | 0x0A => [(0x10, 3)]
  | 0x0B => [(0x10, 4), (0x18, 96)]
  | 0x0C => [(0x10, 16)]
  | 0x0D | 0x0E => [(0x10, 1), (0x12, 2)]
  | 0x0F => [(0x10, 9)]
  | 0x10 => [(0x10, 1), (0x18, 12)]
  | 0x12 => [(0x10, 3)]
  | 0x13 => [(0x10, 17)]
  | 0x14 => [(0x10, 16)]
  | _ => []

/-- Every byte of the payload that its command does not list is zero. -/
def payloadClear (op : Nat) (bytes : List Byte) : Bool :=
  let listed (i : Nat) : Bool := (payloadOf op).any (fun p => decide (p.1 ≤ i) && decide (i < p.1 + p.2))
  (upFrom 0x10 0x70).all (fun i => listed i || recNat bytes i 1 == 0)

/-- The record keeps the rules of Table 3.6. -/
def Cmd.wellFormed (c : Cmd) : Bool :=
  c.op != 0 && decide (c.op ≤ 0x14) && decide (c.field 1 1 < 2) && recZero c.bytes 2 2 && recZero c.bytes 9 7
    && (deviceWide c.op || decide (c.job < 64)) && payloadClear c.op c.bytes

/-! ## Acceptance (R55, R56) -/

/-- The commands that the other queues have accepted. -/
def State.otherCmds (s : State) (q : Nat) : List Cmd := (List.range 16).filterMap (fun p => if p = q then none else (s.queue p).cur)

/-- An earlier command holds this one back: CKPT and RESTORE do, and so does one of the same job. -/
def Cmd.holds (d c : Cmd) : Bool :=
  d.op == 0x13 || d.op == 0x14 || (!deviceWide d.op && !deviceWide c.op && d.job == c.job && decide (d.order < c.order))

/-- A queue can accept its next record. Where a valid `PROD` is written before `QERR` is cleared, the clearing restarts the queue: R55
names the clearing and then the write (the model's choice, log entry 89). -/
def Queue.accepts (x : Queue) : Bool :=
  x.en && !x.qerr && x.prod != x.cons && decide ((x.prod - x.cons).toNat ≤ x.entries) && x.cur.isNone && x.posting.isNone
    && decide ((x.cprod - x.ccons).toNat < x.entries)

/-- A queue's record is asked of another device. -/
def State.fetchWaits (s : State) (q : Nat) : Bool := s.fabric.any (fun f => f.owner == fetchOwner q && f.answer.isNone)

/-- The queue that is served next: the first that can accept after the one last accepted from. -/
def State.nextQueue (s : State) : Option Nat :=
  ((List.range 16).map (fun i => (s.host.lastQueue + 1 + i) % 16)).find? (fun q => (s.queue q).accepts && !s.fetchWaits q)

/-- Fetch the record at a queue's consumer index. -/
def State.fetchRecord (s : State) (q : Nat) (fetched : Bool) : State × RingGot :=
  let x := s.queue q
  if fetched then s.busRead q x.qbase (x.cons.toNat % x.entries * 128) 128 else (s.dropOwner (fetchOwner q), .failed)

/-- The instances that a predecessor mask names: those that hold its slots now, with the end status of one that has ended while its
INSTANCE_END waits (R96). -/
def Job.named (x : Job) (mask : Nat) : List (Nat × Option Nat) :=
  (x.insts.filter (fun p => bitAt mask p.1)).map (fun p => (p.1, if p.2.st == .ended then some p.2.status else none))

/-- What a command takes with it at acceptance: the time base (R101); GRAPH.START and GRAPH.BATCH the shape variables (R62) and the
instances that their mask names (R96). One for a job that is CANCELLING completes with CANCELLED (R93), and so it does once that job is
FREE; a FAULT.RESOLVE completes with BAD_ARG then (R90), and a JOB.OPEN opens the job (the model's choice, log entry 93). -/
def State.accepted (s : State) (c : Cmd) : Cmd :=
  match s.job? c.job with
  | some x =>
    if deviceWide c.op then { c with time := s.time.toNat }
    else
      { c with
        time := s.time.toNat
        cancelled := x.st == .cancelling && c.op != 1 && c.op != 0x0F
        svars := if c.op = 8 || c.op = 9 then some x.sv else none
        named := if c.op = 8 then x.named (c.field 0x30 32) else if c.op = 9 then x.named (c.field 0x38 32) else [] }
  | none => { c with time := s.time.toNat }

/-- Accept one record, once the fetch of one that lies in another device's memory has been answered. -/
def State.acceptFrom (s : State) (q : Nat) (fetched : Bool) : State :=
  let x := s.queue q
  let (s1, got) := s.fetchRecord q fetched
  let (s2, order) := s1.fresh
  let take (t : State) (bytes : List Byte) : State :=
    let c := t.accepted { bytes := bytes, index := x.cons, order := order }
    let t1 := t.setQueue q { x with cons := x.cons + 1, cur := some c }
    { t1 with host := { t1.host with lastQueue := q } }
  match got with
  | .waits => s1
  | .failed =>
    let t : State := { s2 with draws := s2.draws + 128 }
    (take t ((List.range 128).map (fun i => Config.freeByte (s2.draws + i)))).complete q 0x13 0 0
  | .bytes bytes =>
    let t := take s2 bytes
    if Cmd.wellFormed { bytes := bytes, index := x.cons } then t else t.complete q 1 0 0

/-- COMMAND_ACCEPT: CKPT and RESTORE keep every other command out while they are under way (R44, R56). -/
def execCommandAccept (fetched : Bool) (s : State) : Host.Outcome State Fault Refusal :=
  s.powered (fun t =>
    if !t.serving || t.exclusive then t
    else
      match t.nextQueue with
      | some q => t.acceptFrom q fetched
      | none => t)

/-! ## Order (R56) and job states (Table 5.1) -/

/-- The command of queue `q`, if it has this opcode and nothing holds it back. -/
def State.turn (s : State) (q op : Nat) : Option Cmd :=
  match (s.queue q).cur with
  | some c => if c.op == op && s.serving && !(s.otherCmds q).any (fun d => d.holds c) then some c else none
  | none => none

/-- Change the command of a queue. -/
def State.onCmd (s : State) (q : Nat) (f : Cmd → Cmd) : State :=
  let x := s.queue q
  match x.cur with
  | some c => s.setQueue q { x with cur := some (f c) }
  | none => s

/-- The command has begun, and waits for the saves of these jobs. -/
def State.begin (s : State) (q : Nat) (jobs : List Nat) : State := s.onCmd q (fun c => { c with begun := true, waits := jobs })

/-- What a job's state makes of a command. -/
inductive Gate where
  | run
  | wait
  | answer (status : Nat)
  deriving DecidableEq, Repr

/-- Table 5.1, for a job that is not FREE. -/
def Job.gate (x : Job) (op : Nat) : Gate :=
  match x.st with
  | .cancelling => .answer 0x12
  | .preempting => .wait
  | .opened => if op = 0x12 then .answer 4 else .run
  | .closing => if op = 0x12 then .answer 4 else if op = 8 || op = 9 || op = 0x0A then .answer 3 else .run
  | .preempted =>
    if [2, 3, 4, 6, 0x0B, 0x0F, 0x10, 0x12].contains op then .run
    else if (op = 8 || op = 9 || op = 0x0A) && !x.wasClosing then .run
    else .answer 4

/-- A fault id that has been raised. -/
def State.faultRaised (s : State) (c : Cmd) : Bool :=
  let id := c.field 0x10 8
  bits id 58 6 == c.job && bits id 48 8 == 0 && decide (bits id 0 48 < Table.getD s.faultSeq (bits id 56 2) 0)

/-- The job of a command is FREE: BAD_JOB, or CANCELLED where the job was cancelled while the command waited (R59). A FAULT.RESOLVE for
a fault of a job that was cancelled, whose faults are discarded, completes with BAD_ARG (R90, log entry 89). -/
def State.noJob (s : State) (q : Nat) (c : Cmd) : State :=
  s.complete q (if c.cancelled then 0x12 else if c.op = 0x0F && s.faultRaised c then 2 else 3) 0 0

/-- The status with which Table 5.1 answers a command. A FAULT.RESOLVE that was accepted once its job was CANCELLING completes with
BAD_ARG: the job's faults are discarded (R90, log entry 89). -/
def Cmd.answerIn (c : Cmd) (x : Job) (st : Nat) : Nat := if c.op = 0x0F && x.st == .cancelling && !c.cancelled then 2 else st

/-- A command for a job takes effect, once it has its turn and the job's state lets it. A job whose end is reached stays in CLOSING or
in CANCELLING until JOB_END is written (Table 5.1). -/
def State.jobTurn (s : State) (q op : Nat) (f : State → Cmd → Job → State) : State :=
  match s.turn q op with
  | none => s
  | some c =>
    match s.job? c.job with
    | none => s.noJob q c
    | some x =>
      match x.gate op with
      | .answer st => s.complete q (c.answerIn x st) 0 0
      | .wait => s
      | .run => f s c x

/-- The event of a command for a job. -/
def State.jobCommand (s : State) (q op : Nat) (f : State → Cmd → Job → State) : Host.Outcome State Fault Refusal :=
  s.powered (fun t => t.jobTurn q op f)

/-! ## JOB.OPEN, JOB.CLOSE, JOB.CANCEL (R59, R93, R102) -/

/-- The job of a JOB.OPEN record. -/
def Cmd.opens (c : Cmd) : Job where
  st := .opened
  l3 := c.field 0x10 8
  saveVa := c.field 0x18 8
  trapVa := c.field 0x20 8
  trapN := c.field 0x28 4
  prio := c.field 0x2C 1
  policy := c.field 0x2D 1
  cellarVa := c.field 0x30 8
  cellarBytes := c.field 0x38 4
  qwin := c.field 0x3C 1
  faultVa := c.field 0x40 8
  faultN := c.field 0x48 4
  reportVa := c.field 0x50 8

/-- The ranges and alignments that R59 lists for JOB.OPEN. -/
def Job.openable (x : Job) : Bool :=
  decide (x.prio ≤ 7) && decide (x.policy ≤ 2) && x.cellarBytes != 0 && x.cellarBytes % 65536 == 0 && decide (16 ≤ x.qwin)
    && decide (x.qwin ≤ 30) && x.trapN != 0 && x.faultN != 0 && x.trapVa % 128 == 0 && x.faultVa % 128 == 0
    && x.reportVa % 65536 == 0 && x.l3 % 65536 == 0

/-- JOB_OPEN: of a FREE job only (R58); of any other, what its state makes of it, and BUSY where JOB_END still waits (R65). -/
def execJobOpen (q : Nat) (s : State) : Host.Outcome State Fault Refusal :=
  s.powered (fun t =>
    match t.turn q 1 with
    | none => t
    | some c =>
      match t.job? c.job with
      | some x =>
        match x.gate 1 with
        | .wait => t
        | .answer st => t.complete q (if x.ended then 4 else st) 0 0
        | .run => t.complete q 4 0 0
      | none =>
        if c.cancelled then t.complete q 0x12 0 0
        else if c.opens.openable then
          ({ t with endedParts := t.endedParts.filter (fun p => p.job != c.job) }.setJob c.job c.opens).complete q 0 0 0
        else t.complete q 2 0 0)

/-- JOB_CLOSE: every phase is sealed. -/
def execJobClose (q : Nat) (s : State) : Host.Outcome State Fault Refusal :=
  s.jobCommand q 2 (fun t c x =>
    let y := { x with
      wasClosing := true
      st := if x.st == .opened then .closing else x.st
      phases := x.phases.map (fun p => if p.ended then p else { p with closed := true }) }
    (((t.setJob c.job y).settle c.job settleBound).complete q 0 0 0))

/-- The job has reached its end. -/
def State.jobOver (s : State) (j : Nat) : Bool :=
  match s.job? j with
  | some x => x.ended
  | none => true

/-- JOB_CANCEL: it completes once the job has reached its end. -/
def execJobCancel (q : Nat) (s : State) : Host.Outcome State Fault Refusal :=
  s.powered (fun t =>
    match t.turn q 3 with
    | none => t
    | some c =>
      if c.begun then (if t.jobOver c.job then t.complete q 0 0 0 else t)
      else
        t.jobTurn q 3 (fun u c _ =>
          let u1 := u.cancelJob c.job 2 0
          if u1.jobOver c.job then u1.complete q 0 0 0 else u1.begin q []))

/-! ## MAP.SET, SLOT.SET, SVAR.SET, TICK.SET -/

/-- Drop a job's translations that overlap a range (R88). -/
def State.dropRange (s : State) (j base len : Nat) : State :=
  let hit (e : TlbEntry) : Bool := e.job == j && (len == 0 || (decide (e.va < base + len) && decide (base < e.va + e.size)))
  { s with
    tlbs := s.tlbs.map (fun (d, es) => (d, es.filter (fun e => !hit e)))
    cores := s.cores.map (fun (c, k) => (c, { k with tlb := k.tlb.filter (fun e => !hit e) })) }

/-- MAP_SET. -/
def execMapSet (q : Nat) (s : State) : Host.Outcome State Fault Refusal :=
  s.jobCommand q 4 (fun t c x =>
    let l3 := c.field 0x10 8
    if l3 % 65536 ≠ 0 then t.complete q 2 0 0
    else ((t.setJob c.job { x with l3 := if l3 = 0 then x.l3 else l3 }).dropRange c.job (c.field 0x18 8) (c.field 0x20 8)).complete q 0 0 0)

/-- Weights and reservations fit on these cores, with `weight` and `resv` for job `j` and without the jobs `gone`. -/
def State.sharesFit (s : State) (j weight resv : Nat) (gone cores : List Nat) : Bool :=
  cores.all (fun c =>
    let others := (s.jobsAt c).filter (fun p => p.1 != j && !gone.contains p.1)
    decide (others.foldl (fun n p => n + p.2.weight) weight ≤ 64) && decide (others.foldl (fun n p => n + p.2.resv) resv ≤ bufferEntries))

/-- SLOT_SET. -/
def execSlotSet (q : Nat) (s : State) : Host.Outcome State Fault Refusal :=
  s.jobCommand q 6 (fun t c x =>
    let weight := c.field 0x10 1
    let resv := c.field 0x12 2
    if decide (64 < weight) || decide (bufferEntries < resv) then t.complete q 2 0 0
    else if !t.sharesFit c.job weight resv [] x.cores then t.complete q 0x0A 0 0
    else
      ((t.setJob c.job { x with weight := weight, resv := resv, rate := c.field 0x14 4 }).rebuildFor x.cores).complete q 0 0 0)

/-- Shape variables after SVAR.SET: the next value goes to each index of the mask, ascending. -/
def writeVars (mask : Nat) (bytes : List Byte) : List W64 → Nat → List W64
  | [], _ => []
  | v :: vs, i =>
    if bitAt mask i then BitVec.ofNat 64 (recNat bytes 0 8) :: writeVars mask (bytes.drop 8) vs (i + 1)
    else v :: writeVars mask bytes vs (i + 1)

/-- SVAR_SET. -/
def execSvarSet (q : Nat) (s : State) : Host.Outcome State Fault Refusal :=
  s.jobCommand q 0x0B (fun t c _ =>
    let mask := c.field 0x10 4
    if decide (12 < countIf (fun i => bitAt mask i) (List.range 32)) then t.complete q 2 0 0
    else (t.setVars c.job (fun vars => writeVars mask (c.bytes.drop 0x18) vars 0)).complete q 0 0 0)

/-- The first edge after `now` of the sequence that starts at `first` (R101). -/
def firstEdge (now period first : Nat) : Nat :=
  if period = 0 then 0
  else if first = 0 then (now / period + 1) * period
  else if now < first then first
  else first + ((now - first) / period + 1) * period

/-- TICK_SET: the edges after its acceptance occur (R101). -/
def execTickSet (q : Nat) (s : State) : Host.Outcome State Fault Refusal :=
  s.jobCommand q 0x0C (fun t c x =>
    let period := c.field 0x10 8
    if period ≠ 0 && (decide (period < 10000) || decide (10 ^ 10 < period)) then t.complete q 2 0 0
    else
      let y := { x with
        period := period, nextEdge := firstEdge c.time period (c.field 0x18 8), owed := 0, deadlines := 0, edgePassed := none }
      ((t.setJob c.job y).settle c.job settleBound).complete q 0 0 0)

/-! ## CODE.LOAD (R105) -/

/-- CODE_LOAD. -/
def execCodeLoad (q : Nat) (s : State) : Host.Outcome State Fault Refusal :=
  s.jobCommand q 7 (fun t c _ =>
    let va := c.field 0x10 8
    if va % 4096 ≠ 0 then t.complete q 2 0 0
    else
      match t.load (cmdOwner q) c.job va (c.field 0x18 4) with
      | .wait t1 => t.keepAsks t1
      | .refused t1 st r0 r1 => t1.complete q st r0 r1
      | .done t1 g => t1.complete q 0 g 0)

/-! ## Phases and instances (R95, R96, R100, R110) -/

/-- PHASE_OPEN: it seals the phases before it. -/
def execPhaseOpen (q : Nat) (s : State) : Host.Outcome State Fault Refusal :=
  s.jobCommand q 0x0A (fun t c x =>
    let id := c.field 0x10 2
    let flags := c.field 0x12 1
    if 3 < flags then t.complete q 2 0 0
    else if x.phases.any (fun p => p.id == id) then t.complete q 4 0 0
    else if 16 ≤ x.phases.length then t.complete q 0x0D 0 0
    else
      let sealed := x.phases.map (fun p => if p.ended then p else { p with closed := true })
      let y := { x with phases := sealed ++ [{ id := id, ticked := bitAt flags 0, queuePolicy := bitAt flags 1 }] }
      ((t.setJob c.job y).settle c.job settleBound).complete q 0 0 0)

/-- Free slots of the dependence table, ascending. -/
def Job.freeSlots (x : Job) : List Nat := (List.range 256).filter (fun i => (Table.find x.insts i).isNone)

/-- What the instances of one command share. -/
structure NewInst where
  graph : Nat
  phase : Nat
  named : List (Nat × Option Nat)
  ordinal : Nat
  deriving DecidableEq, Repr

/-- Enter an instance in a slot (R95, R96). A predecessor that has ended counts with its end status. -/
def Job.enter (x : Job) (n : NewInst) (slot : Nat) (arg : Nat) (count : Nat) : Job :=
  let v : Instance :=
    { seq := x.seq, st := .waiting, phase := n.phase, graph := n.graph, ordinal := n.ordinal
      preds := (n.named.filter (fun p => p.2.isNone)).map (fun p => p.1)
      doomed := n.named.any (fun p => p.2 == some 2 || p.2 == some 3)
      arg := BitVec.ofNat 64 (arg % 2 ^ 55), count := count }
  { x with insts := Table.put x.insts slot v, seq := (x.seq + 1) % 2 ^ 24 }

/-- The chunks of GRAPH.BATCH: first record and size, for P windows (R110). At most `fuel` of them. -/
def chunksOf (windows : Nat) : Nat → Nat → Nat → List (Nat × Nat)
  | 0, _, _ => []
  | fuel + 1, first, remaining =>
    if remaining = 0 then []
    else
      let size := min remaining (max 1 (cdiv remaining (2 * windows)))
      (first, size) :: chunksOf windows fuel (first + size) (remaining - size)

/-- Placement windows of a graph: of the rectangle, or of the saved one. -/
def Job.windows (x : Job) (g : Graph) : Nat :=
  let m := match x.rect, x.saved with
    | some r, _ => r.size
    | none, some v => (match v.rect with | some r => r.size | none => 0)
    | none, none => 0
  m / g.cores

/-- The checks of GRAPH.START and GRAPH.BATCH on their fields: the graph, if they pass. Table 3.7 gives the patch count's range, 0 to
64, beside GRAPH.START only: GRAPH.BATCH keeps it too (the model's choice, log entry 93). -/
def Job.startable (x : Job) (graph phase patches list : Nat) : Option Graph :=
  match Table.find x.graphs graph with
  | none => none
  | some g =>
    if decide (64 < patches) || (patches != 0 && list % 8 != 0) then none
    else if x.open_.any (fun p => p.id == phase && !p.closed) then some g else none

/-- Both passes over a patch list (R62). What is still to be written stays with the command while a write waits. -/
def State.patch (s : State) (q : Nat) (c : Cmd) (list n : Nat) : Patching :=
  let o := cmdOwner q
  let keep (t : State) (ps : List Patch) : State :=
    t.onCmd q (fun d => { d with patches := some (ps.map (fun p => (p.target, p.width, p.value))) })
  let write (t : State) (ps : List Patch) : Patching := t.writePatches o c.job keep ps (n - ps.length)
  match c.patches with
  | some ps => write s (ps.map (fun p => ⟨p.1, p.2.1, p.2.2⟩))
  | none =>
    match s.readPatches o (c.svars.getD (s.job c.job).sv) c.job list n 0 with
    | .wait t => .wait (s.keepAsks t)
    | .failed t st i => .failed t st i
    | .done t ps => write (t.dropOwner o) ps

/-- Enter the instances of a command: slot, argument and record count of each. -/
def State.enterAll (s : State) (j : Nat) (n : NewInst) (items : List (Nat × Nat × Nat)) : State :=
  (s.onJob j (fun x => items.foldl (fun y p => y.enter n p.1 p.2.1 p.2.2) x)).settle j settleBound

/-- The ordinal of a fabric tag that a GRAPH.START takes (R124). -/
def State.takeOrdinal (s : State) (j : Nat) (g : Graph) : State × Nat :=
  match g.fabric with
  | none => (s, 0)
  | some (tag, _) =>
    let k := Table.getD (s.job j).ordinals tag 0
    (s.onJob j (fun x => { x with ordinals := Table.put x.ordinals tag (k + 1) }), k)

/-- Instance id that a slot and a sequence number give. -/
def instIdOf (slot seq : Nat) : Nat := slot + 256 * seq

/-- GRAPH_START. A cut graph uses Yilyel, which proof service has not (R37). -/
def execGraphStart (q : Nat) (s : State) : Host.Outcome State Fault Refusal :=
  s.jobCommand q 8 (fun t c x =>
    match x.startable (c.field 0x10 2) (c.field 0x12 2) (c.field 0x28 2) (c.field 0x20 8) with
    | none => t.complete q 2 0 0
    | some g =>
      if t.proof && g.fabric.isSome then t.complete q 5 0 0
      else match x.freeSlots with
      | [] => t.complete q 0x0D 0 0
      | slot :: _ =>
        match t.patch q c (c.field 0x20 8) (c.field 0x28 2) with
        | .wait t1 => t1
        | .failed t1 st i => t1.complete q st i 0
        | .done t1 _ =>
          let (t2, k) := t1.takeOrdinal c.job g
          let n : NewInst := { graph := c.field 0x10 2, phase := c.field 0x12 2, named := c.named, ordinal := k }
          (t2.enterAll c.job n [(slot, c.field 0x18 8, 1)]).complete q 0 (instIdOf slot x.seq) 0)

/-- GRAPH_BATCH. -/
def execGraphBatch (q : Nat) (s : State) : Host.Outcome State Fault Refusal :=
  s.jobCommand q 9 (fun t c x =>
    let size := c.field 0x20 4
    match x.startable (c.field 0x10 2) (c.field 0x12 2) (c.field 0x30 2) (c.field 0x28 8) with
    | none => t.complete q 2 0 0
    | some g =>
      if g.fabric.isSome || size % 8 != 0 || decide (4096 < size) then t.complete q 2 0 0
      else
        let chunks := chunksOf (x.windows g) 4096 0 (c.field 0x24 4)
        let slots := x.freeSlots
        if slots.length < chunks.length then t.complete q 0x0D 0 0
        else
          match t.patch q c (c.field 0x28 8) (c.field 0x30 2) with
          | .wait t1 => t1
          | .failed t1 st i => t1.complete q st i 0
          | .done t1 _ =>
            let n : NewInst := { graph := c.field 0x10 2, phase := c.field 0x12 2, named := c.named, ordinal := 0 }
            let items := (slots.zip chunks).map (fun (i, first, count) => (i, c.field 0x18 8 + first * size, count))
            let r0 := match items with | (i, _) :: _ => instIdOf i x.seq | [] => 0
            (t1.enterAll c.job n items).complete q 0 r0 chunks.length)

/-! ## Floors (R70, R71, R74) -/

/-- The checks that FLOOR.ALLOC and FLOOR.FREE share: a status, if one fails. -/
def State.floorCheck (s : State) (c : Cmd) (proofRooms : Bool) : Option Nat :=
  let room := c.field 0x10 1
  if decide (7 < room) || c.field 0x12 2 == 0 then some 2
  else if proofRooms && s.proof && decide (2 ≤ room) then some 5
  else none

/-- Bytes and poison of a floor are gone. -/
def State.wipeFloor (s : State) (f : Nat) : State :=
  { s with
    mem := Memory.clear s.mem (f * 2 ^ 32) ((f + 1) * 2 ^ 32)
    poison := s.poison.filter (fun u => floorOf (64 * u) != f) }

/-- FLOOR_ALLOC: the floors are ZEROING until FLOOR_LIT, and the command completes once every one of them is LIT. -/
def execFloorAlloc (q : Nat) (s : State) : Host.Outcome State Fault Refusal :=
  s.powered (fun t =>
    match t.turn q 0x0D with
    | none => t
    | some c =>
      if c.begun then (if c.floors.all (fun f => (t.floor f).st.open) then t.complete q 0 0 0 else t)
      else
        match t.floorCheck c true with
        | some st => t.complete q st 0 0
        | none =>
          if c.floors.any (fun f => (t.floor f).st != .dark) then t.complete q 4 0 0
          else
            let t1 := c.floors.foldl (fun u f =>
              let v := u.wipeFloor f
              { v with floors := Table.put v.floors f { st := .zeroing } }) t
            (t1.beginWake (c.field 0x10 1)).begin q [])

/-- The WATCHes that wait at a floor are refused as it turns DARK (R73); one that a write has performed keeps its value (R240). -/
def State.refuseWatches (s : State) (f : Nat) : State :=
  let hit (m : MemReq) : Bool := m.since.isSome && !m.begun && m.elems.any (fun e => floorOf e.dest == f)
  (s.memReqs.filter hit).foldl (fun t m =>
    (t.floorDark (if remoteJob ≤ m.req.job then none else some m.req.job) ((m.elems.map (·.dest)).headD 0)).elemDone
      ((t.devCore m.req.job m.req.core).getD 0) m.req.id 0 .refused) s

/-- FLOOR_FREE: the floors' failing rows are repaired (R40). -/
def execFloorFree (q : Nat) (s : State) : Host.Outcome State Fault Refusal :=
  s.powered (fun t =>
    match t.turn q 0x0E with
    | none => t
    | some c =>
      match t.floorCheck c false with
      | some st => t.complete q st 0 0
      | none =>
        if c.floors.any (fun f => !(t.floor f).st.open) then t.complete q 4 0 0
        else
          (c.floors.foldl (fun u f =>
            let v := ((u.refuseWatches f).wipeFloor f).repairRows (· == f)
            { v with floors := Table.put v.floors f {} }) t).complete q 0 0 0)

/-! ## FAULT.RESOLVE (R90) -/

/-- Elements of a request that a fault froze: performed afresh, or answered poisoned. -/
def State.resolveLoad (s : State) (id rid : Nat) (resume : Bool) : State :=
  match s.memReqs.find? (fun m => m.req.id == rid) with
  | none => s
  | some m =>
    let hit (e : Elem) : Bool := e.st == .frozen id
    if resume then
      { s with memReqs := s.memReqs.map (fun q => if q.req.id = rid then
          { q with elems := q.elems.map (fun e => if hit e then { e with st := .waiting } else e) } else q) }
    else
      match s.devCore m.req.job m.req.core with
      | some c =>
        (List.range m.elems.length).reverse.foldl (fun t n =>
          match m.elems[n]? with
          | some e => if hit e then t.elemDone c rid n .refused else t
          | none => t) s
      | none => s

/-- A port of a resolved fault goes on. -/
def State.resolvePort (s : State) (f : Pending) (resume : Bool) (p : FaultPort) : State :=
  match p with
  | .load rid _ => s.resolveLoad f.id rid resume
  | .walker c w => s.onWalker c w (fun x => { x with frozen := none, refused := if resume then x.refused else x.faultVa :: x.refused })
  | .copy die j n =>
    { s with copies := s.copies.map (fun (x : CopyReq) =>
        if x.die = die && x.req.job = j && x.queue = n && x.frozen = some f.id then
          { x with frozen := none, refRead := x.refRead || (!resume && !x.faultWrite), refWrite := x.refWrite || (!resume && x.faultWrite) }
        else x) }
  | .routing id =>
    ({ s with routeWork := s.routeWork.map (fun (w : RouteWork) =>
        if w.id = id then { w with frozen := none, refused := if resume then w.refused else w.faultVa :: w.refused } else w) }).routeRun
  | .spill jc save =>
    if save then s
    else
      let v := (s.job f.job).cellar jc
      if v.hold = 2 then s.setCellar f.job jc { v with hold := 0 } else s

/-- Every port of a fault goes on. -/
def State.resolveFault (s : State) (f : Pending) (action : Nat) : State :=
  f.ports.foldl (fun t p => t.resolvePort f (action == 0) p) { s with faults := s.faults.filter (fun g => g.id != f.id) }

/-- The fault includes a port of the spill engine. -/
def Pending.spills (f : Pending) : Bool := f.ports.any (fun p => match p with | .spill _ _ => true | _ => false)

/-- FAULT.RESOLVE of a pending fault: at once, or noted for the resume of a pre-empted job. -/
def State.resolve (s : State) (q : Nat) (c : Cmd) (x : Job) : State :=
  let id := c.field 0x10 8
  let action := c.field 0x18 1
  match s.faults.find? (fun f => f.id == id && f.job == c.job && f.resolved.isNone) with
  | none => s.complete q 2 0 0
  | some f =>
    if decide (1 < action) || (action == 1 && f.spills) then s.complete q 2 0 0
    else if x.st == .preempted then
      ({ s with faults := s.faults.map (fun (g : Pending) => if g.id = id then { g with resolved := some action } else g) }).complete q 0 0 0
    else (s.resolveFault f action).complete q 0 0 0

/-- The command resolves a fault that holds up the save of its job, or the sweep before it (R121): it is no command that waits
for that save. -/
def State.resolvesSave (s : State) (q : Nat) : Option (Cmd × Job) :=
  match (s.queue q).cur with
  | some c =>
    (match s.job? c.job with
      | some x =>
        if c.op == 0x0F && s.serving && !s.exclusive && x.st == .preempting
            && s.faults.any (fun f => f.id == c.field 0x10 8 && f.job == c.job && f.spills) then some (c, x) else none
      | none => none)
  | none => none

/-- FAULT_RESOLVE. -/
def execFaultResolve (q : Nat) (s : State) : Host.Outcome State Fault Refusal :=
  s.powered (fun t =>
    match t.resolvesSave q with
    | some (c, x) => t.resolve q c x
    | none => t.jobTurn q 0x0F (fun u c x => u.resolve q c x))

/-! ## CELLAR.GROW -/

/-- The tokens of a cellar, as their slots hold them. -/
def State.cellarContents (s : State) (o : List Nat) (j : Nat) (v : Cellar) : List Nat → State × VGot
  | [] => (s, .data [])
  | i :: rest =>
    match s.vread o none j (v.va + i % v.slots * 32) 32 with
    | (t, .data bs) =>
      (match State.cellarContents t o j v rest with
        | (u, .data xs) => (u, .data (bs ++ xs))
        | g => g)
    | g => g

/-- Write the slots of a new ring from position `pos` on. -/
def State.fillRing (s : State) (o : List Nat) (j : Nat) (w : Cellar) : Nat → Nat → List Byte → State × VGot
  | 0, _, _ => (s, .data [])
  | n + 1, pos, bs =>
    match s.vwrite o none j (w.va + pos % w.slots * 32) (bs.take 32) with
    | (t, .data _) => State.fillRing t o j w n (pos + 1) (bs.drop 32)
    | g => g

/-- Move a cellar to a new ring: the contents in order, and held traffic goes on. -/
def State.growCellar (s : State) (o : List Nat) (j jc va bytes : Nat) : State × VGot :=
  let v := (s.job j).cellar jc
  let w : Cellar := { v with va := va, bytes := bytes, hold := if v.hold = 1 then 0 else v.hold }
  if v.hold = 4 then (s, .wait)
  else
    match s.cellarContents o j v (upFrom v.head v.count) with
    | (s1, .data bs) =>
      (match s1.fillRing o j w v.count v.head bs with
        | (s2, .data _) => (s2.setCellar j jc w, .data [])
        | g => g)
    | g => g

/-- Move rings, one after another; the first that does not move ends it. -/
def State.growAll (s : State) (o : List Nat) (j : Nat) (at_ : Nat → Nat) (bytes : Nat) : List Nat → State × VGot
  | [] => (s, .data [])
  | n :: rest =>
    match s.growCellar o j n (at_ n) bytes with
    | (t, .data _) => State.growAll t o j at_ bytes rest
    | g => g

/-- CELLAR_GROW: one ring, or all of them side by side. Where the move of the contents of one faults, none is moved, and the status is
MEM_FAULT: Table 3.7 names none (the model's choice, log entry 89). -/
def execCellarGrow (q : Nat) (s : State) : Host.Outcome State Fault Refusal :=
  s.jobCommand q 0x10 (fun t c x =>
    let core := c.field 0x10 1
    let va := c.field 0x18 8
    let bytes := c.field 0x20 4
    let which := if core = 0xFF then List.range 64 else [core]
    if (decide (63 < core) && core != 0xFF) || bytes % 65536 != 0 || which.any (fun n => decide (bytes < (x.cellar n).bytes)) then
      t.complete q 2 0 0
    else
      match t.growAll (cmdOwner q) c.job (fun n => if core = 0xFF then va + n * bytes else va) bytes which with
      | (t1, .wait) => t.keepAsks t1
      | (t1, .data _) =>
        (if core = 0xFF then t1.onJob c.job (fun y => { y with cellarVa := va, cellarBytes := bytes }) else t1).complete q 0 0 0
      | _ => t.complete q 0x13 0 0)

end Sys2Proof.Machine
end

