-- ==== Sys2Proof/Machine/Saving.lean ====
section
/-! DEFINITION. Pre-emption (R117 to R123): the halt, the curtains, the save area, what is taken from the cores, and what a
restore places. -/

namespace Sys2Proof.Machine

/-! ## The halt (step 1) -/

/-- The firings of a job on a core that have committed nothing are given up: their inputs return, in the order of matching. A
firing whose commit has begun has committed, and the rest of its commit goes on. -/
def State.haltCore (s : State) (j c : Nat) : State :=
  let k := s.core c
  let mine (l : Firing) : Bool := l.job == j && !l.dead && !l.entered
  let gone := sortBy (·.seq) (k.groups.flatMap (fun g => g.lanes.filter mine) ++ k.ready.filter mine)
  let k1 := { k with
    ready := k.ready.filter (fun l => !mine l)
    groups := dropDead (k.groups.map (fun g => { g with lanes := g.lanes.map (fun l => if mine l then { l with dead := true } else l) })) }
  (s.setCore c k1).abortFirings c gone

/-! ## Curtains (step 3, R118) -/

/-- A curtain (Table 5.11). -/
def curtainToken (s : State) (j core src kind vc : Nat) : Token where
  dev := s.host.devnum
  core := BitVec.ofNat 7 core
  job := BitVec.ofNat 6 j
  tag := (s.job j).halt
  cls := 2
  src := BitVec.ofNat 7 src
  w2 := BitVec.ofNat 64 (vc * 2 ^ 61 + kind * 2 ^ 59)

/-- I/O dies through which traffic of these dies leaves for these devices. -/
def State.ioDies (s : State) (dies devs : List Nat) : List Nat :=
  (dies.flatMap (fun d => devs.filterMap (fun v => (s.egress d v).map ioDieOf))).eraseDups

/-- The peers of a job's cut graphs. -/
def Job.peers (x : Job) : List Nat := x.graphs.flatMap (fun (_, g) => match g.fabric with | some (_, ps) => ps | none => [])

/-- The curtains of a job's cores: to every other core, and to the I/O dies that carry its cut edges, on VC0 and VC1. -/
def State.coreCurtains (s : State) (j : Nat) : List MeshItem :=
  let x := s.job j
  let cs := x.cores.map x.jobCore
  let ios := (s.ioDies (x.cores.map dieOf).eraseDups x.peers).map (64 + ·)
  cs.flatMap (fun c => (cs.filter (· != c) ++ ios).flatMap (fun d => [0, 1].map (fun vc =>
    { job := j, src := c, dst := d, vc := vc, what := .curtain (curtainToken s j (if d < 64 then d else 0) c 0 vc) })))

/-- A receiver of an engine's curtain: an I/O die, or participant q of a batch. -/
def engineCode (batch q : Nat) : Nat := 2 + q + 64 * batch

/-- The receivers of a participant's curtains. -/
def State.curtainsOf (s : State) (x : Participant) : List Nat :=
  let others := ((List.range (npartOf x.desc)).filter (· != x.p)).map (fun q => (q, (partEntry x.desc q).1))
  let here := others.filter (fun p => p.2 == s.devnum)
  let away := others.filter (fun p => p.2 != s.devnum)
  here.map (fun p => engineCode x.batch p.1) ++ s.ioDies [s.partDie x] (away.map (fun p => p.2))

/-- The curtains of a job's routing engines, on VC4 and VC5: an engine sends one for each anchor core, receiver and channel. -/
def State.engineCurtains (s : State) (j : Nat) : List LinkRec :=
  let one (anchor code vc : Nat) : LinkRec :=
    let t := curtainToken s j 0 anchor 1 vc
    { kind := 0x14, job := j, dst := s.devnum, src := s.devnum, rid := code,
      body := natLe 8 t.w0 ++ natLe 8 t.w1 ++ natLe 8 t.w2.toNat }
  ((s.parts.filter (fun x => x.job == j)).flatMap (fun x =>
    (s.curtainsOf x).flatMap (fun code => [4, 5].map (one x.anchor code)))).eraseDups

/-- What tells a curtain apart: its sender's kind, its `SRC`, its channel and its receiver. -/
def Token.curtainKey (t : Token) (dst : Nat) : Nat × Nat × Nat × Nat :=
  (bits t.w2.toNat 59 2, t.src.toNat, bits t.w2.toNat 61 3, dst)

/-- The devices to which an I/O die carries a job's traffic of a channel, with the links: those of its cut edges, or of its batches. -/
def State.curtainWays (s : State) (j io vc : Nat) : List (Nat × Nat) :=
  let x := s.job j
  let ways (dies devs : List Nat) : List (Nat × Nat) := dies.flatMap (fun d => devs.filterMap (fun v =>
    match s.egress d v with
    | some n => if ioDieOf n = io then some (v, n) else none
    | none => none))
  let away (p : Participant) : List Nat := ((List.range (npartOf p.desc)).map (fun q => (partEntry p.desc q).1)).filter (· != s.devnum)
  (if vc < 2 then ways (x.cores.map dieOf).eraseDups x.peers
   else (s.parts.filter (fun p => p.job == j)).flatMap (fun p => ways [s.partDie p] (away p))).eraseDups

/-- The curtains that an I/O die awaits on a channel. -/
def State.curtainsAt (s : State) (j io vc : Nat) : Nat :=
  if vc < 2 then (if (s.curtainWays j io vc).isEmpty then 0 else (s.job j).cores.length)
  else ((s.parts.filter (fun p => p.job == j && (s.curtainsOf p).contains io)).map (fun p => p.anchor)).eraseDups.length

/-- An I/O die that has received every curtain due to it on a channel sends its own over the links, behind the job's traffic (R11,
R20): sender kind 2, `SRC` 0x7F. -/
def State.passCurtains (s : State) (j io vc : Nat) : State :=
  if countIf (fun (k : Nat × Nat × Nat × Nat) => k.2.2.1 == vc && (k.2.2.2 == 64 + io || k.2.2.2 == 128 + io)) (s.job j).curtains
      = s.curtainsAt j io vc then
    (s.curtainWays j io vc).foldl (fun t (v, n) =>
      let u := { curtainToken t j 0 0x7F 2 vc with dev := BitVec.ofNat 10 v }
      if vc = 0 then t.sendFlits n [{ vc := 0, ntok := 1, payload := u.linkBytes 0 }]
      else
        let r : LinkRec := { kind := 0x14, job := j, dst := v, src := t.devnum, body := u.linkBytes 0 }
        t.sendFlits n (recordFlits vc 1 r.bytes)) s
  else s

/-- A curtain is received: counted once if its `TAG` is the job's halt number, discarded if not. -/
def State.takeCurtain (s : State) (j dst : Nat) (t : Token) : State :=
  let x := s.job j
  let k := t.curtainKey dst
  if x.st == .preempting && t.tag == x.halt && !x.curtains.contains k then
    let s1 := s.onJob j (fun y => { y with curtains := y.curtains ++ [k] })
    if dst = 64 || dst = 65 || dst = 128 || dst = 129 then s1.passCurtains j (dst % 64) k.2.2.1 else s1
  else s

/-- CURTAIN: item `i` of the mesh, or beyond those the records between routing engines. No sweep waits for a curtain of another
device, and one that arrives is discarded. -/
def execCurtain (i : Nat) (s : State) : Host.Outcome State Fault Refusal :=
  s.powered (fun t =>
    if i < t.mesh.length then
      match t.takeMesh i with
      | some (x, t1) => (match x.what with | .curtain c => t1.takeCurtain x.job x.dst c | _ => t)
      | none => t
    else
      match t.takeRec (i - t.mesh.length) 0x14 with
      | some (r, t1) =>
        let c := Token.ofWords (recNat r.body 0 8) (recNat r.body 8 8) (BitVec.ofNat 64 (recNat r.body 16 8)) 0
        if r.src = t1.devnum then t1.takeCurtain r.job (128 + r.rid) c else t1
      | none => t)

/-- Halt a running job: its firings are given up, its matrix requests stop, and its curtains go out. -/
def State.haltJob (s : State) (j : Nat) : State :=
  let x := s.job j
  let s1 := x.cores.foldl (fun t c => (t.haltCore j c).stopMmas j c) s
  let s2 := s1.onJob j (fun y => { y with
    st := .preempting, wasClosing := x.st == .closing, halt := y.halt + 1, haltTime := s.time, curtains := [], heldEdges := [] })
  let items := s2.coreCurtains j
  let recs := s2.engineCurtains j
  let s3 := s2.onJob j (fun y => { y with curtainsDue := items.length + recs.length })
  { s3 with
    mesh := s3.mesh ++ items
    inbox := s3.inbox ++ recs
    issue := match s3.issue with | some (c, i) => if i = j then none else some (c, i) | none => none }

/-! ## Responses (step 4, R360) -/

/-- A request that the save waits for: it has left its core, and can be performed or answered. -/
def State.holdsSave (s : State) (m : MemReq) : Bool :=
  match s.devCore m.req.job m.req.core with
  | none => false
  | some c =>
    let live := s.gateOpen c m && (m.elems.zipIdx).any (fun p => p.1.st == .waiting && s.mayPerform c m p.2)
    match m.req.instr with
    | .watch _ => m.begun
    | .drain _ => s.gateOpen c m
    | .wcflush _ => s.flushReady c m
    | .pref _ => true
    | .wcfg _ => m.begun && live
    | _ =>
      m.elems.any (fun e => match e.st with | .away _ => true | _ => false) || ((m.begun || !m.req.tileForm) && live)

/-- The job for which the sweep waits until an access to another device is answered: of its engines, its cancelled instances, its
cellars and the combiners. None for the rows that RCOMB asks of other homes, nor for records and reports, which go on meanwhile. -/
def State.sweptJob (s : State) (owner : List Nat) : Option Nat :=
  match owner with
  | 0 :: j :: _ => some j
  | 1 :: c :: w :: _ => some ((s.core c).walker w).job
  | 2 :: _ :: j :: _ => some j
  | [3, id] => (s.routeWork.find? (fun w => w.id == id)).map (fun w => w.job)
  | 7 :: j :: _ | 8 :: j :: _ => some j
  | 10 :: _ :: j :: _ => some j
  | _ => none

/-- A port of the job's save is frozen (R121). -/
def State.saveFrozen (s : State) (j : Nat) : Bool :=
  s.faults.any (fun f => f.job == j && f.ports.any (fun p => match p with | .spill _ save => save | _ => false))

/-- Steps 1 to 4 have ended. -/
def State.swept (s : State) (j : Nat) : Bool :=
  let x := s.job j
  x.st == .preempting && x.curtains.length == x.curtainsDue && x.expos.isEmpty
    && !s.mesh.any (fun m => m.job == j && m.src != 64 && m.src != 65)
    && !s.memReqs.any (fun m => m.req.job == j && s.holdsSave m)
    && s.fabric.all (fun f => f.answer.isSome || s.sweptJob f.owner != some j)
    && !s.inbox.any (fun r => r.job == j && r.src == s.devnum && r.routing)
    && !s.saveFrozen j

/-! ## The save area (step 5, R119) -/

/-- Which of sections 0 to 11 hold something (Table 5.7). -/
def State.sectionsUsed (s : State) (j : Nat) : List Bool :=
  let x := s.job j
  let ks := x.cores.map s.core
  [ true,
    ks.any (fun k => k.blocks.any (fun p => p.2.job == j)),
    ks.any (fun k => k.frames.any (fun f => f.job == j) || k.fallocs.any (fun r => r.req.job == j)),
    ks.any (fun k => k.tiles.any (fun p => p.2.st != TileSt.free && p.2.job == j)),
    ks.any (fun k => k.buffer.any (fun t => t.job.toNat == j) || k.mailbox.any (fun m => m.job == j)) || x.cellars.any (fun p => decide (0 < p.2.count)),
    ks.any (fun k => k.walkers.any (fun p => p.2.claimed && p.2.job == j)),
    s.copies.any (fun c => c.req.job == j),
    s.parts.any (fun p => p.job == j) || s.routeWork.any (fun w => w.job == j),
    ks.any (fun k => k.kernels.any (fun p => p.2.1 == j)),
    ks.any (fun k => k.mmaReqs.any (fun r => r.req.job == j) || k.accs.any (fun a => a.job == j)),
    s.faults.any (fun f => f.job == j),
    s.memReqs.any (fun m => m.req.job == j) ]

/-- Offset and length of each section from offset `pos` on: each starts on a 64 KiB boundary, and the length of one that
holds something is free. Log entry 7. -/
def layoutFrom (pos draw : Nat) : List Bool → List (Nat × Nat)
  | [] => []
  | used :: rest =>
    let len := if used then 1 + (Config.freeWord draw).toNat % 2 ^ 37 else 0
    (pos, len) :: layoutFrom (roundUp (pos + len) 65536) (draw + 1) rest

/-- The save-area header (Table 5.6). -/
def Job.saveHeader (x : Job) (version : BitVec 16) (j total : Nat) (dir : List (Nat × Nat)) : List Byte :=
  let rect := match x.rect with
    | some r => natLe 1 r.col ++ natLe 1 r.row ++ natLe 1 r.cols ++ natLe 1 r.rows
    | none => zeros 4
  natLe 4 0x53415645 ++ natLe 2 version.toNat ++ natLe 1 j ++ natLe 1 (if x.wasClosing then 2 else 1) ++ rect
    ++ natLe 1 (wrapInt 8 x.dx) ++ natLe 1 (wrapInt 8 x.dy) ++ zeros 2 ++ natLe 8 total ++ natLe 8 x.haltTime.toNat
    ++ dir.flatMap (fun p => natLe 8 p.1 ++ natLe 8 p.2) ++ zeros 3808

/-- The spans that the save writes: offset and bytes. The inner layout of a section is free. Log entry 7. -/
def saveSpans (header : List Byte) (dir : List (Nat × Nat)) (draw : Nat) : List (Nat × List Byte) :=
  (0, header) :: dir.map (fun p => (p.1, (List.range p.2).map (fun i => Config.freeByte (draw + p.1 + i))))

/-- How the writing of the save area ended, or what it waits for. -/
inductive SaveStep where
  | wait (s : State)
  | written (s : State)
  | frozen (s : State)
  | failed (s : State)

/-- The port at which a save freezes (R121). -/
def savePort (j off : Nat) : PortInfo := { die := 0, job := j, type := 4, bytes := natLe 8 off ++ zeros 40 }

/-- Write the spans in order. -/
def State.writeSave (s : State) (j : Nat) : List (Nat × List Byte) → SaveStep
  | [] => .written s
  | (off, bs) :: rest =>
    let port := savePort j off
    match s.vwrite (saveOwner j) (some port) j ((s.job j).saveVa + off) bs with
    | (s1, .wait) => .wait s1
    | (s1, .data _) => State.writeSave s1 j rest
    | (s1, .absent va f) => .frozen (s1.absentFault port 256 (.spill 0 true) va .write f).1
    | (s1, _) => .failed s1

/-! ## What is taken from the cores -/

/-- What core `c` holds of a job. -/
def State.captureCore (s : State) (j c : Nat) : SavedCore :=
  let x := s.job j
  let k := s.core c
  let rids := (s.memReqs.filter (fun m => m.req.job == j)).map (fun m => m.req.id)
  let mine (w : Walker) : Bool := (w.claimed && w.job == j) || (match w.loading with | some r => rids.contains r | none => false)
  let frames := k.frames.filter (fun f => f.job == j)
  let tiles := k.tiles.filter (fun p => p.2.st != TileSt.free && p.2.job == j)
  let contents (t : Tile) : Memory :=
    (Memory.within k.store (t.base * 64) ((t.base + t.units) * 64)).map (fun p => (p.1 - t.base * 64, p.2))
  { core := x.jobCore c
    buffer := k.buffer.filter (fun t => t.job.toNat == j)
    slots := (k.slots.filter (fun p => frames.any (fun f => decide (f.base ≤ p.1) && decide (p.1 < f.base + f.size)))).map (fun p =>
      (p.1, { p.2 with poison := p.2.poison || k.badSlots.contains p.1 }))
    frames := frames
    blocks := k.blocks.filter (fun p => p.2.job == j)
    tiles := tiles
    store := tiles.map (fun p => (p.1, contents p.2))
    tileReqs := k.tileReqs.filter (fun r => r.req.job == j)
    mmaReqs := k.mmaReqs.filter (fun r => r.req.job == j)
    fallocs := k.fallocs.filter (fun r => r.req.job == j)
    accs := k.accs.filter (fun a => a.job == j)
    groups := k.groups.filter (fun g => g.job == j)
    walkers := k.walkers.filter (fun p => mine p.2)
    mailbox := k.mailbox.filter (fun m => m.job == j)
    closed := k.closed.filter (fun p => p.1 == j)
    kernels := (k.kernels.filter (fun p => p.2.1 == j)).map (fun p => (p.1, p.2.2))
    xflags := Table.getD k.xflags j 0 }

/-- A request as it is saved: a WATCH that has not been performed is withdrawn with what is left of its timeout (R368). What is left of
one that waits at another device, or was never in a table, lies between 1 ns and the whole: a free value. -/
def MemReq.withdrawn (m : MemReq) (now draw : Nat) : MemReq :=
  match m.req.instr with
  | .watch _ =>
    let d := m.req.d.toNat
    let out := m.elems.any (fun e => match e.st with | .away _ => true | _ => false)
    let left := match m.since with
      | some t => max 1 (d - (now - t))
      | none => if out then 1 + (Config.freeWord draw).toNat % d else d
    { m with
      since := none, queued := none, begun := false, req := { m.req with d := BitVec.ofNat 64 (if d = 0 then 0 else left) }
      elems := m.elems.map (fun e => { e with st := match e.st with | .away _ => .waiting | x => x }) }
  | _ => m

/-- An access that a walker, a copy queue or a routing engine of the job has made for work that goes on after the restore. -/
def State.engineAccess (s : State) (j : Nat) (owner : List Nat) : Bool :=
  match owner with
  | 1 :: c :: w :: _ => ((s.core c).walker w).claimed && ((s.core c).walker w).job == j
  | 2 :: _ :: i :: _ => i == j
  | 3 :: id :: _ => s.routeWork.any (fun w => w.id == id && w.job == j)
  | _ => false

/-- What pre-emption saves of a job. -/
def State.capture (s : State) (j bytes : Nat) : Saved :=
  let x := s.job j
  { rect := x.rect, dx := x.dx, dy := x.dy, closing := x.wasClosing, time := x.haltTime, bytes := bytes
    cores := x.cores.map (s.captureCore j)
    mem := ((s.memReqs.filter (fun m => m.req.job == j)).zipIdx).map (fun (m, i) => m.withdrawn s.time.toNat (s.draws + i))
    copies := s.copies.filter (fun c => c.req.job == j)
    parts := s.parts.filter (fun p => p.job == j)
    route := s.routeWork.filter (fun w => w.job == j)
    fabric := s.fabric.filter (fun f => s.engineAccess j f.owner) }

/-- Walkers set aside for a job's configurations are free again. -/
def Core.dropLoading (k : Core) (rids : List Nat) : Core :=
  { k with walkers := k.walkers.map (fun (n, w) =>
      match w.loading with
      | some r => if rids.contains r then (n, { w with loading := none }) else (n, w)
      | none => (n, w)) }

/-- The job's state is taken from the device, and its cores are released: what waited there behind its table loads goes on (R317). Traffic
from other devices stays on its way. -/
def State.takeOff (s : State) (j bytes : Nat) : State :=
  let x := s.job j
  let saved := s.capture j bytes
  let rids := saved.mem.map (fun m => m.req.id)
  let waiting := s.mesh.filter (fun m => m.job == j && (m.src == 64 || m.src == 65))
  let s1 := x.cores.foldl (fun t c => t.onCore c (fun k => k.dropLoading rids)) s
  let s2 := s1.leaveCores j
  let gone (f : FabReq) : Bool := s.engineAccess j f.owner || f.owner.take 2 == [8, j] || f.owner == saveOwner j
  let s3 : State := { s2 with
    mesh := s2.mesh ++ waiting, fabric := s2.fabric.filter (fun f => !gone f), draws := s2.draws + saved.mem.length }
  let s4 := s3.onJob j (fun y =>
    let z := y.heldEdges.foldl (fun w e => w.passEdge e) y
    { z with st := .preempted, rect := none, saved := some saved, curtains := [], curtainsDue := 0, heldEdges := [], saveDraw := none })
  x.cores.foldl (fun t c => t.endRecords c) (s4.rebuildFor x.cores)

/-- The commands that wait for this job's save learn how it ended. -/
def State.tellWaiting (s : State) (j : Nat) (ok : Bool) : State :=
  (List.range 16).foldl (fun t q => match (t.queue q).cur with
    | some c =>
      if c.begun && c.waits.contains j then
        t.onCmd q (fun d => { d with
          waits := d.waits.filter (· != j)
          done := if ok then d.done ++ [j] else d.done
          failed := if ok then d.failed else d.failed ++ [j] })
      else t
    | none => t) s

/-- A cancel that the job met while PREEMPTING takes effect (R104). -/
def State.cancelAfterSave (s : State) (j : Nat) : State :=
  let x := s.job j
  if x.cancelAtSave then (s.onJob j (fun y => { y with cancelAtSave := false })).cancelJob j x.endStatus x.endFault else s

/-- A save ends in failure (R121): the job issues again, and the edges that passed are applied (R101). -/
def State.saveFails (s : State) (j : Nat) : State :=
  let x := s.job j
  let s1 := s.onJob j (fun y => { y with
    st := if y.wasClosing then .closing else .opened, curtains := [], curtainsDue := 0, heldEdges := [], saveDraw := none })
  let s2 := (((s1.dropOwner (saveOwner j)).rebuildFor x.cores).settle j settleBound).tellWaiting j false
  (x.heldEdges.foldl (fun t e => t.applyEdge j e) s2).cancelAfterSave j

/-- The job's state goes straight to the attic: a CKPT halted it (R44). -/
def State.toAttic (s : State) (j : Nat) : Bool :=
  (List.range 16).any (fun q => match (s.queue q).cur with | some c => c.op == 0x13 && c.begun && c.waits.contains j | none => false)

/-- The save: once the combiners hold nothing of the job (R245), the save area is written, and the job leaves its cores. The bytes that
are free are drawn once, at the first attempt. -/
def State.saveJob (s : State) (j : Nat) : State :=
  let s1 := s.flushWhere (fun e => e.job == j)
  if s1.wcHolds (fun e => e.job == j) then s1
  else if s1.toAttic j then ((s1.takeOff j 0).tellWaiting j true).cancelAfterSave j
  else
    let d := (s1.job j).saveDraw.getD s1.draws
    let dir := layoutFrom 0x10000 d (s1.sectionsUsed j)
    let total := dir.foldl (fun n p => if p.2 = 0 then n else p.1 + p.2) 0x1000
    let all := dir ++ List.replicate 4 (roundUp total 65536, 0)
    let s2 : State := if (s1.job j).saveDraw.isSome then s1
      else { s1.onJob j (fun y => { y with saveDraw := some d }) with draws := s1.draws + 12 + total }
    match s2.writeSave j (saveSpans ((s2.job j).saveHeader (Config.saveVersion s2.hkc.signedHash) j total all) dir (d + 12)) with
    | .written t => ((t.takeOff j total).tellWaiting j true).cancelAfterSave j
    | .wait t => s2.keepAsks t
    | .frozen t => t
    | .failed t => t.saveFails j

/-- SAVE_END. -/
def execSaveEnd (job : Nat) (s : State) : Host.Outcome State Fault Refusal :=
  s.powered (fun t => if t.swept job then t.saveJob job else t)

/-! ## Restoring (R122) -/

/-- The free place that a tile of `units` units takes: of the best rank, the lowest first found. -/
def Core.bestBase (k : Core) (units : Nat) : Option Nat :=
  (k.freeBases units).foldl (fun (m : Option Nat) b =>
    match m with
    | some a => if k.spanRank b units < k.spanRank a units then some b else some a
    | none => some b) none

/-- Place saved tiles with space of their own, in ascending index. -/
def Core.placeTiles (k : Core) (store : Table Memory) (clock : Nat) : Table Tile → Option Core
  | [] => some k
  | (i, t) :: rest =>
    if t.view then Core.placeTiles k store clock rest
    else
      match k.bestBase t.units with
      | none => none
      | some b =>
        let k1 := (k.setTile i { t with base := b }).lightBanks (banksOf b t.units) clock
        let bytes := Table.getD store i []
        Core.placeTiles { k1 with store := bytes.foldl (fun m p => Memory.set m (b * 64 + p.1) p.2) k1.store } store clock rest

/-- The tile with space of its own that a view leads to. -/
def rootOf (tiles : Table Tile) : Nat → Nat → Nat
  | 0, i => i
  | n + 1, i =>
    match Table.find tiles i with
    | some t => if t.view then rootOf tiles n t.parent else i
    | none => i

/-- Place the saved tiles of a core: views shift with the tiles that they lead to. -/
def Core.restoreTiles (k : Core) (v : SavedCore) (clock : Nat) : Option Core :=
  (k.placeTiles v.store clock v.tiles).map (fun k1 =>
    (v.tiles.filter (fun p => p.2.view)).foldl (fun k (i, t) =>
      let r := rootOf v.tiles v.tiles.length i
      let old := match Table.find v.tiles r with | some x => x.base | none => 0
      k.setTile i { t with base := (k1.tile r).base + (t.base - old) }) k1)

/-- The core has room for what was saved: frames, tile entries, walkers, block ids, instruction memory, tile space, and mailbox entries. R122 names no
mailbox among what RESUME needs: NO_SPACE for want of mailbox entries is the model's choice (log entry 94). -/
def Core.takes (k : Core) (j : Nat) (v : SavedCore) (clock : Nat) : Bool :=
  let words := v.blocks.foldl (fun n p => n + p.2.code.length + 2) 0
  v.frames.all (fun f => k.runFree f.base f.size) && v.tiles.all (fun p => (k.tile p.1).st == .free)
    && v.walkers.all (fun p => !(k.walker p.1).claimed && (k.walker p.1).loading.isNone)
    && v.blocks.all (fun p => match Table.find k.blocks p.1 with | some b => b.job == j | none => true)
    && decide (k.codeWords + words ≤ codeMemory) && decide (k.mailbox.length + v.mailbox.length ≤ 4) && (k.restoreTiles v clock).isSome

/-- Restore what was saved of a core. Saved kernel slots break the TABLE groups of other jobs that they fall in (R316), and the words of
its blocks are written anew (R173). -/
def Core.restore (k : Core) (j : Nat) (v : SavedCore) (clock : Nat) : Core :=
  let k1 := v.kernels.foldl (fun k p => k.breakGroup p.1) ((k.restoreTiles v clock).getD k)
  { k1 with
    buffer := k1.buffer ++ v.buffer
    slots := v.slots.foldl (fun t p => Table.put t p.1 p.2) k1.slots
    badSlots := k1.badSlots.filter (fun n => (Table.find v.slots n).isNone)
    frames := k1.frames ++ v.frames
    blocks := v.blocks.foldl (fun t p => Table.put t p.1 p.2) k1.blocks
    badWords := k1.badWords.filter (fun p => (Table.find v.blocks p.1).isNone)
    tileReqs := k1.tileReqs ++ v.tileReqs
    mmaReqs := k1.mmaReqs ++ v.mmaReqs
    fallocs := k1.fallocs ++ v.fallocs
    accs := k1.accs ++ v.accs
    groups := k1.groups ++ v.groups
    walkers := v.walkers.foldl (fun t p => Table.put t p.1 p.2) k1.walkers
    mailbox := k1.mailbox ++ v.mailbox
    closed := k1.closed ++ v.closed
    kernels := v.kernels.foldl (fun t p => Table.put t p.1 (j, p.2)) k1.kernels
    xflags := if v.xflags = 0 then k1.xflags else Table.put k1.xflags j v.xflags
    recovery := some clock }

/-- The saved state fits on the target cores, without the jobs `gone`. -/
def State.fits (s : State) (j : Nat) (y : Job) (v : Saved) (gone : List Nat) : Bool :=
  v.cores.all (fun w => match y.devCore w.core with
    | some c => ((gone.foldl (fun k i => k.dropJob i) (s.core c))).takes j w s.clock
    | none => false)

/-- A port of a pending fault, at the place where it now stands. -/
def FaultPort.moved (p : FaultPort) (id : Nat) (move : Nat → Nat) (old new : List CopyReq) : FaultPort :=
  match p with
  | .walker c w => .walker (move c) w
  | .copy die j q =>
    (match (old.zip new).find? (fun (p : CopyReq × CopyReq) => p.1.die == die && p.1.queue == q && p.1.frozen == some id) with
      | some (_, n) => .copy n.die j q
      | none => .copy die j q)
  | p => p

/-- An answered access to another device, under the number of the engine that now owns it. -/
def FabReq.moved (f : FabReq) (move : Nat → Nat) (dieOfCopy : Nat → Nat → Nat) : FabReq :=
  match f.owner with
  | 1 :: c :: rest => { f with owner := 1 :: move c :: rest }
  | 2 :: die :: j :: q :: rest => { f with owner := 2 :: dieOfCopy die q :: j :: q :: rest }
  | _ => f

/-- What RESUME applies once the state is back: rooms of `EXPO` wake (R77), a passed edge is met once (R101), pending TICKs
whose edge passed are answered (R389), and resolved faults go on (R90). -/
def State.wakeJob (s : State) (j : Nat) : State :=
  let x := s.job j
  let s1 := (expoRooms x.expo.toNat).foldl (fun t r => if (t.room r).lit then t else t.lightRoom r) s
  let s2 := s1.onJob j (fun y => { y with edgePassed := none, ticks := y.ticks.filter (fun p => p.2.1 != 0) })
  let s3 := match x.edgePassed, x.open_.head? with
    | some e, some p => if p.ticked && p.released then s2.missEdge j p e else s2
    | _, _ => s2
  let s4 := (x.ticks.filter (fun p => p.2.1 == 0)).foldl (fun t p => t.answer p.1 3 (BitVec.ofNat 64 p.2.2) false) s3
  let s5 := (s4.faults.filter (fun f => f.job == j)).foldl (fun t f => match f.resolved with
    | some a => t.resolveFault f a
    | none => t) s4
  s5.settle j settleBound

/-- Restore a pre-empted job at a place: its cores, engines and faults, and the job issues again. -/
def State.restoreJob (s : State) (j : Nat) (r : Option Rect) (dx dy : Int) : State :=
  let x := s.job j
  match x.saved with
  | none => s
  | some v =>
    let y := x.placedAt r dx dy
    let from_ := x.asSaved
    let move (c : Nat) : Nat := (y.devCore (from_.jobCore c)).getD 64
    let z : Job := { y with
      st := if x.wasClosing then .closing else .opened
      saved := none
      insts := x.insts.map (fun (i, w) => (i, { w with
        roots := w.roots.map (fun q => { q with core := move q.core })
        marks := if w.cancelled && w.st != .ended then y.cores else [] })) }
    let s1 := v.cores.foldl (fun t w => match y.devCore w.core with
      | some c => t.onCore c (fun k => k.restore j w s.clock)
      | none => t) ((s.releaseCredits j ({ s with parts := s.parts ++ v.parts }.holdsSelections j)).setJob j z)
    let die (jc : Nat) : Nat := s1.jobDie j jc
    let copies := v.copies.map (fun c => { c with die := die c.req.core })
    let dieOfCopy (d q : Nat) : Nat :=
      ((v.copies.zip copies).find? (fun p => p.1.die == d && p.1.queue == q)).elim d (fun p => p.2.die)
    let routeDie (w : RouteWork) : Nat := match w.what with
      | .form q => die q.core
      | .counted n | .final n => ((v.parts.find? (fun p => some p.batch == w.batch && p.p == n)).map (fun p => die p.anchor)).getD w.die
      | .record b => { s1 with parts := s1.parts ++ v.parts }.recordDie b
    let s2 : State := { s1 with
      memReqs := s1.memReqs ++ v.mem
      copies := s1.copies ++ copies
      parts := s1.parts ++ v.parts
      routeWork := s1.routeWork ++ v.route.map (fun w => { w with die := routeDie w })
      fabric := s1.fabric ++ v.fabric.map (fun f => f.moved move dieOfCopy)
      faults := s1.faults.map (fun f => if f.job = j then { f with ports := f.ports.map (fun p => p.moved f.id move v.copies copies) } else f) }
    y.cores.foldl (fun t c => t.endRecords c) ((s2.rebuildFor y.cores).wakeJob j)

end Sys2Proof.Machine
end

