-- ==== Sys2Proof/Machine/Placing.lean ====
section
/-! DEFINITION. WALL.SET, PREEMPT and RESUME (R107, R111, R117, R121, R122). -/

namespace Sys2Proof.Machine

/-! ## The outcome of a placement (Table 5.10) -/

/-- A rectangle stays in what the service level offers (R37): compute die 0 in proof service. -/
def Rect.inProof (r : Rect) : Bool := decide (r.col + r.cols ≤ 4) && decide (r.row + r.rows ≤ 4)

/-- Every core of a rectangle is present: the map is valid (Table 1.2), and `CORESOK` lists the core (R39). -/
def State.present (s : State) (r : Rect) : Bool := s.hkc.meshValid && r.cores.all (fun c => bitAt s.hkc.coresOk.toNat c)

/-- The rectangle that a begun command will place a job in. -/
def State.claimOf (s : State) (c : Cmd) : Option Rect :=
  if c.op = 5 then some { col := c.field 0x10 1, row := c.field 0x11 1, cols := c.field 0x12 1, rows := c.field 0x13 1 }
  else if c.op = 0x12 then
    match (s.job c.job).saved with
    | some v => v.rect.map (fun r =>
        if c.field 0x10 1 = 0xFF && c.field 0x11 1 = 0xFF then r else { r with col := c.field 0x10 1, row := c.field 0x11 1 })
    | none => none
  else none

/-- Another placement that has begun claims a core of this rectangle. -/
def State.claimed (s : State) (q : Nat) (r : Rect) : Bool :=
  (s.otherCmds q).any (fun d => d.begun && (match s.claimOf d with | some t => t.overlaps r | none => false))

/-- The other jobs whose rectangle overlaps this one and that satisfy a test. -/
def State.overlapping (s : State) (j : Nat) (r : Rect) (p : Job → Bool) : List (Nat × Job) :=
  s.jobs.filter (fun (i, x) => i != j && p x && (match x.rect with | some t => t.overlaps r | none => false))

/-- What a placement does now. -/
inductive Placement where
  /-- it waits for a save that is under way, or for another placement -/
  | wait
  | refused (status : Nat)
  /-- these jobs are pre-empted, then the rectangle takes effect -/
  | evicting (victims : List Nat)
  deriving DecidableEq, Repr

/-- Table 5.10, with the check of weights and reservations. -/
def State.placement (s : State) (q j : Nat) (x : Job) (r : Rect) (share : Bool) : Placement :=
  if !(s.overlapping j r (fun y => y.st == .preempting)).isEmpty || s.claimed q r then .wait
  else
    let run := s.overlapping j r (fun y => y.running)
    let victims := run.map (fun p => p.1)
    let ok : Bool :=
      if share then run.all (fun p => p.2.rect == some r) else run.all (fun p => decide (p.2.prio < x.prio))
    let gone := if share then [] else victims
    if !ok then .refused 9
    else if !s.sharesFit j x.weight x.resv gone r.cores then .refused 0x0A
    else .evicting gone

/-- The checks of a rectangle itself: a status, if one fails. -/
def State.rectCheck (s : State) (r : Rect) (shareByte : Nat) : Option Nat :=
  if !r.legal || decide (1 < shareByte) then some 2
  else if s.proof && !r.inProof then some 5
  else if !s.present r then some 2
  else none

/-- The mask of a list of jobs. -/
def maskOf (js : List Nat) : Nat := js.eraseDups.foldl (fun n j => n + 2 ^ j) 0

/-- Halt the jobs that a command pre-empts; it waits for their saves. -/
def State.haltFor (s : State) (q : Nat) (victims : List Nat) : State :=
  (victims.foldl (fun t v => t.haltJob v) s).begin q victims

/-- A placement whose victims' saves have all ended: MEM_FAULT where one failed (R121), else it goes on. -/
def State.afterSaves (s : State) (q : Nat) (c : Cmd) (go : State → Nat → State) : State :=
  if !c.waits.isEmpty then s
  else if !c.failed.isEmpty then s.complete q 0x13 (maskOf c.done) (maskOf c.failed)
  else go s (maskOf c.done)

/-! ## WALL.SET -/

/-- The rectangle is in force: the job's graphs are unloaded, and its relocation is zero (R107, R112). -/
def State.setWall (s : State) (j : Nat) (r : Rect) : State :=
  let old := (s.job j).cores
  let s1 := (s.leaveCores j).onJob j (fun x => { x with rect := some r, first := (r.col, r.row), dx := 0, dy := 0, graphs := [] })
  (s1.rebuildFor old).rebuildFor r.cores

/-- WALL.SET takes effect for the first time. -/
def State.startWall (s : State) (q : Nat) (c : Cmd) (x : Job) : State :=
  let r : Rect := { col := c.field 0x10 1, row := c.field 0x11 1, cols := c.field 0x12 1, rows := c.field 0x13 1 }
  match s.rectCheck r (c.field 0x14 1) with
  | some st => s.complete q st 0 0
  | none =>
    if x.rect = some r then s.complete q 0 0 0
    else if x.insts.any (fun p => p.2.st != .ended) then s.complete q 4 0 0
    else
      match s.placement q c.job x r (c.field 0x14 1 == 1) with
      | .wait => s
      | .refused st => s.complete q st 0 0
      | .evicting [] => (s.setWall c.job r).complete q 0 0 0
      | .evicting vs => s.haltFor q vs

/-- WALL_SET. -/
def execWallSet (q : Nat) (s : State) : Host.Outcome State Fault Refusal :=
  s.powered (fun t =>
    match t.turn q 5 with
    | none => t
    | some c =>
      if c.begun then
        match t.job? c.job with
        | none => t.noJob q c
        | some x =>
          if x.st == .cancelling then t.complete q 0x12 0 0
          else if x.st == .preempting then t
          else t.afterSaves q c (fun u mask =>
            match x.st, u.claimOf c with
            | .preempted, _ => u.complete q 4 0 0
            | _, some r => (u.setWall c.job r).complete q 0 mask 0
            | _, none => u)
      else t.jobTurn q 5 (fun u c x => u.startWall q c x))

/-! ## PREEMPT -/

/-- PREEMPT: it completes when the save does; result 0 = bytes written. -/
def execPreempt (q : Nat) (s : State) : Host.Outcome State Fault Refusal :=
  s.powered (fun t =>
    match t.turn q 0x11 with
    | none => t
    | some c =>
      if c.begun then
        match t.job? c.job with
        | none => t.noJob q c
        | some x =>
          if x.st == .preempting then t
          else if x.st == .cancelling then t.complete q 0x12 0 0
          else if !c.failed.isEmpty then t.complete q 0x13 0 0
          else match x.saved with | some v => t.complete q 0 v.bytes 0 | none => t
      else t.jobTurn q 0x11 (fun u c _ => (u.haltJob c.job).begin q [c.job]))

/-! ## RESUME -/

/-- Where a RESUME takes its job: the rectangle and the relocation; none for a place that R122 refuses. -/
def Job.resumeAt (x : Job) (v : Saved) (col row : Nat) : Option (Option Rect × Int × Int) :=
  let same := col = 0xFF && row = 0xFF
  match v.rect with
  | none => if same then some (none, 0, 0) else none
  | some r =>
    if same then some (some r, v.dx, v.dy)
    else some (some { r with col := col, row := row }, (col : Int) - (x.first.1 : Int), (row : Int) - (x.first.2 : Int))

/-- RESUME takes effect for the first time. -/
def State.startResume (s : State) (q : Nat) (c : Cmd) (x : Job) : State :=
  let share := c.field 0x12 1
  match x.saved with
  | none => s.complete q 4 0 0
  | some v =>
    if 1 < share then s.complete q 2 0 0
    else
      match x.resumeAt v (c.field 0x10 1) (c.field 0x11 1) with
      | none => s.complete q 2 0 0
      | some (none, dx, dy) => (s.restoreJob c.job none dx dy).complete q 0 0 0
      | some (some r, dx, dy) =>
        match s.rectCheck r share with
        | some st => s.complete q st 0 0
        | none =>
          match s.placement q c.job x r (share == 1) with
          | .wait => s
          | .refused st => s.complete q st 0 0
          | .evicting vs =>
            if !s.fits c.job (x.placedAt (some r) dx dy) v vs then s.complete q 8 0 0
            else if vs.isEmpty then (s.restoreJob c.job (some r) dx dy).complete q 0 0 0
            else s.haltFor q vs

/-- RESUME goes on once the jobs that it pre-empts are saved. -/
def State.endResume (s : State) (q : Nat) (c : Cmd) (x : Job) (mask : Nat) : State :=
  match x.saved with
  | none => s.complete q 0x12 0 0
  | some v =>
    match x.resumeAt v (c.field 0x10 1) (c.field 0x11 1) with
    | some (some r, dx, dy) =>
      if s.fits c.job (x.placedAt (some r) dx dy) v [] then (s.restoreJob c.job (some r) dx dy).complete q 0 mask 0
      else s.complete q 8 mask 0
    | _ => s

/-- RESUME. -/
def execResume (q : Nat) (s : State) : Host.Outcome State Fault Refusal :=
  s.powered (fun t =>
    match t.turn q 0x12 with
    | none => t
    | some c =>
      if c.begun then
        match t.job? c.job with
        | none => t.noJob q c
        | some x => if x.st == .cancelling then t.complete q 0x12 0 0 else t.afterSaves q c (fun u mask => u.endResume q c x mask)
      else t.jobTurn q 0x12 (fun u c x => u.startResume q c x))

end Sys2Proof.Machine
end

