-- ==== Sys2Proof/Machine/Attic.lean ====
section
/-! DEFINITION. CKPT and RESTORE (R44 to R47): the image of Table 2.12 stands in the memory of the host's bus. -/

namespace Sys2Proof.Machine

/-- The fused security version: the number of blown bits (R36). -/
def Hkc.svn (h : Hkc) : Nat := countIf (fun i => h.svnFuses.getLsbD i) (List.range 64)

/-- `MESHMAP` (Table 1.2). -/
def Hkc.meshmap (h : Hkc) : Nat :=
  b2n h.meshValid * 2 ^ 15 + h.skip.getD 3 4 % 8 * 2 ^ 9 + h.skip.getD 2 4 % 8 * 2 ^ 6 + h.skip.getD 1 4 % 8 * 2 ^ 3 + h.skip.getD 0 4 % 8

/-! ## The check table (Table 2.12) -/

/-- One bit of the CRC of ECMA-182. -/
def crcBit (r : W64) : W64 := if r.msb then (r <<< 1) ^^^ 0x42F0E1EBA9EA3693#64 else r <<< 1

/-- One byte, its most significant bit first. -/
def crcByte (r : W64) (b : Byte) : W64 := (List.range 8).foldl (fun x _ => crcBit x) (r ^^^ (b.setWidth 64 <<< 56))

/-- CRC-64 with the polynomial of Table 2.12, from zero. Log entry 60. -/
def crc64 (bs : List Byte) : W64 := bs.foldl crcByte 0

/-- Offset of the first section, which is that of the first extent. -/
def sectionsAt : Nat := 0x401000

/-- Bytes of an extent. -/
def extentBytes : Nat := 2 ^ 21

/-- Extents of an image. -/
def extents (bytes : Nat) : Nat := cdiv (bytes - sectionsAt) extentBytes

/-- The CRC of extent `k` of an image at `base`. -/
def extentCrc (m : Memory) (base bytes k : Nat) : W64 :=
  crc64 (Memory.read m (base + sectionsAt + k * extentBytes) (min extentBytes (bytes - sectionsAt - k * extentBytes)))

/-- The image fits the attic and its check table (R45). -/
def imageFits (bytes size : Nat) : Bool := decide (bytes ≤ size) && decide (extents bytes ≤ 524288)

/-! ## What an image holds -/

/-- The floors of an image: those that are not DARK, ascending. -/
def State.imagedFloors (s : State) : List Nat := (s.floors.filter (fun p => p.2.st != .dark)).map (fun p => p.1)

/-- Bytes of a tile-store bank. -/
def bankBytes : Nat := 384 * 1024

/-- Tiles of the jobs that CKPT halted, with their bytes, at a core: their banks are imaged as they stood (R44). -/
def State.savedTiles (s : State) (halted : List Nat) (c : Nat) : List (Tile × Memory) :=
  halted.flatMap (fun j => match (s.job j).saved with
    | some v => v.cores.flatMap (fun w =>
        if (s.job j).asSaved.devCore w.core = some c then
          (w.tiles.filter (fun p => !p.2.view)).map (fun p => (p.2, Table.getD w.store p.1 []))
        else [])
    | none => [])

/-- The tile store of a core as an image holds it. -/
def State.imagedStore (s : State) (halted : List Nat) (c : Nat) : Memory :=
  (s.savedTiles halted c).foldl (fun m (t, b) => b.foldl (fun m p => Memory.set m (64 * t.base + p.1) p.2) m) (s.core c).store

/-- The banks of a core that an image holds. -/
def State.imagedBanks (s : State) (halted : List Nat) (c : Nat) : List Nat :=
  (List.range 64).filter (fun b => (Table.getD (s.core c).banks b {}).st != .dark
    || (s.savedTiles halted c).any (fun p => (banksOf p.1.base p.1.units).contains b))

/-- The cores by ascending physical site. -/
def State.coresBySite (s : State) : List Nat := (sortBy (fun c => siteOf s.hkc.skip c) (s.cores.map (fun p => p.1)))

/-- Cores and banks of an image, ascending site then bank. -/
def State.imagedPairs (s : State) (halted : List Nat) : List (Nat × Nat) :=
  s.coresBySite.flatMap (fun c => (s.imagedBanks halted c).map (fun b => (c, b)))

/-- Parts of a save area that lie in host memory or on another device: VA and length, page by page (R44). -/
def State.outsideParts (s : State) (j : Nat) (v : Saved) : List (Nat × Nat) :=
  (pieces 65536 (s.job j).saveVa v.bytes).filter (fun (va, _) =>
    match s.walk j va with
    | .ok e => (match homeOf s.devnum (e.at va) with | .host _ | .fabric _ _ => true | _ => false)
    | .error _ => false)

/-- Those of every job that was PREEMPTED before the command: job, VA, length. -/
def State.copiedParts (s : State) (halted : List Nat) : List (Nat × Nat × Nat) :=
  s.jobs.flatMap (fun (j, x) =>
    match x.st, x.saved with
    | .preempted, some v => if halted.contains j then [] else (s.outsideParts j v).map (fun p => (j, p))
    | _, _ => [])

/-- Owner of what a CKPT or a RESTORE asks of other devices for a job. -/
def atticOwner (q j : Nat) : List Nat := cmdOwner q ++ [j]

/-- Read those parts: job, VA and bytes, or the state alone while one is waited for. The bytes that another device refuses are free. -/
def State.readOutside (s : State) (q : Nat) : List (Nat × Nat × Nat) → Except State (State × List (Nat × Nat × List Byte))
  | [] => .ok (s, [])
  | (j, va, n) :: rest => do
    let (s1, bs) ← (match s.vread (atticOwner q j) none j va n with
      | (t, .wait) => .error t
      | (t, .data bs) => .ok (t, bs)
      | (t, _) => .ok ({ t with draws := t.draws + n }, (List.range n).map (fun i => Config.freeByte (t.draws + i))) :
        Except State (State × List Byte))
    let (s2, xs) ← State.readOutside s1 q rest
    .ok (s2, (j, va, bs) :: xs)

/-- Bytes of the job-state section that no rule lays out: their number is free. Log entry 7. -/
def stateLength (draw : Nat) : Nat := (Config.freeWord draw).toNat % (320 * 2 ^ 20 + 1)

/-- Poisoned units of an image's floors (R45). -/
def State.imagedPoison (s : State) : List Nat := s.poison.filter (fun u => s.imagedFloors.contains (floorOf (64 * u)))

/-- Sizes of an image's sections: floors, banks, job state; and the length of its poison list, in units. -/
structure ImageSizes where
  floors : Nat
  banks : Nat
  jobs : Nat
  poison : Nat
  deriving DecidableEq, Repr

/-- Bytes of an image. -/
def ImageSizes.bytes (z : ImageSizes) : Nat := sectionsAt + z.floors + z.banks + z.jobs + 8 * z.poison

/-- The sizes of the image of the device, once the jobs `halted` have been halted for it. -/
def State.imageSizes (s : State) (halted : List Nat) (draw : Nat) : ImageSizes where
  floors := s.imagedFloors.length * 2 ^ 32
  banks := (s.imagedPairs halted).length * bankBytes
  jobs := stateLength draw + (s.copiedParts halted).foldl (fun n p => n + 8 + p.2.2) 0
  poison := s.imagedPoison.length

/-! ## The image as bytes -/

/-- The header (Table 2.12): the places of its fields are the model's choice, log entry 60. -/
def State.atticHeader (s : State) (halted : List Nat) (z : ImageSizes) : List Byte :=
  let siteBanks (site : Nat) : Nat := (s.imagedPairs halted).foldl (fun n p => if siteOf s.hkc.skip p.1 = site then n + 2 ^ p.2 else n) 0
  natLe 4 0x41545443 ++ natLe 4 1 ++ natLe 4 1 ++ natLe 4 s.devnum ++ natLe 8 s.hkc.meshmap ++ natLe 8 s.hkc.svn
    ++ (s.hkc.signedHash ++ zeros 48).take 48 ++ natLe 16 (s.imagedFloors.foldl (fun n f => n + 2 ^ f) 0)
    ++ (List.range 80).flatMap (fun i => natLe 8 (siteBanks i)) ++ natLe 8 z.floors ++ natLe 8 z.banks ++ natLe 8 z.jobs ++ natLe 8 z.poison

/-- Store cells at addresses from `base` on. -/
def putCells (m : Memory) (base : Nat) (cells : List (Nat × Byte)) : Memory := cells.foldl (fun m p => Memory.set m (base + p.1) p.2) m

/-- The floors, with zeros in poisoned units (R45). -/
def State.putFloors (s : State) (m : Memory) (base : Nat) : Memory :=
  s.imagedFloors.zipIdx.foldl (fun m (f, i) =>
    let kept := (Memory.within s.mem (f * 2 ^ 32) ((f + 1) * 2 ^ 32)).filter (fun p => !s.poison.contains (p.1 / 64))
    putCells m (base + i * 2 ^ 32) (kept.map (fun p => (p.1 % 2 ^ 32, p.2)))) m

/-- The banks. -/
def State.putBanks (s : State) (halted : List Nat) (m : Memory) (base : Nat) : Memory :=
  (s.imagedPairs halted).zipIdx.foldl (fun m ((c, b), i) =>
    putCells m (base + i * bankBytes)
      (((s.imagedStore halted c).filter (fun p => (bankAt p.1).1 == b)).map (fun p => ((bankAt p.1).2, p.2)))) m

/-- The bytes of a job-state section. -/
def stateBytes (len draw : Nat) (copied : List (Nat × Nat × List Byte)) : List Byte :=
  (List.range len).map (fun i => Config.freeByte (draw + 1 + i)) ++ copied.flatMap (fun p => natLe 8 p.2.1 ++ p.2.2)

/-- The check table. -/
def putChecks (m : Memory) (base bytes : Nat) : Memory :=
  (List.range (extents bytes)).foldl (fun t k => Memory.writeNat t (base + 0x1000 + 8 * k) 8 (extentCrc m base bytes k).toNat) m

/-- The whole image at `base`, in a memory that holds nothing else. -/
def State.image (s : State) (base : Nat) (halted : List Nat) (draw : Nat) (copied : List (Nat × Nat × List Byte)) : Memory :=
  let z := s.imageSizes halted draw
  let m1 := s.putFloors [] (base + sectionsAt)
  let m2 := s.putBanks halted m1 (base + sectionsAt + z.floors)
  let m3 := Memory.write m2 (base + sectionsAt + z.floors + z.banks)
    (stateBytes (stateLength draw) draw copied ++ s.imagedPoison.flatMap (fun u => natLe 8 (64 * u)))
  Memory.write (putChecks m3 base z.bytes) base (s.atticHeader halted z)

/-- A memory that holds in `[lo, hi)` what another one holds. -/
def splice (old new : Memory) (lo hi : Nat) : Memory := putCells (Memory.clear old lo hi) 0 (Memory.within new lo hi)

/-- What its job-state section says. -/
def State.atticRecord (s : State) (base : Nat) (halted : List Nat) (draw : Nat) (copied : List (Nat × Nat × List Byte)) (sound : Bool) :
    Attic :=
  let z := s.imageSizes halted draw
  let jobs := s.jobs.filter (fun p => p.2.st == .preempted && !p.2.ended)
  { base := base, at_ := sectionsAt + z.floors + z.banks, len := stateLength draw, draw := draw
    layout := (Config.saveVersion s.hkc.signedHash).toNat
    devnum := s.host.devnum
    jobs := jobs
    halted := halted
    copied := copied
    faults := s.faults.filter (fun f => jobs.any (fun p => p.1 == f.job))
    nextId := s.nextId
    faultSeq := s.faultSeq
    sound := sound }

/-! ## CKPT (R44, R45) -/

/-- Traffic to the attic passes: it is spread over both ports in units of 4 KiB (R16, R52). -/
def State.atticPasses (s : State) : Bool := s.busPasses 0 && s.busPasses 4096

/-- CKPT begins: the attic must be large enough, and every running job is halted. -/
def State.startCkpt (s : State) (q : Nat) (c : Cmd) : State :=
  if c.field 0x10 8 % 4096 ≠ 0 || decide (1 < c.field 0x20 1) then s.complete q 2 0 0
  else if s.jobs.any (fun p => p.2.st == .preempting) then s
  else if !imageFits (s.imageSizes [] s.draws).bytes (c.field 0x18 8) then s.complete q 0x0F 0 0
  else
    let run := (s.jobs.filter (fun p => p.2.running && !p.2.ended)).map (fun p => p.1)
    let s1 : State := { s with draws := s.draws + 1 + stateLength s.draws }
    ((run.foldl (fun t j => t.haltJob j) s1).begin q run).onCmd q (fun d => { d with draw := s.draws })

/-- The jobs that CKPT halted go on where they were. -/
def State.goOn (s : State) (j : Nat) : State :=
  match s.job? j with
  | some x =>
    (match x.st, x.saved with
      | .preempted, some v => s.restoreJob j v.rect v.dx v.dy
      | _, _ => s)
  | none => s

/-- The transfer to the attic, with the parts of save areas that lie outside HBM. Where the attic fails, as much as a free number says of
what follows the header has been written, and the header has not (R45). -/
def State.writeImage (s : State) (c : Cmd) (attic : AtticOutcome) (copied : List (Nat × Nat × List Byte)) : State :=
  let base := c.field 0x10 8
  let bytes := (s.imageSizes c.done c.draw).bytes
  let m := s.image base c.done c.draw copied
  match attic with
  | .ioError =>
    let (s1, d) := s.draw
    { s1 with hostMem := splice s.hostMem m (base + 0x1000) (base + 0x1000 + (Config.freeWord d).toNat % (bytes - 0x1000)) }
  | out =>
    { s with
      hostMem := splice s.hostMem m base (base + bytes)
      attics := Table.put s.attics c.draw (s.atticRecord base c.done c.draw copied (out == .performed)) }

/-- CKPT ends: the image is written, or the attic failed, and the halted jobs go on unless the command says STOP. -/
def State.endCkpt (s : State) (q : Nat) (c : Cmd) (attic : AtticOutcome) : State :=
  if !s.atticPasses then s
  else
    match s.readOutside q (s.copiedParts c.done) with
    | .error t => s.keepAsks t
    | .ok (t, copied) =>
      let s1 := t.writeImage c attic copied
      let s2 := if bitAt (c.field 0x20 1) 0 then s1 else c.done.foldl (fun t j => t.goOn j) s1
      (s2.complete q (if attic = .ioError then 0x0E else 0)
        (if attic = .ioError then 0 else (t.imageSizes c.done c.draw).bytes) 0).finishAllocs

/-- CKPT. -/
def execCkpt (q : Nat) (attic : AtticOutcome) (s : State) : Host.Outcome State Fault Refusal :=
  s.powered (fun t =>
    match t.turn q 0x13 with
    | none => t
    | some c => if !c.begun then t.startCkpt q c else if c.waits.isEmpty then t.endCkpt q c attic else t)

/-! ## RESTORE (R46) -/

/-- A token that named the saved device names this one. -/
def Token.renamed (t : Token) (old new : BitVec 10) : Token := if t.dev = old then { t with dev := new } else t

/-- Staged sends and replies under the new device id. -/
def Staged.renamed (x : Staged) (old new : BitVec 10) : Staged :=
  match x with
  | .send t i => .send (t.renamed old new) i
  | .steal v t => .steal v (t.renamed old new)
  | .stealReply n t => .stealReply n (t.renamed old new)
  | y => y

/-- The saved tokens of a core under the new device id. -/
def SavedCore.renamed (v : SavedCore) (old new : BitVec 10) : SavedCore :=
  { v with
    buffer := v.buffer.map (fun t => t.renamed old new)
    groups := v.groups.map (fun g => { g with lanes := g.lanes.map (fun l => { l with
      staged := l.staged.map (fun x => x.renamed old new)
      inputs := l.inputs.map (fun t => t.renamed old new)
      first := l.first.renamed old new }) })
    mailbox := v.mailbox.map (fun m => { m with reply := m.reply.renamed old new }) }

/-- A job of an image as it reopens: timers begin now. -/
def Job.reopened (x : Job) (old new : BitVec 10) (clock : Nat) : Job :=
  { x with
    insts := x.insts.map (fun (i, v) => (i, { v with progress := clock, reported := clock }))
    saved := x.saved.map (fun v => { v with cores := if old = new then v.cores else v.cores.map (fun k => k.renamed old new) }) }

/-- A saved token in a cellar: `DEV` stands in bits [63:54] of its first word (Table 10.7). -/
def renamedSlot (bs : List Byte) (old new : BitVec 10) : List Byte :=
  let w := recNat bs 0 8
  if w / 2 ^ 54 = old.toNat then natLe 8 (w % 2 ^ 54 + new.toNat * 2 ^ 54) ++ bs.drop 8 else bs

/-- The header of an image, as the attic gives it back. -/
def State.headerAt (s : State) (base : Nat) : List Byte := s.hostRead base 0x1000

/-- The sizes that a header gives. -/
def headerSizes (h : List Byte) : ImageSizes where
  floors := recNat h 0x2E0 8
  banks := recNat h 0x2E8 8
  jobs := recNat h 0x2F0 8
  poison := recNat h 0x2F8 8

/-- The floors that a header names. -/
def headerFloors (h : List Byte) : List Nat := (List.range 128).filter (fun f => bitAt (recNat h 0x50 16) f)

/-- A valid header of format version 1, with a security version that the fuses admit. -/
def headerGood (h : List Byte) (svn : Nat) : Bool :=
  recNat h 0 4 == 0x41545443 && recNat h 4 4 == 1 && recNat h 8 4 == 1 && decide (recNat h 0x18 8 ≤ svn)

/-- Every extent's CRC matches the check table. -/
def State.checksMatch (s : State) (base bytes : Nat) : Bool :=
  (List.range (extents bytes)).all (fun k => recNat (s.hostRead (base + 0x1000 + 8 * k) 8) 0 8 == (extentCrc s.hostMem base bytes k).toNat)

/-- The job-state section at `base` is the one that a record describes. -/
def State.holdsRecord (s : State) (base : Nat) (a : Attic) : Bool :=
  let bs := stateBytes a.len a.draw a.copied
  s.hostRead (base + a.at_) bs.length == bs

/-- What the job-state section of the image at `base` says: the record written there, or one whose image has been brought there. -/
def State.recordAt (s : State) (base : Nat) : Option Attic :=
  ((s.attics.reverse.find? (fun p => p.2.base == base && s.holdsRecord base p.2)).or
    (s.attics.reverse.find? (fun p => s.holdsRecord base p.2))).map (fun p => p.2)

/-- The floors of an image with what they held: every region of a floor has been written. -/
def State.refillFloors (s : State) (base : Nat) (h : List Byte) : State :=
  let z := headerSizes h
  let s1 := (headerFloors h).zipIdx.foldl (fun t (f, i) =>
    let u := (t.wipeFloor f).lightRoom (f / 16)
    let at_ := base + sectionsAt + i * 2 ^ 32
    let cells := (Memory.within s.hostMem at_ (at_ + 2 ^ 32)).map (fun p => (p.1 - at_, p.2))
    { u with
      floors := Table.put u.floors f { st := .lit, cleared := List.range 65536 }
      mem := putCells u.mem (f * 2 ^ 32) cells }) s
  let list := base + sectionsAt + z.floors + z.banks + z.jobs
  { s1 with poison := s1.poison ++ (List.range z.poison).map (fun i => recNat (s.hostRead (list + 8 * i) 8) 0 8 / 64) }

/-- `SKIP0` to `SKIP3` of a `MESHMAP` value (Table 1.2). -/
def skipsOf (m : Nat) : List Nat := (List.range 4).map (fun i => bits m (3 * i) 3)

/-- The tile-store byte address of a place in a bank (R153). -/
def unbank (b o : Nat) : Nat := b / 8 * (groupUnits * 64) + (o / 64 * 8 + b % 8) * 64 + o % 64

/-- The tile-store banks that a header names, in the order of the bank section: sites with their banks. -/
def headerBanks (h : List Byte) : List (Nat × Nat) :=
  (List.range 80).flatMap (fun y => ((List.range 64).filter (fun b => bitAt (recNat h (0x60 + 8 * y) 8) b)).map (fun b => (y, b)))

/-- What the bank section of the image at `base` holds of a site's tile store. -/
def State.imageStore (s : State) (base : Nat) (h : List Byte) (site : Nat) : Memory :=
  let at0 := base + sectionsAt + (headerSizes h).floors
  (headerBanks h).zipIdx.foldl (fun m ((y, b), i) =>
    if y = site then
      let lo := at0 + i * bankBytes
      (Memory.within s.hostMem lo (lo + bankBytes)).foldl (fun m p => Memory.set m (unbank b (p.1 - lo)) p.2) m
    else m) []

/-- The tiles of a saved core with what a tile store holds. -/
def SavedCore.fromStore (v : SavedCore) (store : Memory) : SavedCore :=
  { v with store := v.tiles.map (fun (i, t) =>
      (i, (Memory.within store (64 * t.base) (64 * (t.base + t.units))).map (fun p => (p.1 - 64 * t.base, p.2)))) }

/-- A job that the CKPT halted, with the tiles that the image's bank section holds: they stand at the saved device's sites (R44, R46). -/
def State.fromBanks (s : State) (base : Nat) (h : List Byte) (x : Job) : Job :=
  let skips := skipsOf (recNat h 0x10 8)
  { x with saved := x.saved.map (fun v => { v with cores := v.cores.map (fun k =>
      match x.asSaved.devCore k.core with
      | some c => k.fromStore (s.imageStore base h (siteOf skips c))
      | none => k) }) }

/-- RESTORE fails once floors have been woken: those are DARK again, and no job is open. -/
def State.restoreFails (s t : State) (h : List Byte) : State :=
  let woken := (headerFloors h).filter (fun f => (s.floor f).st == .dark)
  let t1 := t.jobs.foldl (fun u p => u.dropTlbs p.1) t
  woken.foldl (fun u f =>
    let v := u.wipeFloor f
    { v with floors := Table.put v.floors f {} }) { t1 with jobs := [], faults := s.faults }

/-- The floors that a failed check had woken: their rooms are awake. -/
def State.wokenInVain (s : State) (h : List Byte) : State :=
  ((headerFloors h).filter (fun f => (s.floor f).st == .dark)).foldl (fun t f => t.lightRoom (f / 16)) s

/-- Write spans at virtual addresses of jobs: an access that faults ends it, and so does one that waits. -/
def State.writeOutside (s : State) (q : Nat) : List (Nat × Nat × List Byte) → State × VGot
  | [] => (s, .data [])
  | (j, va, bs) :: rest =>
    match s.vwrite (atticOwner q j) none j va bs with
    | (t, .data _) => State.writeOutside t q rest
    | g => g

/-- The slots of a job's cellars that hold tokens: their addresses. -/
def Job.cellarSlots (x : Job) : List Nat :=
  x.cellars.flatMap (fun p => (upFrom p.2.head p.2.count).map (fun i => p.2.va + i % p.2.slots * 32))

/-- The tokens of a job's cellars under the new device id; one that cannot be read stays as it is (log entry 60). -/
def State.renameSlots (s : State) (q j : Nat) (old new : BitVec 10) : List Nat → State × VGot
  | [] => (s, .data [])
  | va :: rest =>
    match s.vread (atticOwner q j) none j va 32 with
    | (t, .wait) => (t, .wait)
    | (t, .data bs) =>
      if renamedSlot bs old new = bs then State.renameSlots t q j old new rest
      else
        (match t.vwrite (atticOwner q j) none j va (renamedSlot bs old new) with
          | (u, .data _) => State.renameSlots u q j old new rest
          | g => g)
    | (t, _) => State.renameSlots t q j old new rest

/-- The same for every job. -/
def State.renameCellars (s : State) (q : Nat) (old new : BitVec 10) : Table Job → State × VGot
  | [] => (s, .data [])
  | (j, x) :: rest =>
    match s.renameSlots q j old new x.cellarSlots with
    | (t, .data _) => State.renameCellars t q old new rest
    | g => g

/-- The fabric instances of the restored jobs are cancelled (R126). -/
def State.cancelFabric (s : State) (j : Nat) : State :=
  (s.job j).insts.foldl (fun t (i, v) => if ((s.job j).fabricOf v).isSome then t.cancelInst j i else t) s

/-- The jobs of an image stand PREEMPTED, over its floors; the tiles of those that the CKPT halted come from its bank section. -/
def State.reopen (s : State) (base : Nat) (h : List Byte) (a : Attic) : State :=
  let s1 := s.refillFloors base h
  { s1 with
    jobs := a.jobs.map (fun (j, x) =>
      (j, (if a.halted.contains j then s.fromBanks base h x else x).reopened a.devnum s.host.devnum s.clock))
    faults := s1.faults ++ a.faults
    nextId := max s1.nextId a.nextId
    faultSeq := a.faultSeq.foldl (fun t p => Table.modify t p.1 0 (fun n => max n p.2)) s1.faultSeq }

/-- What was copied is written back through the restored tables, and saved tokens take the new device id. -/
def State.writeBack (s : State) (q : Nat) (a : Attic) : State × VGot :=
  match s.writeOutside q a.copied with
  | (t, .data _) => if a.devnum = s.host.devnum then (t, .data []) else t.renameCellars q a.devnum s.host.devnum t.jobs
  | g => g

/-- RESTORE of an image whose extents are sound. -/
def State.restoreFrom (s : State) (q base : Nat) (h : List Byte) (a : Attic) : State :=
  if a.layout ≠ (Config.saveVersion s.hkc.signedHash).toNat then (s.wokenInVain h).complete q 0x11 0 0
  else
    match (s.reopen base h a).writeBack q a with
    | (t, .wait) => s.keepSent t
    | (t, .data _) =>
      let js := a.jobs.map (fun p => p.1)
      (if a.devnum = s.host.devnum then t else js.foldl (fun u j => (u.cancelFabric j).settle j settleBound) t).complete q 0 (maskOf js) 0
    | (t, _) => (s.restoreFails t h).complete q 0x11 0 0

/-- RESTORE: its checks in turn, then all of it. -/
def State.restoreImage (s : State) (q : Nat) (c : Cmd) (attic : AtticOutcome) : State :=
  let base := c.field 0x10 8
  let h := s.headerAt base
  let bytes := (headerSizes h).bytes
  if base % 4096 ≠ 0 then s.complete q 2 0 0
  else if s.hkc.level != .full || !s.jobs.isEmpty then s.complete q 0x11 0 0
  else if !s.atticPasses then s
  else if attic = .ioError then s.complete q 0x0E 0 0
  else if !headerGood h s.hkc.svn then s.complete q 0x11 0 0
  else if c.field 0x18 8 < bytes then s.complete q 0x0F 0 0
  else if attic = .corrupt || !s.checksMatch base bytes then (s.wokenInVain h).complete q 0x10 0 0
  else
    match s.recordAt base with
    | none => (s.wokenInVain h).complete q 0x11 0 0
    | some a => if a.sound then s.restoreFrom q base h a else (s.wokenInVain h).complete q 0x10 0 0

/-- RESTORE. -/
def execRestore (q : Nat) (attic : AtticOutcome) (s : State) : Host.Outcome State Fault Refusal :=
  s.powered (fun t =>
    match t.turn q 0x14 with
    | none => t
    | some c => (t.restoreImage q c attic).finishAllocs)

end Sys2Proof.Machine
end

