-- ==== Sys2Proof/Machine/Lanes.lean ====
section
/-! DEFINITION. The shapes that the words of the R and I formats share: which sources a word reads, the value and the
flags it gives, and where its result goes (R253, R254, R278, R279). -/

namespace Sys2Proof.Machine

/-- What a word computes: its result and the flags it raises. -/
abbrev Result := W64 × Flags

/-- A result that raises no flag. -/
def quietly (v : W64) : Result := (v, flNone)

/-- Put a result in D and raise its flags. -/
def Firing.result (l : Firing) (d : Spec) (r : Result) : Except Trap Firing := (l.raise r.2).writeD d r.1

/-- A word that reads A. -/
def unary (w : RWord) (f : Firing → W64 → Except Trap Result) : LaneFn :=
  lane fun s c l => do
    let (a, l1) ← l.read s c w.a
    let r ← f l1 a
    l1.result w.d r

/-- A word that reads A and B. -/
def binary (w : RWord) (f : Firing → W64 → W64 → Except Trap Result) : LaneFn :=
  lane fun s c l => do
    let (a, l1) ← l.read s c w.a
    let (b, l2) ← l1.read s c w.b
    let r ← f l2 a b
    l2.result w.d r

/-- A word that reads A, B and C. -/
def ternary (w : RWord) (f : Firing → W64 → W64 → W64 → Except Trap Result) : LaneFn :=
  lane fun s c l => do
    let (a, l1) ← l.read s c w.a
    let (b, l2) ← l1.read s c w.b
    let (x, l3) ← l2.read s c w.c
    let r ← f l3 a b x
    l3.result w.d r

/-- A comparison: a predicate or the PRED layout (R304). -/
def compares (w : RWord) (f : W64 → W64 → Bool × Flags) : LaneFn :=
  lane fun s c l => do
    let (a, l1) ← l.read s c w.a
    let (b, l2) ← l1.read s c w.b
    let r := f a b
    (l2.raise r.2).writeCond w.d r.1

end Sys2Proof.Machine
end

