-- ==== Sys2Proof/Machine/ControlWords.lean ====
section
/-! DEFINITION. Sends, tags, frame slots, steering, range stealing and the local system words (R282 to R298, R386 to R393),
and how a word of any format stages a request (R286, R357). -/

namespace Sys2Proof.Machine

/-! ## Requests -/

/-- The request that a word of a firing makes: it carries the outgoing tag and DIM that hold at the word (R286, R357). -/
def Firing.ask (l : Firing) (s : State) (c : Nat) (i : Instr) (cent : BitVec 7) (cport : Port) (a b d : W64) : Req :=
  { job := l.job
    inst := l.inst
    core := s.coreFor c l
    frame := l.frame
    block := l.block
    index := l.pc
    entry := l.entry
    instr := i
    cent := cent.toNat
    cport := cport.code
    a := a
    b := b
    d := d
    tag := l.otag
    dim := l.odim
    ftag := l.tag }

/-- An R-format request, which names no continuation: it reads A and B. -/
def requestR (w : RWord) (i : Instr) (chk : State → Nat → Firing → Req → Except Trap Req) : LaneFn :=
  lane fun s c l => do
    let (a, l1) ← l.read s c w.a
    let (b, l2) ← l1.read s c w.b
    let r ← chk s c l2 (l2.ask s c i 0 .l a b 0)
    return l2.stage (.request r)

/-- An M-format request: it reads A, B and D, and the form checks them (R358). -/
def requestM (w : MWord) (i : Instr) (chk : State → Nat → Firing → Req → Except Trap Req) : LaneFn :=
  lane fun s c l => do
    let (a, l1) ← l.read s c w.a
    let (b, l2) ← l1.read s c w.b
    let (d, l3) ← l2.read s c w.d
    let r ← chk s c l3 (l3.ask s c i w.cent w.cport a b d)
    return l3.stage (.request r)

/-- No check at the word. -/
def unchecked (_ : State) (_ : Nat) (_ : Firing) (r : Req) : Except Trap Req := .ok r

/-- A check that needs the request alone. -/
def needs (t : Trap) (ok : Req → Bool) (_ : State) (_ : Nat) (_ : Firing) (r : Req) : Except Trap Req := do
  check t (ok r)
  return r

/-! ## Sends (R283) -/

/-- The value that a send takes: none is read with `STY` 0, and a tile's handle is checked (R285). -/
def Firing.sendValue (l : Firing) (s : State) (c : Nat) (w : SWord) (sp : Spec) : Except Trap (W64 × Firing) := do
  if w.sty = .ctrl then return (0, l)
  let (v, l1) ← l.read s c sp
  if w.sty = .tile then check .tileStale (l1.handleOk s c v)
  return (w.sty.layout v, l1)

/-- The tag of a send (`TPOL`). -/
def Firing.sendTag (l : Firing) (w : SWord) (d : W64) : W32 :=
  match w.tpol with
  | .outgoing => l.otag
  | .operand => BitVec.ofNat 32 (z32 d)
  | .outgoingPlusOne => l.otag + 1

/-- The DIM of a send (`DPOL`). -/
def Firing.sendDim (l : Firing) (w : SWord) : Nat :=
  match w.dpol with
  | .outgoing => l.odim
  | .zero => 0
  | .seven => 7

/-- Where a send goes. -/
structure Target where
  dev : Nat
  core : Nat
  frame : Nat
  entry : Nat
  port : Nat

/-- The token of a send (R283, Table 10.7). -/
def Firing.sendToken (l : Firing) (jc : Nat) (w : SWord) (x : Target) (tag : W32) (v : W64) : Token :=
  { dev := BitVec.ofNat 10 x.dev
    core := BitVec.ofNat 7 x.core
    frame := BitVec.ofNat 19 x.frame
    block := w.tblk
    entry := BitVec.ofNat 7 x.entry
    port := BitVec.ofNat 2 x.port
    job := BitVec.ofNat 6 l.job
    tag := tag
    type := BitVec.ofNat 5 w.sty.code
    dim := BitVec.ofNat 3 (l.sendDim w)
    cls := if w.sty = .tile then 1 else 0
    src := BitVec.ofNat 7 jc
    w2 := v
    inst := l.inst }

/-- The core, device and job-logical core that a send leaves from, with a frame and the word's own target. -/
def Firing.here (l : Firing) (s : State) (c : Nat) (w : SWord) (frame : Nat) : Target :=
  { dev := s.devnum, core := s.coreFor c l, frame := frame, entry := w.tent.toNat, port := w.tport.code }

/-- A send of A to the target that B and D choose. -/
def sends (w : SWord) (target : State → Nat → Firing → W64 → W64 → Target) : LaneFn :=
  lane fun s c l => do
    let (v, l1) ← l.sendValue s c w w.a
    let (b, l2) ← l1.read s c w.b
    let (d, l3) ← l2.read s c w.d
    let t := l3.sendToken (s.coreFor c l3) w (target s c l3 b d) (l3.sendTag w d) v
    return l3.stage (.send t l3.pc)

/-- SEND2: A to port L, then B to port R (R282). -/
def sendsPair (w : SWord) : LaneFn :=
  lane fun s c l => do
    let (v, l1) ← l.sendValue s c w w.a
    let (u, l2) ← l1.sendValue s c w w.b
    let (d, l3) ← l2.read s c w.d
    let at_ (port : Nat) : Target := { l3.here s c w (fpBase d) with port := port }
    let t (port : Nat) (x : W64) : Token := l3.sendToken (s.coreFor c l3) w (at_ port) (l3.sendTag w d) x
    return (l3.stage (.send (t 0 v) l3.pc)).stage (.send (t 1 u) l3.pc)

/-! ## Frame slots -/

/-- Size of a firing's frame. -/
def Firing.frameSize (l : Firing) (k : Core) : Nat :=
  match k.frameAt l.job l.frame with
  | some f => f.size
  | none => (match k.blockOf l.job l.block with | some b => b.fsize | none => 0)

/-- The computed index of LDF and STF (R290). -/
def Firing.slotIndex (l : Firing) (k : Core) (v : W64) : Except Trap Nat := do
  check .frameBad (!l.frameless && decide (z32 v < l.frameSize k))
  return z32 v

/-- The slot that KEEP and DROP name. -/
def Firing.keptSlot (l : Firing) (d : Spec) : Except Trap Nat :=
  match d with
  | .slot i => if l.frameless then .error .frameBad else .ok (l.frame + i.val)
  | _ => .error .frameBad

/-! ## Range stealing -/

/-- The oldest request of a mailbox that RSPLIT may reserve (R297). -/
def Core.stealFor (k : Core) (l : Firing) : Option StealReq :=
  k.mailbox.find? (fun m => m.job == l.job && m.inst == l.inst && !m.reserved)

/-- RSPLIT (R297). -/
def splits (w : RWord) : LaneFn := fun s c l => do
  let (a, l1) ← l.read s c w.a
  let lo := bits a.toNat 0 32
  let hi := bits a.toNat 32 32
  check .type (decide (lo ≤ hi))
  match (s.core c).stealFor l1 with
  | none =>
    let l2 ← l1.writeD w.d a
    return (s, l2)
  | some q =>
    let s1 := s.onCore c (fun k => { k with
      mailbox := k.mailbox.map (fun m => if m.id = q.id then { m with reserved := true } else m) })
    let mid := lo + (hi - lo) / 2
    let (kept, given) := if 2 ≤ hi - lo then (rangeVal lo mid, rangeVal mid hi) else (a, 0)
    let reply := { q.reply with w2 := given, src := BitVec.ofNat 7 (s.coreFor c l1) }
    let l2 ← l1.writeD w.d kept
    return (s1, l2.stage (.stealReply q.id reply))

/-- STEAL (R296): the request to core A, with the reply's destination. -/
def steals (w : SWord) : LaneFn :=
  lane fun s c l => do
    let (a, l1) ← l.read s c w.a
    let (b, l2) ← l1.read s c w.b
    let reply := l2.sendToken (s.coreFor c l2) w { l2.here s c w (fpBase b) with dev := fpDev b } l2.otag 0
    return l2.stage (.steal (z32 a) reply)

/-! ## Local system words -/

/-- A counter of the issuing core and job (R174, R391). -/
def Core.counter (k : Core) (j i : Nat) : W64 := if i < 20 then Table.getD k.perf (64 * j + i) 0 else 0

/-- The operand of FLAGS `.set` and `.join` (R392). -/
def flagsOperand (v : W64) : Except Trap (BitVec 5) := do
  check .type (bits v.toNat 5 59 == 0)
  return BitVec.ofNat 5 v.toNat

/-! ## Meanings -/

/-- SEND (R282). -/
def execSend (w : SWord) (s : State) : Host.Outcome State Fault Refusal :=
  word (.s w) (sends w fun s c l b _ => l.here s c w (fpBase b)) s

/-- SEND2 (R282). -/
def execSend2 (w : SWord) (s : State) : Host.Outcome State Fault Refusal := word (.s w) (sendsPair w) s

/-- SENDX (R282). -/
def execSendx (w : SWord) (s : State) : Host.Outcome State Fault Refusal :=
  word (.s w) (sends w fun s c l b _ => { l.here s c w (fpBase b) with dev := fpDev b, core := fpCore b }) s

/-- STEER (R282). -/
def execSteer (w : SWord) (s : State) : Host.Outcome State Fault Refusal :=
  word (.s w) (sends w fun s c l b d => { l.here s c w (fpBase b) with entry := w.tent.toNat + d.toNat % 2 }) s

/-- MERGE (R282). -/
def execMerge (w : SWord) (s : State) : Host.Outcome State Fault Refusal :=
  word (.s w) (sends w fun s c l b d => { l.here s c w (fpBase b) with port := d.toNat % 2 }) s

/-- FALLOC (R287). -/
def execFalloc (w : MWord) (s : State) : Host.Outcome State Fault Refusal :=
  word (.m w) (requestM w (.falloc w) fun s _ _ r => do
    check .type (decide (z32 r.a < 4096) && (s.devCore r.job (z32 r.b)).isSome)
    return r) s

/-- FFREE (R288). -/
def execFfree (w : RWord) (s : State) : Host.Outcome State Fault Refusal :=
  word (.r w) (requestR w (.ffree w) fun s _ _ r => do
    check .type (fpDev r.a == s.devnum)
    return r) s

/-- FLIMIT (R289). -/
def execFlimit (w : RWord) (s : State) : Host.Outcome State Fault Refusal :=
  word (.r w) (lane fun s c l => do
    let (a, l1) ← l.read s c w.a
    let (b, l2) ← l1.read s c w.b
    check .type (decide (b.toNat < 256))
    check .blockAbsent ((s.core c).blockOf l2.job (z32 a)).isSome
    return l2.stage (.flimit (z32 a) b.toNat)) s

/-- LDF (R290). -/
def execLdf (w : RWord) (s : State) : Host.Outcome State Fault Refusal :=
  word (.r w) (lane fun s c l => do
    let (a, l1) ← l.read s c w.a
    let i ← l1.slotIndex (s.core c) a
    let (v, l2) ← l1.readSlot (s.core c) i
    l2.writeD w.d v) s

/-- STF (R290). -/
def execStf (w : RWord) (s : State) : Host.Outcome State Fault Refusal :=
  word (.r w) (lane fun s c l => do
    let (a, l1) ← l.read s c w.a
    let (b, l2) ← l1.read s c w.b
    let i ← l2.slotIndex (s.core c) a
    l2.writeSlot i b) s

/-- TAGS (R286). -/
def execTags (w : RWord) (s : State) : Host.Outcome State Fault Refusal :=
  word (.r w) (lane fun s c l => do
    let (a, l1) ← l.read s c w.a
    return { l1 with otag := BitVec.ofNat 32 (z32 a) }) s

/-- TAGI (R286). -/
def execTagi (w : IWord) (s : State) : Host.Outcome State Fault Refusal :=
  word (.i w) (lane fun _ _ l => return { l with otag := l.otag + w.imm }) s

/-- DIMS (R286). -/
def execDims (w : RWord) (s : State) : Host.Outcome State Fault Refusal :=
  word (.r w) (lane fun s c l => do
    let (a, l1) ← l.read s c w.a
    check .type (a != 6 && decide (a.toNat ≤ 7))
    return { l1 with odim := a.toNat }) s

/-- DROP (R292). -/
def execDrop (w : RWord) (s : State) : Host.Outcome State Fault Refusal :=
  word (.r w) (lane fun _ _ l => do
    let i ← l.keptSlot w.d
    return l.stage (.drop i)) s

/-- KEEP (R292). -/
def execKeep (w : RWord) (s : State) : Host.Outcome State Fault Refusal :=
  word (.r w) (lane fun s c l => do
    let (a, l1) ← l.read s c w.a
    let i ← l1.keptSlot w.d
    check .tileStale (l1.handleOk s c a)
    return l1.stage (.keep i a l1.pc)) s

/-- SKIP (R293). -/
def execSkip (w : RWord) (s : State) : Host.Outcome State Fault Refusal :=
  word (.r w) (lane fun _ _ l => return { l with skipped := true }) s

/-- RSPLIT (R297). -/
def execRsplit (w : RWord) (s : State) : Host.Outcome State Fault Refusal := word (.r w) (splits w) s

/-- STEAL (R296). -/
def execSteal (w : SWord) (s : State) : Host.Outcome State Fault Refusal := word (.s w) (steals w) s

/-- GDONE (R298). -/
def execGdone (w : RWord) (s : State) : Host.Outcome State Fault Refusal :=
  word (.r w) (requestR w (.gdone w) unchecked) s

/-- CANCEL (R294). -/
def execCancel (w : RWord) (s : State) : Host.Outcome State Fault Refusal :=
  word (.r w) (requestR w (.cancel w) (needs .type fun r =>
    w.mod == 0 || z32 r.a == 0xFFFFFFFF || decide (z32 r.a < 65536))) s

/-- SVRD (R386, R387). -/
def execSvrd (w : RWord) (s : State) : Host.Outcome State Fault Refusal :=
  word (.r w) (lane fun s c l => do
    let (a, l1) ← l.read s c w.a
    check .type (decide (z32 a < 32))
    l1.writeD w.d (((s.job l1.job).varsAt ((s.job l1.job).jobCore c)).getD (z32 a) 0)) s

/-- CLK (R391). -/
def execClk (w : RWord) (s : State) : Host.Outcome State Fault Refusal :=
  word (.r w) (lane fun s c l => do
    let (a, l1) ← l.read s c w.a
    check .type (decide (z32 a < 2))
    l1.writeD w.d (if z32 a = 0 then s.time else BitVec.ofNat 64 s.clock)) s

/-- PERF `.get` (R391). -/
def execPerfGet (w : RWord) (s : State) : Host.Outcome State Fault Refusal :=
  word (.r w) (lane fun s c l => do
    let (a, l1) ← l.read s c w.a
    check .type (decide (z32 a < 64))
    l1.writeD w.d ((s.core c).counter l1.job (z32 a))) s

/-- PERF `.set` (R391). -/
def execPerfSet (w : RWord) (s : State) : Host.Outcome State Fault Refusal :=
  word (.r w) (requestR w (.perfSet w) (needs .type fun r => decide (z32 r.a < 64))) s

/-- FLAGS `.get` (R392). -/
def execFlagsGet (w : RWord) (s : State) : Host.Outcome State Fault Refusal :=
  word (.r w) (lane fun s c l => l.writeD w.d (BitVec.ofNat 64 (Table.getD (s.core c).xflags l.job 0).toNat)) s

/-- FLAGS `.set` (R392). -/
def execFlagsSet (w : RWord) (s : State) : Host.Outcome State Fault Refusal :=
  word (.r w) (lane fun s c l => do
    let (a, l1) ← l.read s c w.a
    let f ← flagsOperand a
    return l1.stage (.flagsSet f)) s

/-- FLAGS `.join` (R392). -/
def execFlagsJoin (w : RWord) (s : State) : Host.Outcome State Fault Refusal :=
  word (.r w) (lane fun s c l => do
    let (a, l1) ← l.read s c w.a
    let f ← flagsOperand a
    return l1.stage (.flagsJoin f)) s

/-- TRAP (R393). -/
def execTrap (w : IWord) (s : State) : Host.Outcome State Fault Refusal :=
  word (.i w) (lane fun _ _ _ => .error (.soft w.imm)) s

/-- BRK (R393). -/
def execBrk (w : IWord) (s : State) : Host.Outcome State Fault Refusal :=
  word (.i w) (lane fun _ _ _ => .error (.brk w.imm)) s

/-- NOP (R393). -/
def execNop (w : RWord) (s : State) : Host.Outcome State Fault Refusal :=
  word (.r w) (lane fun _ _ l => return l) s

end Sys2Proof.Machine
end

