-- ==== Sys2Proof/Machine/FloatWords.lean ====
section
/-! DEFINITION. The scalar floating-point words, CVT, and the evaluations of kernel slots (R308 to R315, R319, R320). -/

namespace Sys2Proof.Machine

/-! ## Values -/

/-- The format of a word's `TY`; FP32 where the type is no float, which R264 rejects. -/
def fmtOf (ty : ScalarTy) : FloatFmt := ty.float.getD .fp32

/-- The rounding mode of RN and RM. -/
def modeOf (w : RWord) : RMode := RMode.ofNat (bits w.mod.toNat 0 3)

/-- The SR draw of a word from its seed (R309). -/
def seedDraw (l : Firing) (seed : W64) : Nat := (mix32 (BitVec.ofNat 32 (z32 seed)) l.tag 0).toNat

/-- `fput` of an exact value, with the flags of the operation and of its rounding (R308, R213). The infinity of a division
by zero is R213's result in every mode; any other infinity goes through `round_to` and Table 8.6. -/
def roundResult (f : FloatFmt) (mode : RMode) (h : Nat) (x : Val × Flags) : Result :=
  match x with
  | (.inf n, 8) => (BitVec.ofNat 64 (f.infCode n), flDZ)
  | _ =>
    let (c, g) := roundTo f x.1 mode false h
    (BitVec.ofNat 64 c, x.2 ||| g)

/-- A form that returns an infinite operand as it is (R310). -/
def keepingInf (f : FloatFmt) (x : Val) (r : Result) : Result :=
  match x with
  | .inf n => quietly (BitVec.ofNat 64 (f.infCode n))
  | _ => r

/-- A rounded form of one operand, its seed in B. -/
def float1 (w : RWord) (op : Val → Val × Flags) : LaneFn :=
  binary w fun l a seed => .ok (roundResult (fmtOf w.ty) (modeOf w) (seedDraw l seed) (op (fval (fmtOf w.ty) a)))

/-- A rounded form of two operands, its seed in C. -/
def float2 (w : RWord) (op : Val → Val → Val × Flags) : LaneFn :=
  ternary w fun l a b seed =>
    .ok (roundResult (fmtOf w.ty) (modeOf w) (seedDraw l seed) (op (fval (fmtOf w.ty) a) (fval (fmtOf w.ty) b)))

/-- The mode rounds towards −∞, where an exact zero sum is −0 (R213). -/
def isDown (w : RWord) : Bool := modeOf w == .rd

/-- FRND (R310): zeros and infinities stay, a zero result keeps the sign, and only IX is raised. -/
def roundToInteger (f : FloatFmt) (mode : RMode) (h : Nat) (x : Val) : Result :=
  match x with
  | .nan s => (BitVec.ofNat 64 f.nanCode, flWhen s flIV)
  | .fin n m e s =>
    let (v, ix) := roundInt n m e s mode h
    let y : Val := if v = 0 then .zero n else intVal v
    (BitVec.ofNat 64 (roundTo f y .rne false 0).1, flWhen ix flIX)
  | z => quietly (BitVec.ofNat 64 (roundTo f z .rne false 0).1)

/-- FSCL's exponent (R309), clamped where every result is already beyond the format. -/
def scaleBy (b : W64) : Int := max (-8192) (min 8192 (sext 64 b.toNat))

/-- FCMP (R312). -/
def floatCompare (f : FloatFmt) (mod : BitVec 8) (a b : W64) : Bool × Flags :=
  let x := f.codeOf a
  let y := f.codeOf b
  let nan := if bitAt mod.toNat 4 then f.isNan x || f.isNan y else f.isSNan x || f.isSNan y
  (condHolds (bits mod.toNat 0 4) (cmpVal (f.val x) (f.val y)), flWhen nan flIV)

/-- The class bit of FCLS (R313). -/
def classOf (f : FloatFmt) (code : Nat) : Nat :=
  let tiny := bits code f.mbits f.ebits == 0
  match f.val code with
  | .nan s => if s then 8 else 9
  | .inf n => if n then 0 else 7
  | .zero n => if n then 3 else 4
  | .fin n _ _ _ => if n then (if tiny then 2 else 1) else (if tiny then 5 else 6)

/-- FXTR `.exp` (R314). -/
def exponentOf (x : Val) : Result :=
  match x with
  | .fin _ m e _ => quietly (iput .s32 (e + (m.log2 : Int)))
  | .zero _ => (iput .s32 (-(2 ^ 31 : Nat)), flDZ)
  | _ => (iput .s32 ((2 ^ 31 - 1 : Nat) : Int), flIV)

/-- FXTR `.sig` (R314). -/
def significandOf (f : FloatFmt) (x : Val) : Result :=
  match x with
  | .nan s => (BitVec.ofNat 64 f.nanCode, flWhen s flIV)
  | .fin n m _ s => quietly (BitVec.ofNat 64 (roundTo f (.fin n m (-(m.log2 : Int)) s) .rne false 0).1)
  | z => quietly (BitVec.ofNat 64 (roundTo f z .rne false 0).1)

/-- FABS, FNEG and FCPS (R311): a sign for the operand's bits, a NaN quieted. -/
def withSign (f : FloatFmt) (a : W64) (neg : Bool) : Result :=
  let m := f.codeOf a % f.signBit
  quietly (BitVec.ofNat 64 (f.quiet (m + b2n neg * f.signBit)))

/-- The sign bit of an operand. -/
def signOf (f : FloatFmt) (a : W64) : Bool := bitAt (f.codeOf a) (f.width - 1)

/-- FMIN, FMAX, FMINN and FMAXN (R311). -/
def chooses (w : RWord) (wantMax number : Bool) : LaneFn :=
  binary w fun _ a b =>
    let f := fmtOf w.ty
    let (c, g) := f.minMax wantMax number (f.codeOf a) (f.codeOf b)
    .ok (BitVec.ofNat 64 c, g)

/-- CVT (R315). -/
def convert (w : RWord) (l : Firing) (a seed : W64) : Except Trap Result :=
  match cvtScalar w.ty w.ty2 a (modeOf w) (bitAt w.mod.toNat 3) (seedDraw l seed) with
  | some r => .ok r
  | none => .error .type

/-- The FP32 code of an operand, BF16 widened exactly (R220). -/
def pointOf (ty : ScalarTy) (a : W64) : Nat := if ty = .bf16 then bits a.toNat 0 16 * 2 ^ 16 else bits a.toNat 0 32

/-- PWEV (R319). -/
def evalPwl (k : Core) (l : Firing) (w : RWord) (a : W64) : Result :=
  let (y, g) := (k.kernel l.job (bits w.mod.toNat 0 4)).poly? (pointOf w.ty a)
  if w.ty = .bf16 then roundResult .bf16 .rne 0 (FloatFmt.fp32.val y, g) else (BitVec.ofNat 64 y, g)

/-- LUTEV (R320). -/
def evalLut (k : Core) (l : Firing) (w : RWord) (a : W64) : Result :=
  let r := k.evalTable l.job (bits w.mod.toNat 0 4) (bits a.toNat 0 32)
  (BitVec.ofNat 64 r.1, r.2)

/-! ## Meanings -/

/-- FADD (R309). -/
def execFadd (w : RWord) (s : State) : Host.Outcome State Fault Refusal :=
  word (.r w) (float2 w fun x y => addVal x y (isDown w)) s

/-- FSUB (R309). -/
def execFsub (w : RWord) (s : State) : Host.Outcome State Fault Refusal :=
  word (.r w) (float2 w fun x y => addVal x y.negate (isDown w)) s

/-- FMUL (R309). -/
def execFmul (w : RWord) (s : State) : Host.Outcome State Fault Refusal := word (.r w) (float2 w mulVal) s

/-- FFMA (R309): its SR seed is 0. -/
def execFfma (w : RWord) (s : State) : Host.Outcome State Fault Refusal :=
  word (.r w) (ternary w fun l a b x =>
    let f := fmtOf w.ty
    .ok (roundResult f (modeOf w) (seedDraw l 0) (fmaVal (fval f a) (fval f b) (fval f x) (isDown w)))) s

/-- FDIV (R309). -/
def execFdiv (w : RWord) (s : State) : Host.Outcome State Fault Refusal := word (.r w) (float2 w divVal) s

/-- FSQRT (R309). -/
def execFsqrt (w : RWord) (s : State) : Host.Outcome State Fault Refusal := word (.r w) (binary w fun l a seed =>
    let f := fmtOf w.ty
    let r := roundResult f (modeOf w) (seedDraw l seed) (sqrtVal (fval f a))
    .ok (if signOf f a then r else keepingInf f (fval f a) r)) s

/-- FRCP (R309). -/
def execFrcp (w : RWord) (s : State) : Host.Outcome State Fault Refusal :=
  word (.r w) (float1 w fun x => divVal (.fin false 1 0 false) x) s

/-- FRSQ (R309). -/
def execFrsq (w : RWord) (s : State) : Host.Outcome State Fault Refusal := word (.r w) (float1 w rsqrtVal) s

/-- FMIN (R311, R212). -/
def execFmin (w : RWord) (s : State) : Host.Outcome State Fault Refusal := word (.r w) (chooses w false false) s

/-- FMAX (R311, R212). -/
def execFmax (w : RWord) (s : State) : Host.Outcome State Fault Refusal := word (.r w) (chooses w true false) s

/-- FMINN (R311, R212). -/
def execFminn (w : RWord) (s : State) : Host.Outcome State Fault Refusal := word (.r w) (chooses w false true) s

/-- FMAXN (R311, R212). -/
def execFmaxn (w : RWord) (s : State) : Host.Outcome State Fault Refusal := word (.r w) (chooses w true true) s

/-- FABS (R311). -/
def execFabs (w : RWord) (s : State) : Host.Outcome State Fault Refusal :=
  word (.r w) (unary w fun _ a => .ok (withSign (fmtOf w.ty) a false)) s

/-- FNEG (R311). -/
def execFneg (w : RWord) (s : State) : Host.Outcome State Fault Refusal :=
  word (.r w) (unary w fun _ a => .ok (withSign (fmtOf w.ty) a (!signOf (fmtOf w.ty) a))) s

/-- FCPS (R311). -/
def execFcps (w : RWord) (s : State) : Host.Outcome State Fault Refusal :=
  word (.r w) (binary w fun _ a b => .ok (withSign (fmtOf w.ty) a (signOf (fmtOf w.ty) b))) s

/-- FCMP (R312). -/
def execFcmp (w : RWord) (s : State) : Host.Outcome State Fault Refusal :=
  word (.r w) (compares w (floatCompare (fmtOf w.ty) w.mod)) s

/-- FCLS (R313). -/
def execFcls (w : RWord) (s : State) : Host.Outcome State Fault Refusal :=
  word (.r w) (unary w fun _ a => .ok (quietly (BitVec.ofNat 64 (2 ^ classOf (fmtOf w.ty) ((fmtOf w.ty).codeOf a))))) s

/-- FRND (R309, R310). -/
def execFrnd (w : RWord) (s : State) : Host.Outcome State Fault Refusal :=
  word (.r w) (binary w fun l a seed =>
    .ok (roundToInteger (fmtOf w.ty) (modeOf w) (seedDraw l seed) (fval (fmtOf w.ty) a))) s

/-- FSCL (R309, R310). -/
def execFscl (w : RWord) (s : State) : Host.Outcome State Fault Refusal :=
  word (.r w) (ternary w fun l a b seed =>
    let f := fmtOf w.ty
    .ok (keepingInf f (fval f a) (roundResult f (modeOf w) (seedDraw l seed) (scaleVal (fval f a) (scaleBy b))))) s

/-- FXTR (R314). -/
def execFxtr (w : RWord) (s : State) : Host.Outcome State Fault Refusal :=
  word (.r w) (unary w fun _ a =>
    let f := fmtOf w.ty
    .ok (if bitAt w.mod.toNat 0 then significandOf f (fval f a) else exponentOf (fval f a))) s

/-- CVT (R315). -/
def execCvt (w : RWord) (s : State) : Host.Outcome State Fault Refusal :=
  word (.r w) (binary w fun l a seed => convert w l a seed) s

/-- PWEV (R319): the slot is read when the word issues (R321). -/
def execPwev (w : RWord) (s : State) : Host.Outcome State Fault Refusal :=
  word (.r w) (lane fun s c l => do
    let (a, l1) ← l.read s c w.a
    l1.result w.d (evalPwl (s.core c) l1 w a)) s

/-- LUTEV (R320). -/
def execLutev (w : RWord) (s : State) : Host.Outcome State Fault Refusal :=
  word (.r w) (lane fun s c l => do
    let (a, l1) ← l.read s c w.a
    l1.result w.d (evalLut (s.core c) l1 w a)) s

end Sys2Proof.Machine
end

