-- ==== Sys2Proof/Machine/HostEvents.lean ====
section
/-! DEFINITION. What the host writes: the registers of BAR0 (R32, R41, R43, R48 to R51, R54, R55, R64, R65) and the download of
the firmware image (R32, R35). -/

namespace Sys2Proof.Machine

/-- The host reaches the registers: port 0 is up and does not refuse traffic (R16, R52). -/
def State.hostReaches (s : State) : Bool := s.hkc.main && s.portOpen 0

/-- An event of the host at BAR0. -/
def State.fromHost (s : State) (f : State → State) : Host.Outcome State Fault Refusal := .next (if s.hostReaches then f s else s)

/-! ## Queues (R54, R55) -/

/-- A write of `QPROD`. -/
def State.writeQprod (s : State) (q : Nat) (v : W32) : State :=
  let x := s.queue q
  if x.entries < (v - x.cons).toNat then
    (s.setQueue q { x with prod := v, qerr := true }).event 0x0010 0xFF (natLe 1 q ++ natLe 4 v.toNat)
  else s.setQueue q { x with prod := v }

/-- `QLOG` as written. -/
def qlogOf (n : Nat) : Nat := if 4 ≤ n ∧ n ≤ 12 then n else 4

/-- A write of `QCTL`: setting `EN` resets `QCONS` and `CPROD`, and a 1 clears `QERR`. A command of the queue that is in flight
while `EN` is cleared goes on, and its completion is written into the ring as it stands then: R54 gives no other rule (the model's
choice, log entry 89). -/
def Queue.control (x : Queue) (v : Nat) : Queue :=
  let en := bitAt v 15
  let y := { x with
    en := en, qerr := x.qerr && !bitAt v 14, vec := BitVec.ofNat 6 (bits v 8 6)
    qlog := if x.en then x.qlog else qlogOf (bits v 0 4) }
  if en && !x.en then { y with cons := 0, cprod := 0, posting := none } else y

/-- A write of `QCTL` of a queue. A fetch that waits for another device is given up where it clears `EN`. -/
def State.writeQctl (s : State) (q : Nat) (v : W64) : State :=
  (if bitAt v.toNat 15 then s else s.dropOwner (fetchOwner q)).setQueue q ((s.queue q).control v.toNat)

/-- A write of `CCONS`. -/
def State.writeCcons (s : State) (q : Nat) (v : W32) : State := s.setQueue q { s.queue q with ccons := v }

/-- A base register as written: `LOC` and `ADDR`. -/
def baseOf (v : W64) : W64 := BitVec.ofNat 64 (bits v.toNat 63 1 * 2 ^ 63 + bits v.toNat 0 52)

/-- A write of `QBASE` or `CBASE`, ignored while the queue is enabled. R54 wants the base aligned and gives no effect for one that
is not: it is used as written (the model's choice, log entry 89). -/
def State.writeQbase (s : State) (q : Nat) (completions : Bool) (v : W64) : State :=
  let x := s.queue q
  if x.en then s
  else if completions then s.setQueue q { x with cbase := baseOf v } else s.setQueue q { x with qbase := baseOf v }

/-- QPROD. -/
def execQprod (q : Nat) (value : W32) (s : State) : Host.Outcome State Fault Refusal :=
  s.fromHost (fun t => if q < 16 then t.writeQprod q value else t)

/-- QUEUE_ENABLE: a write of `QCTL`. -/
def execQueueEnable (q : Nat) (value : W64) (s : State) : Host.Outcome State Fault Refusal :=
  s.fromHost (fun t => if q < 16 then t.writeQctl q value else t)

/-- QERR_CLEAR: a write of `QCTL` whose bit 14 is 1. -/
def execQerrClear (q : Nat) (value : W64) (s : State) : Host.Outcome State Fault Refusal :=
  s.fromHost (fun t => if q < 16 then t.writeQctl q (value ||| 0x4000) else t)

/-- CCONS. -/
def execCcons (q : Nat) (value : W32) (s : State) : Host.Outcome State Fault Refusal :=
  s.fromHost (fun t => if q < 16 then t.writeCcons q value else t)

/-! ## The event ring (R64, R65) -/

/-- Change the event ring. -/
def State.onRing (s : State) (f : EventRing → EventRing) : State :=
  { s with host := { s.host with events := f s.host.events } }

/-- A job that has returned to FREE leaves nothing on the device, whatever commands it took while its JOB_END waited (R93, R94). -/
def State.freed (s : State) (j : Nat) (x : Job) : State :=
  let t := (s.setJob j x).leaveCores j
  ({ t with jobs := Table.del t.jobs j }).rebuildFor x.cores

/-- Waiting end events are written as far as there is room. -/
def State.drainRing (s : State) : State :=
  let t := s.drainEvents s.host.events.waiting.length
  (s.jobs.filter (fun p => (t.job? p.1).isNone)).foldl (fun u p => u.freed p.1 p.2) t

/-- `ELOG` as written. -/
def elogOf (n : Nat) : Nat := if 6 ≤ n ∧ n ≤ 16 then n else 6

/-- A write of `EVCTL`: setting `EN` zeroes `EVPROD`, `EVLOST` and the sequence number. -/
def EventRing.control (r : EventRing) (v : Nat) : EventRing :=
  let en := bitAt v 15
  let y := { r with en := en, vec := BitVec.ofNat 6 (bits v 8 6), elog := if r.en then r.elog else elogOf (bits v 0 5) }
  if en && !r.en then { y with prod := 0, lost := 0, seq := 0 } else y

/-- A write of `EVCTL`. -/
def State.writeEvctl (s : State) (v : W64) : State := (s.onRing (fun r => r.control v.toNat)).drainRing

/-- A write of `EVCONS`. -/
def State.writeEvcons (s : State) (v : W32) : State := (s.onRing (fun r => { r with cons := v })).drainRing

/-- EVENT_RING_ENABLE: a write of `EVCTL`. -/
def execEventRingEnable (value : W64) (s : State) : Host.Outcome State Fault Refusal := s.fromHost (fun t => t.writeEvctl value)

/-- EVCONS. -/
def execEvcons (value : W32) (s : State) : Host.Outcome State Fault Refusal := s.fromHost (fun t => t.writeEvcons value)

/-! ## MSI-X (R51) -/

/-- A vector is unmasked: a pending message is sent once. -/
def State.unmask (s : State) (v : Nat) : State :=
  let h := s.host
  let h1 := { h with unmasked := if h.unmasked.contains v then h.unmasked else h.unmasked ++ [v] }
  if h.pending.contains v then { s with host := { h1 with pending := h.pending.filter (· != v), sent := h.sent ++ [v] } }
  else { s with host := h1 }

/-- A vector is masked. -/
def State.mask (s : State) (v : Nat) : State := { s with host := { s.host with unmasked := s.host.unmasked.filter (· != v) } }

/-- A 4-byte write of the MSI-X table: word 3 of an entry holds its mask in bit 0. -/
def State.writeMsix (s : State) (off : Nat) (v : W32) : State :=
  let s1 := { s with host := { s.host with msixTable := Memory.writeNat s.host.msixTable off 4 v.toNat } }
  if off % 16 = 12 then (if bitAt v.toNat 0 then s1.mask (off / 16) else s1.unmask (off / 16)) else s1

/-- MSIX_VECTOR_UNMASK. -/
def execMsixVectorUnmask (vector : Nat) (s : State) : Host.Outcome State Fault Refusal :=
  s.fromHost (fun t => if vector < 64 then t.unmask vector else t)

/-! ## The firmware mailbox (R32, R35) -/

/-- The download ends in a failure: every byte received is discarded. -/
def Hkc.downloadFails (h : Hkc) (code : BitVec 8) : Hkc :=
  { h with level := .romFail, failCode := code, received := 0, staging := [], mboxGo := false, imageIn := false }

/-- The largest image. -/
def imageLimit : Nat := 12 * 2 ^ 20

/-- The ROM takes the chunk that `FWMBOX` hands over. -/
def Hkc.takeChunk (h : Hkc) (offset len : Nat) (done : Bool) : Hkc :=
  if len = 0 || decide (65536 < len) || offset != h.received then h.downloadFails 3
  else if imageLimit < h.received + len then h.downloadFails 2
  else
    let h1 := if h.received = 0 && h.failCode ≠ 0 then { h with failCode := 0, edOk := false, mlOk := false, kslot := false } else h
    { h1 with
      staging := Memory.write (if h.received = 0 then [] else h.staging) h.received (Memory.read h.fwdata 0 len)
      received := h.received + len, mboxDone := done, mboxGo := false, imageIn := done }

/-- `FWMBOX` is open: the ROM waits for an image, and none that is complete waits for its verification. -/
def Hkc.mailboxOpen (h : Hkc) : Bool :=
  (h.level == .rom || h.level == .romFail) && !h.fwRuns && !h.imageIn

/-- A write of `FWMBOX`: with `GO` the ROM takes the chunk; without it the fields are stored and nothing is handed over. -/
def Hkc.writeMailbox (h : Hkc) (v : Nat) : Hkc :=
  if h.mailboxOpen then
    let h1 := { h with mboxOffset := BitVec.ofNat 32 (bits v 32 32), mboxDone := bitAt v 30, mboxLen := BitVec.ofNat 17 (bits v 0 17) }
    if bitAt v 31 then h1.takeChunk (bits v 32 32) (bits v 0 17) (bitAt v 30) else h1
  else h

/-- Change the housekeeping controller. -/
def State.onHkc (s : State) (f : Hkc → Hkc) : State := { s with hkc := f s.hkc }

/-- FWMBOX_CHUNK: the host writes `FWMBOX` with `GO` = 1. -/
def execFwmboxChunk (value : W64) (s : State) : Host.Outcome State Fault Refusal :=
  s.fromHost (fun t => t.onHkc (fun h => h.writeMailbox (value ||| 0x80000000).toNat))

/-! ## BAR0 (R48) -/

/-- Offset of a queue register within its queue, and the queue (Table 3.1). -/
def queueReg (off : Nat) : Option (Nat × Nat) :=
  if 0x30000 ≤ off ∧ off < 0x31000 ∧ (off - 0x30000) % 0x100 < 0x40 then some ((off - 0x30000) / 0x100, (off - 0x30000) % 0x100) else none

/-- The 8-byte registers that the host can write, by offset. -/
def wideReg (off : Nat) : Bool :=
  off == 0x08 || off == 0x1008 || off == 0x32000 || off == 0x32008
    || (decide (0x40000 ≤ off) && decide (off < 0x42000) && off % 8 == 0)
    || (match queueReg off with | some (_, o) => o == 0 || o == 8 || o == 0x10 | none => false)

/-- The low half of such a register as it stands. -/
def State.lowOf (s : State) (off : Nat) : Nat :=
  match queueReg off with
  | some (q, o) =>
    let x := s.queue q
    if o = 0 then x.qbase.toNat % 2 ^ 32 else if o = 8 then x.cbase.toNat % 2 ^ 32
    else b2n x.en * 2 ^ 15 + x.vec.toNat * 2 ^ 8 + x.qlog
  | none =>
    if off = 0x08 then b2n s.host.tmaster * 2 ^ 11 + s.host.devnum.toNat
    else if off = 0x1008 then s.hkc.mboxDone.toNat * 2 ^ 30 + s.hkc.mboxLen.toNat
    else if off = 0x32000 then s.host.events.base.toNat % 2 ^ 32
    else if off = 0x32008 then b2n s.host.events.en * 2 ^ 15 + s.host.events.vec.toNat * 2 ^ 8 + s.host.events.elog
    else (Table.getD s.host.yroute ((off - 0x40000) / 8) 0).toNat

/-- A write of an 8-byte register. -/
def State.write8 (s : State) (off : Nat) (v : W64) : State :=
  match queueReg off with
  | some (q, o) => if o = 0 then s.writeQbase q false v else if o = 8 then s.writeQbase q true v else s.writeQctl q v
  | none =>
    if off = 0x08 then
      (if s.jobs.isEmpty then
        { s with host := { s.host with devnum := BitVec.ofNat 10 v.toNat, tmaster := bitAt v.toNat 11 } } else s)
    else if off = 0x1008 then s.onHkc (fun h => h.writeMailbox v.toNat)
    else if off = 0x32000 then s.onRing (fun r => if r.en then r else { r with base := baseOf v })
    else if off = 0x32008 then s.writeEvctl v
    else { s with host := { s.host with
      yroute := Table.put s.host.yroute ((off - 0x40000) / 8) (BitVec.ofNat 32 (v.toNat % 2 ^ 32) &&& 0x0FF1FFFF) } }

/-- `PWRCAP.CAP` as written (R43). -/
def capOf (n : Nat) : Nat := max 800 (min n 2200)

/-- A write of a 4-byte register, or of 4 bytes of a window. -/
def State.write4 (s : State) (off : Nat) (v : W32) : State :=
  match queueReg off with
  | some (q, o) => if o = 0x18 then s.writeQprod q v else if o = 0x30 then s.writeCcons q v else s
  | none =>
    if off = 0x32018 then s.writeEvcons v
    else if off = 0x21000 then s.onHkc (fun h => { h with pwrCap := BitVec.ofNat 12 (capOf (bits v.toNat 0 12)) })
    else if off = 0x21008 then s.onHkc (fun h => { h with cethr := BitVec.ofNat 16 v.toNat })
    else if 0x10000 ≤ off ∧ off < 0x20000 then s.onHkc (fun h => { h with fwdata := Memory.writeNat h.fwdata (off - 0x10000) 4 v.toNat })
    else if 0x100000 ≤ off ∧ off < 0x100400 then s.writeMsix (off - 0x100000) v
    else s

/-- An access of 4 or 8 bytes, aligned: an 8-byte register written in two halves takes effect at its upper half. Other
accesses are ignored. -/
def State.access (s : State) (off size : Nat) (v : W64) : State :=
  let lo := BitVec.ofNat 32 v.toNat
  if size = 8 ∧ off % 8 = 0 then
    if wideReg off then s.write8 off v else (s.write4 off lo).write4 (off + 4) (BitVec.ofNat 32 (v.toNat / 2 ^ 32))
  else if size = 4 ∧ off % 4 = 0 then
    let base := off / 8 * 8
    if wideReg base then
      if off % 8 = 0 then { s with host := { s.host with lowHalf := Table.put s.host.lowHalf base lo } }
      else
        let low := match Table.find s.host.lowHalf base with | some x => x.toNat | none => s.lowOf base
        { s with host := { s.host with lowHalf := Table.del s.host.lowHalf base } }.write8 base (BitVec.ofNat 64 (lo.toNat * 2 ^ 32 + low))
    else s.write4 off lo
  else s

/-- REGISTER_WRITE. -/
def execRegisterWrite (offset size : Nat) (value : W64) (s : State) : Host.Outcome State Fault Refusal :=
  s.fromHost (fun t => t.access offset size value)

end Sys2Proof.Machine
end

