-- ==== Sys2Proof/Machine/IntWords.lean ====
section
/-! DEFINITION. The integer, logical, shift, count, bit-field and move words (R299 to R307). -/

namespace Sys2Proof.Machine

/-! ## Values -/

/-- The bits of an operand as an unsigned number of the type's width. -/
def ubits (ty : ScalarTy) (x : W64) : Nat := bits x.toNat 0 ty.width

/-- A form of two integer operands (Table 11.3). -/
def int2 (ty : ScalarTy) (f : Int → Int → Int) (a b : W64) : Result := quietly (iput ty (f (ival ty a) (ival ty b)))

/-- A form of one integer operand. -/
def int1 (ty : ScalarTy) (f : Int → Int) (a : W64) : Result := quietly (iput ty (f (ival ty a)))

/-- A form of two bit strings of n bits (Table 11.4). -/
def bin2 (ty : ScalarTy) (f : Nat → Nat → Nat → Nat) (a b : W64) : Result :=
  quietly (iput ty (f ty.width (ubits ty a) (ubits ty b) : Nat))

/-- A form of one bit string of n bits. -/
def bin1 (ty : ScalarTy) (f : Nat → Nat → Nat) (a : W64) : Result := quietly (iput ty (f ty.width (ubits ty a) : Nat))

/-- ⌊a × b ÷ 2^n⌋. -/
def mulHigh (n : Nat) (a b : Int) : Int := (a * b) / ((2 ^ n : Nat) : Int)

/-- DIV (R301). -/
def intDiv (ty : ScalarTy) (a b : W64) : Result :=
  if ival ty b = 0 then (iput ty (-1), flDZ) else quietly (iput ty (Int.tdiv (ival ty a) (ival ty b)))

/-- REM (R301). -/
def intRem (ty : ScalarTy) (a b : W64) : Result :=
  if ival ty b = 0 then (iput ty (ival ty a), flDZ) else quietly (iput ty (Int.tmod (ival ty a) (ival ty b)))

/-- SHL. -/
def shiftLeft (n a s : Nat) : Nat := if s < n then a * 2 ^ s else 0

/-- SHR. -/
def shiftRight (n a s : Nat) : Nat := if s < n then a / 2 ^ s else 0

/-- SAR: the count is unsigned, the value signed. -/
def shiftArith (ty : ScalarTy) (a b : W64) : Result :=
  quietly (iput ty (ival ty a / ((2 ^ min (ubits ty b) (ty.width - 1) : Nat) : Int)))

/-- ROL: what leaves at the top of n bits enters below. -/
def rotLeft (n a s : Nat) : Nat := a * 2 ^ (s % n) % 2 ^ n + a / 2 ^ (n - s % n)

/-- ROR. -/
def rotRight (n a s : Nat) : Nat := rotLeft n a (n - s % n)

/-- CLZ. -/
def leadingZeros (n a : Nat) : Nat := if a = 0 then n else n - 1 - a.log2

/-- CTZ. -/
def trailingZeros (n a : Nat) : Nat := ((List.range n).find? (fun i => bitAt a i)).getD n

/-- POPC. -/
def popCount (n a : Nat) : Nat := (List.range n).foldl (fun t i => t + b2n (bitAt a i)) 0

/-- BREV. -/
def bitReverse (n a : Nat) : Nat := (List.range n).foldl (fun t i => t + b2n (bitAt a i) * 2 ^ (n - 1 - i)) 0

/-- BFX (R302). -/
def bitExtract (ty : ScalarTy) (a ctl : W64) : Result :=
  let p := bits ctl.toNat 0 8
  let l := bits ctl.toNat 8 8
  let n := ty.width
  let k := min l (n - p)
  let x := bits (ubits ty a) p k
  quietly (if n ≤ p || l == 0 then 0 else iput ty (if ty.signed then sext k x else (x : Int)))

/-- BFI (R302). -/
def bitInsert (ty : ScalarTy) (a b ctl : W64) : Result :=
  let p := bits ctl.toNat 0 8
  let l := bits ctl.toNat 8 8
  let n := ty.width
  let k := min l (n - p)
  let x := ubits ty a
  quietly (iput ty ((if n ≤ p || l == 0 then x else x - bits x p k * 2 ^ p + bits (ubits ty b) 0 k * 2 ^ p : Nat)))

/-- Ways m of BILV and BDLV (BW). -/
def waysOf (mod : BitVec 8) : Nat := 2 + mod.toNat % 2

/-- Field width k (R303). -/
def laneBits (ty : ScalarTy) (m : Nat) : Nat := if m = 2 then ty.width / 2 else if ty.width = 32 then 10 else 21

/-- BILV: bit m × i + t is bit i of the t-th operand. -/
def interleave (ty : ScalarTy) (m : Nat) (xs : List Nat) : W64 :=
  iput ty ((((xs.take m).zipIdx).foldl (fun v (x, t) =>
    (List.range (laneBits ty m)).foldl (fun v i => v + b2n (bitAt x i) * 2 ^ (m * i + t)) v) 0 : Nat))

/-- BDLV: bit i is bit m × i + j. -/
def separate (ty : ScalarTy) (m j a : Nat) : W64 :=
  iput ty (((List.range (laneBits ty m)).foldl (fun v i => v + b2n (bitAt a (m * i + j)) * 2 ^ i) 0 : Nat))

/-- CMP (R304). -/
def intCompare (ty : ScalarTy) (cond : Nat) (a b : W64) : Bool × Flags :=
  (condHolds cond (some (compare (ival ty a) (ival ty b))), flNone)

/-- MOV (R305): the bits for B64; for a float type its field, a NaN quieted. -/
def moveValue (ty : ScalarTy) (a : W64) : Result :=
  match ty.float with
  | some f => quietly (BitVec.ofNat 64 (f.quiet (f.codeOf a)))
  | none => quietly a

/-- LEA (R306). -/
def effectiveAddr (k : Nat) (a b : W64) : Except Trap Result :=
  let v : Int := (addrOf a : Int) + sext 64 b.toNat * ((2 ^ k : Nat) : Int)
  if v < 0 || decide (((2 ^ 55 : Nat) : Int) ≤ v) then .error .type else .ok (quietly (BitVec.ofInt 64 v))

/-- EXT (R307). -/
def extend (ty : ScalarTy) (xw : Nat) (a : W64) : Result :=
  let k := 8 * 2 ^ xw
  quietly (if ty.width ≤ k then iput ty (ival ty a) else iput ty (if ty.signed then sext k a.toNat else (bits a.toNat 0 k : Int)))

/-! ## Meanings -/

/-- ADD (R299). -/
def execAdd (w : RWord) (s : State) : Host.Outcome State Fault Refusal :=
  word (.r w) (binary w fun _ a b => .ok (int2 w.ty (· + ·) a b)) s

/-- SUB (R299). -/
def execSub (w : RWord) (s : State) : Host.Outcome State Fault Refusal :=
  word (.r w) (binary w fun _ a b => .ok (int2 w.ty (· - ·) a b)) s

/-- MUL (R299). -/
def execMul (w : RWord) (s : State) : Host.Outcome State Fault Refusal :=
  word (.r w) (binary w fun _ a b => .ok (int2 w.ty (· * ·) a b)) s

/-- MULH (R299). -/
def execMulh (w : RWord) (s : State) : Host.Outcome State Fault Refusal :=
  word (.r w) (binary w fun _ a b => .ok (int2 w.ty (mulHigh w.ty.width) a b)) s

/-- MAD (R299). -/
def execMad (w : RWord) (s : State) : Host.Outcome State Fault Refusal :=
  word (.r w) (ternary w fun _ a b x => .ok (quietly (iput w.ty (ival w.ty a * ival w.ty b + ival w.ty x)))) s

/-- DIV (R301). -/
def execDiv (w : RWord) (s : State) : Host.Outcome State Fault Refusal :=
  word (.r w) (binary w fun _ a b => .ok (intDiv w.ty a b)) s

/-- REM (R301). -/
def execRem (w : RWord) (s : State) : Host.Outcome State Fault Refusal :=
  word (.r w) (binary w fun _ a b => .ok (intRem w.ty a b)) s

/-- NEG (R299). -/
def execNeg (w : RWord) (s : State) : Host.Outcome State Fault Refusal :=
  word (.r w) (unary w fun _ a => .ok (int1 w.ty (fun v => -v) a)) s

/-- ABS (R299). -/
def execAbs (w : RWord) (s : State) : Host.Outcome State Fault Refusal :=
  word (.r w) (unary w fun _ a => .ok (int1 w.ty (fun v => (v.natAbs : Int)) a)) s

/-- MIN (R299). -/
def execMin (w : RWord) (s : State) : Host.Outcome State Fault Refusal :=
  word (.r w) (binary w fun _ a b => .ok (int2 w.ty (fun v u => min v u) a b)) s

/-- MAX (R299). -/
def execMax (w : RWord) (s : State) : Host.Outcome State Fault Refusal :=
  word (.r w) (binary w fun _ a b => .ok (int2 w.ty (fun v u => max v u) a b)) s

/-- AND (R300). -/
def execAnd (w : RWord) (s : State) : Host.Outcome State Fault Refusal :=
  word (.r w) (binary w fun _ a b => .ok (bin2 w.ty (fun _ v u => v &&& u) a b)) s

/-- OR (R300). -/
def execOr (w : RWord) (s : State) : Host.Outcome State Fault Refusal :=
  word (.r w) (binary w fun _ a b => .ok (bin2 w.ty (fun _ v u => v ||| u) a b)) s

/-- XOR (R300). -/
def execXor (w : RWord) (s : State) : Host.Outcome State Fault Refusal :=
  word (.r w) (binary w fun _ a b => .ok (bin2 w.ty (fun _ v u => v ^^^ u) a b)) s

/-- NOT (R300). -/
def execNot (w : RWord) (s : State) : Host.Outcome State Fault Refusal :=
  word (.r w) (unary w fun _ a => .ok (bin1 w.ty (fun n v => 2 ^ n - 1 - v) a)) s

/-- ANDN (R300). -/
def execAndn (w : RWord) (s : State) : Host.Outcome State Fault Refusal :=
  word (.r w) (binary w fun _ a b => .ok (bin2 w.ty (fun n v u => v &&& (2 ^ n - 1 - u)) a b)) s

/-- SHL (R300). -/
def execShl (w : RWord) (s : State) : Host.Outcome State Fault Refusal :=
  word (.r w) (binary w fun _ a b => .ok (bin2 w.ty shiftLeft a b)) s

/-- SHR (R300). -/
def execShr (w : RWord) (s : State) : Host.Outcome State Fault Refusal :=
  word (.r w) (binary w fun _ a b => .ok (bin2 w.ty shiftRight a b)) s

/-- SAR (R300). -/
def execSar (w : RWord) (s : State) : Host.Outcome State Fault Refusal :=
  word (.r w) (binary w fun _ a b => .ok (shiftArith w.ty a b)) s

/-- ROL (R300). -/
def execRol (w : RWord) (s : State) : Host.Outcome State Fault Refusal :=
  word (.r w) (binary w fun _ a b => .ok (bin2 w.ty rotLeft a b)) s

/-- ROR (R300). -/
def execRor (w : RWord) (s : State) : Host.Outcome State Fault Refusal :=
  word (.r w) (binary w fun _ a b => .ok (bin2 w.ty rotRight a b)) s

/-- CLZ (R300). -/
def execClz (w : RWord) (s : State) : Host.Outcome State Fault Refusal :=
  word (.r w) (unary w fun _ a => .ok (bin1 w.ty leadingZeros a)) s

/-- CTZ (R300). -/
def execCtz (w : RWord) (s : State) : Host.Outcome State Fault Refusal :=
  word (.r w) (unary w fun _ a => .ok (bin1 w.ty trailingZeros a)) s

/-- POPC (R300). -/
def execPopc (w : RWord) (s : State) : Host.Outcome State Fault Refusal :=
  word (.r w) (unary w fun _ a => .ok (bin1 w.ty popCount a)) s

/-- BREV (R300). -/
def execBrev (w : RWord) (s : State) : Host.Outcome State Fault Refusal :=
  word (.r w) (unary w fun _ a => .ok (bin1 w.ty bitReverse a)) s

/-- BFX (R302). -/
def execBfx (w : RWord) (s : State) : Host.Outcome State Fault Refusal :=
  word (.r w) (binary w fun _ a b => .ok (bitExtract w.ty a b)) s

/-- BFI (R302). -/
def execBfi (w : RWord) (s : State) : Host.Outcome State Fault Refusal :=
  word (.r w) (ternary w fun _ a b x => .ok (bitInsert w.ty a b x)) s

/-- BILV (R303). -/
def execBilv (w : RWord) (s : State) : Host.Outcome State Fault Refusal :=
  word (.r w) (ternary w fun _ a b x => .ok (quietly (interleave w.ty (waysOf w.mod) [ubits w.ty a, ubits w.ty b, ubits w.ty x]))) s

/-- BDLV (R303). -/
def execBdlv (w : RWord) (s : State) : Host.Outcome State Fault Refusal :=
  word (.r w) (unary w fun _ a => .ok (quietly (separate w.ty (waysOf w.mod) (bits w.mod.toNat 1 2) (ubits w.ty a)))) s

/-- CMP (R304). -/
def execCmp (w : RWord) (s : State) : Host.Outcome State Fault Refusal :=
  word (.r w) (compares w (intCompare w.ty (bits w.mod.toNat 0 4))) s

/-- SEL (R305). -/
def execSel (w : RWord) (s : State) : Host.Outcome State Fault Refusal :=
  word (.r w) (ternary w fun _ a b x => .ok (quietly (w.ty.layout (if bitAt x.toNat 0 then a else b)))) s

/-- MOV (R305). -/
def execMov (w : RWord) (s : State) : Host.Outcome State Fault Refusal :=
  word (.r w) (unary w fun _ a => .ok (moveValue w.ty a)) s

/-- MOVI (R305). -/
def execMovi (w : IWord) (s : State) : Host.Outcome State Fault Refusal :=
  word (.i w) (lane fun _ _ l => l.writeD w.d (BitVec.ofInt 64 (sext 32 w.imm.toNat))) s

/-- MOVH (R305). -/
def execMovh (w : IWord) (s : State) : Host.Outcome State Fault Refusal :=
  word (.i w) (lane fun s c l => do
    let (a, l1) ← l.read s c w.a
    l1.writeD w.d (BitVec.ofNat 64 (w.imm.toNat * 2 ^ 32 + bits a.toNat 0 32))) s

/-- LEA (R306). -/
def execLea (w : RWord) (s : State) : Host.Outcome State Fault Refusal :=
  word (.r w) (binary w fun _ a b => effectiveAddr (bits w.mod.toNat 0 3) a b) s

/-- EXT (R307). -/
def execExt (w : RWord) (s : State) : Host.Outcome State Fault Refusal :=
  word (.r w) (unary w fun _ a => .ok (extend w.ty (bits w.mod.toNat 0 2) a)) s

end Sys2Proof.Machine
end

