-- ==== Sys2Proof/Machine/PowerEvents.lean ====
section
/-! DEFINITION. Power, temperature and service levels (R27, R28, R31, R34 to R43), attestation (R42, R52), the CXL ports (R14)
and the retirement of cores (R8, R41). -/

namespace Sys2Proof

/-! ## Defects (R8, R39, R40) -/

/-- Site (10y + x) of row `r` in column `p` of a compute die. -/
def siteIn (die p r : Nat) : Nat := 10 * (4 * (die / 2) + r) + (5 * (die % 2) + p)

/-- Defects of both maps. -/
def Defects.join (a b : Defects) : Defects :=
  { sites := a.sites ++ b.sites, banks := a.banks ++ b.banks, columns := a.columns ++ b.columns, rows := a.rows ++ b.rows }

/-- What fails at a site among parts of two spares each (Table 2.7): tile-store banks, or columns of the matrix array. -/
def failingAt (xs : List (Nat × Nat)) (site : Nat) : List Nat := ((xs.filter (fun p => p.1 == site)).map (fun p => p.2)).eraseDups

/-- The site fails as a whole, or needs more spare banks or matrix-array columns than it has (Table 2.7). -/
def Defects.siteBad (d : Defects) (site : Nat) : Bool :=
  d.sites.contains site || decide (2 < (failingAt d.banks site).length) || decide (2 < (failingAt d.columns site).length)

/-- The local columns of a compute die that hold a site that fails. -/
def Defects.badColumns (d : Defects) (die : Nat) : List Nat :=
  (List.range 5).filter (fun p => (List.range 4).any (fun r => d.siteBad (siteIn die p r)))

/-- The die gives sixteen healthy cores: at most one column has to be skipped (R39). -/
def Defects.dieOk (d : Defects) (die : Nat) : Bool := decide ((d.badColumns die).length ≤ 1)

/-- The skipped column of a die: the failing one, or one of the firmware's choice; never above 4 (R9). -/
def Defects.skipOf (d : Defects) (die want : Nat) : Nat := (d.badColumns die).headD (min want 4)

end Sys2Proof

namespace Sys2Proof.Machine

/-! ## Power (R27, R30, R31) -/

/-- The device without power, or as it is when power returns: nothing survives but the fuses and the `LASTOFF` latch. What lies
outside the device stays. -/
def State.cold (s : State) (h : Hkc) : State :=
  { hkc := { h with svnFuses := s.hkc.svnFuses, revoked := s.hkc.revoked, secret := s.hkc.secret, fused := s.hkc.fused }
    hostMem := s.hostMem, attics := s.attics, draws := s.draws, nextId := s.nextId, agenda := s.agenda }

/-- The cause that `LASTOFF` keeps when the main input goes: the watchdog's, where that has halted the device, which only a power
cycle then leaves (R36, R39; log entry 68). -/
def Hkc.offCause (h : Hkc) : BitVec 3 := if h.watchdog then 4 else 3

/-- The main supply goes: the cause is latched. -/
def State.powerOff (s : State) (aux : Bool) (cause : BitVec 3) (level : Level) : State :=
  s.cold { aux := aux, main := false, lastOff := cause, level := level, fuseOk := s.hkc.fuseOk }

/-- `LEVEL` as the HKC leaves reset: the ROM, or ROM_FAIL where the fuses could not be read. -/
def Hkc.romLevel (h : Hkc) : Level := bif h.fuseOk then .rom else .romFail

/-- The failure code as the HKC leaves reset. -/
def Hkc.romCode (h : Hkc) : BitVec 8 := bif h.fuseOk then 0 else 0x0A

/-- FUNDAMENTAL_RESET: with the auxiliary input present the ROM enables the main input, and `LEVEL` is ROM, or ROM_FAIL where the
fuses could not be read. A reset of a device that is on ends its power-on normally (`LASTOFF` 0, log entry 68). Only a power cycle
leaves HALTED (R39). -/
def execFundamentalReset (s : State) : Host.Outcome State Fault Refusal :=
  .next (if !s.hkc.aux || (s.hkc.main && s.hkc.level == .halted) then s
    else s.cold { lastOff := if s.hkc.main then 0 else s.hkc.lastOff, fuseOk := s.hkc.fuseOk, level := s.hkc.romLevel,
                  failCode := s.hkc.romCode })

/-- AUX_POWER_LOSS. -/
def execAuxPowerLoss (s : State) : Host.Outcome State Fault Refusal := .next (s.powerOff false 2 .rom)

/-- MAIN_UNDERVOLTAGE. -/
def execMainUndervoltage (s : State) : Host.Outcome State Fault Refusal :=
  s.powered (fun t => t.powerOff true t.hkc.offCause .rom)

/-- AUXILIARY_INPUT_PRESENT: the HKC leaves reset and reads the fuses. -/
def execAuxiliaryInputPresent (fuseOk : Bool) (s : State) : Host.Outcome State Fault Refusal :=
  .next (if s.hkc.aux then s
    else s.onHkc (fun h =>
      let h1 := { h with aux := true, fuseOk := fuseOk }
      { h1 with level := h1.romLevel, failCode := h1.romCode }))

/-- HKC_FAULT (R39); a watchdog expiry is latched for `LASTOFF`, and stays so when the main supply goes. -/
def execHkcFault (watchdog : Bool) (s : State) : Host.Outcome State Fault Refusal :=
  s.powered (fun t => t.onHkc (fun h => { h with
    level := .halted, lastOff := if watchdog then 4 else h.lastOff, watchdog := h.watchdog || watchdog }))

/-! ## Temperature and the power cap (R28, R43) -/

/-- Set the HKC's limit of every core: the same for all of them. -/
def State.setLimits (s : State) (f : Nat → Nat) : State :=
  (List.range 64).foldl (fun t c => t.onCore c (fun k => { k with hkcLimit := f k.hkcLimit })) s

/-- A limit lowered to `n`; 0 stands for none. -/
def lowered (n old : Nat) : Nat := if old = 0 then n else min old n

/-- The HKC lowers the limits by a factor of its own choice: 1 to 256 tokens in 256 clocks. -/
def State.lowerLimits (s : State) : State :=
  let (s1, d) := s.draw
  s1.setLimits (lowered (1 + (Config.freeWord d).toNat % 256))

/-- TEMPERATURE_THRESHOLD: 100 °C lowers the limits, 115 °C removes the main supply. -/
def execTemperatureThreshold (sensor : Nat) (temp : BitVec 16) (s : State) : Host.Outcome State Fault Refusal :=
  s.powered (fun t =>
    if 90 ≤ sensor then t
    else
      let t1 := t.onHkc (fun h => { h with tsense := Table.put h.tsense sensor temp })
      let thermal (action : Nat) : State := t1.event 0x000E 0xFF (natLe 1 sensor ++ natLe 2 temp.toNat ++ natLe 1 action)
      if 1840 ≤ temp.toInt then (thermal 1).powerOff true 1 .halted
      else if 1600 ≤ temp.toInt then (thermal 0).lowerLimits
      else t1)

/-- POWER_CAP_WINDOW: a 10 ms window ends. Above the cap the limits are lowered; else they are set anew, none among the
choices. -/
def execPowerCapWindow (avg peak : Nat) (s : State) : Host.Outcome State Fault Refusal :=
  s.powered (fun t =>
    let t1 := t.onHkc (fun h => { h with pwrAvg := BitVec.ofNat 12 avg, pwrPeak := BitVec.ofNat 12 peak })
    if t1.hkc.pwrCap.toNat < avg then t1.lowerLimits
    else
      let (t2, d) := t1.draw
      t2.setLimits (fun _ => (Config.freeWord d).toNat % 257))

/-! ## Verification of the image (R33, R34) -/

/-- Segment records of a manifest: load offset, length, hash. -/
def segmentsOf (m : List Byte) (n : Nat) : List (Nat × Nat × List Byte) :=
  (List.range n).map (fun i =>
    let r := (m.drop (0x40 + 64 * i)).take 64
    (recNat r 4 4, recNat r 8 4, (r.drop 16).take 48))

/-- The magic, the version, the counts and the reserved fields are as in R33. -/
def manifestOk (m : List Byte) (received : Nat) : Bool :=
  let n := recNat m 0x10 2
  decide (0x2000 ≤ received) && recNat m 0 4 == 0x53454E4B && recNat m 4 2 == 1 && decide (recNat m 6 2 < 2)
    && decide (recNat m 8 4 ≤ 63) && recNat m 0x0C 4 == received && decide (1 ≤ n) && decide (n ≤ 32) && recZero m 0x12 46
    && (List.range 32).all (fun i => if i < n then recZero m (0x40 + 64 * i + 12) 4 else recZero m (0x40 + 64 * i) 64)
    && recZero m 0x1D2D 723

/-- Every segment lies within the image. A record's load offset is read as the segment's place in the image, not below the 0x2000
at which segments begin: R33 does not say what it names (the model's choice, log entry 87). -/
def segmentsInside (m : List Byte) (received : Nat) : Bool :=
  (segmentsOf m (recNat m 0x10 2)).all (fun (o, n, _) => decide (0x2000 ≤ o) && decide (o + n ≤ received))

/-- The key slot whose hashes an image's keys have: an unrevoked one, slot 0 first. -/
def Hkc.slotOf (h : Hkc) (ed ml : List Byte) : Option Nat :=
  (List.range 2).find? (fun n => !h.revoked.getD n true && Config.keySlot n == (Config.sha384 ed, Config.sha384 ml))

/-- What verification finds: the failure code of Table 2.4 (0 for none), the two signatures, and the key slot. -/
structure Verdict where
  code : BitVec 8
  ed : Bool
  ml : Bool
  slot : Option Nat
  deriving DecidableEq, Repr

/-- Every check of R34 on the staged image, the first that fails named. Table 2.4 names no code for some failures of check 1: a
length that differs from the bytes received, an image shorter than 0x2000 and a security version above 63 give FORMAT, and a segment
below 0x2000 gives SIZE (the model's choice, log entry 87). -/
def Hkc.verdict (h : Hkc) : Verdict :=
  let m := Memory.read h.staging 0 0x2000
  let signed := m.take 0x1000
  let edKey := (m.drop 0x840).take 32
  let mlKey := (m.drop 0x860).take 1952
  let ed := Config.ed25519Verifies edKey signed ((m.drop 0x1000).take 64)
  let ml := Config.mldsaVerifies mlKey signed ((m.drop 0x1040).take 3309)
  let slot := h.slotOf edKey mlKey
  let hashes := (segmentsOf m (recNat m 0x10 2)).all (fun (o, n, x) => Config.sha384 (Memory.read h.staging o n) == x)
  let code : BitVec 8 :=
    if !manifestOk m h.received then 1
    else if !segmentsInside m h.received then 2
    else if slot.isNone then 4
    else if !ed && !ml then 7
    else if !ed then 5
    else if !ml then 6
    else if recNat m 8 4 < h.svn then 8
    else if !hashes then 9
    else if !h.fuseOk then 0x0A
    else 0
  { code := code, ed := ed, ml := ml, slot := slot }

/-- The ROM verifies the image: the firmware starts, or `LEVEL` is ROM_FAIL. No firmware runs in ROM_FAIL (R35), so an image that
passes after a failure brings `LEVEL` back to ROM until the first service is entered (log entry 87). -/
def Hkc.verify (h : Hkc) : Hkc :=
  let v := h.verdict
  let h1 := { h with edOk := v.ed, mlOk := v.ml, kslot := v.slot == some 1 }
  if v.code = 0 then
    let m := Memory.read h.staging 0 0x1000
    { h1 with
      fwRuns := true, level := .rom, failCode := 0, imageIn := false, commitSvn := bitAt (recNat m 6 2) 0, manifestSvn := recNat m 8 4
      signedHash := Config.sha384 m, aliasKey := Config.aliasKey h.secret (Config.sha384 m)
      segHashes := (segmentsOf m (recNat m 0x10 2)).map (fun p => p.2.2), mboxOffset := 0, mboxDone := false, mboxLen := 0, received := 0, staging := [] }
  else h1.downloadFails v.code

/-- FW_VERIFY: the last chunk of an image is in. -/
def execFwVerify (s : State) : Host.Outcome State Fault Refusal :=
  s.powered (fun t =>
    if (t.hkc.level == .rom || t.hkc.level == .romFail) && t.hkc.imageIn then t.onHkc Hkc.verify else t)

/-! ## Test, defect map and repair (R8, R39, R40) -/

/-- The logical cores of a compute die. -/
def coresOn (die : Nat) : List Nat := (List.range 64).filter (fun c => dieOf c == die)

/-- The tile-store banks of a core take the spares that its site's defects need (Table 2.7); those in use stay in use. -/
def Core.repair (k : Core) (bad : List Nat) : Core :=
  bad.foldl (fun k b =>
    match (Table.find k.spares b).isSome, k.nextSpare with
    | false, some n => { k with spares := Table.put k.spares b n }
    | _, _ => k) k

/-- The cores of a die after its repair. -/
def State.repairDie (s : State) (die : Nat) : State :=
  (coresOn die).foldl (fun t c =>
    let bad := failingAt t.hkc.defects.banks (siteOf t.hkc.skip c)
    if bad.isEmpty then t else t.onCore c (fun k => k.repair bad)) s

/-! ## Service levels (R31, R38, R39) -/

/-- The logical cores of the dies that can give sixteen healthy ones. -/
def coresOf (healthy : Nat → Bool) : W64 :=
  BitVec.ofNat 64 ((List.range 64).foldl (fun n c => if healthy (dieOf c) then n + 2 ^ c else n) 0)

/-- Compute die 0 after its test (Table 2.1, step 6): its map is combined with the fused one, its failing column is skipped, and the
firmware writes `MESHMAP` for the first time: logical cores are usable only while `VALID` is 1 (Table 1.2), and R37 runs jobs on die 0
(log entry 87). -/
def Hkc.enterProof (h : Hkc) (r : RepairReport) : Hkc :=
  let d := h.fused.join r.found
  { h with
    level := .proof, defects := d, skip := setAt h.skip 0 (d.skipOf 0 (r.skip.getD 0 4)), meshValid := true
    spareOk := setAt h.spareOk 0 (d.badColumns 0).isEmpty, coresOk := coresOf (fun n => n == 0) }

/-- PROOF_SERVICE_ENTRY: die 0 gives sixteen healthy cores and rooms 0 and 1 have been trained, or not. -/
def execProofServiceEntry (report : RepairReport) (s : State) : Host.Outcome State Fault Refusal :=
  s.powered (fun t =>
    if !t.hkc.fwRuns || !(t.hkc.level == .rom || t.hkc.level == .romFail) then t
    else if report.trained && (t.hkc.fused.join report.found).dieOk 0 then (t.onHkc (fun h => h.enterProof report)).repairDie 0
    else t.onHkc (fun h => { h.downloadFails 0x0B with fwRuns := false }))

/-- What the whole module's test and repair give: the defect map, the map of columns, the cores, and the level. Failing rows of HBM
have their hard repair (Table 2.7), and a commit of the security version begins (R36). -/
def Hkc.enterFull (h : Hkc) (r : RepairReport) : Hkc :=
  let d := h.defects.join r.found
  { h with
    level := if (List.range 4).all (fun n => d.dieOk n) then .full else .reduced
    defects := { d with rows := [] }
    skip := (List.range 4).map (fun n => d.skipOf n (if n = 0 then h.skip.getD 0 4 else r.skip.getD n 4))
    spareOk := (List.range 4).map (fun n => (d.badColumns n).isEmpty)
    meshValid := true, coresOk := coresOf d.dieOk, passing := none
    committing := if h.commitSvn && decide (h.svn < h.manifestSvn) then some h.manifestSvn else h.committing
    commitSvn := false }

/-- The passage of R38 waits: a PREEMPT is pending, a job is being saved, or CKPT or RESTORE is under way. -/
def State.passageWaits (s : State) : Bool :=
  s.exclusive || (List.range 16).any (fun q => match (s.queue q).cur with | some c => c.op == 0x11 | none => false)
    || s.jobs.any (fun p => p.2.st == .preempting)

/-- FULL_SERVICE_ENTRY: resident jobs are halted first, and go on at the new level once their saves are complete. -/
def State.passage (s : State) (r : RepairReport) : State :=
  if s.hkc.level != .proof || s.passageWaits then s
  else
    let run := (s.jobs.filter (fun p => p.2.running && !p.2.ended)).map (fun p => p.1)
    let held := s.hkc.passing.getD []
    if !run.isEmpty then
      (run.foldl (fun t j => t.haltJob j) s).onHkc (fun h => { h with passing := some (held ++ run.filter (fun j => !held.contains j)) })
    else held.foldl (fun t j => t.goOn j) ((List.range 4).foldl (fun t d => t.repairDie d) (s.onHkc (fun h => h.enterFull r)))

/-- FULL_SERVICE_ENTRY. -/
def execFullServiceEntry (report : RepairReport) (s : State) : Host.Outcome State Fault Refusal := s.powered (fun t => t.passage report)

/-! ## Attestation and the CXL ports (R14, R42, R51, R52) -/

/-- A CXL port. -/
def State.port (s : State) (n : Nat) : CxlPort := s.host.ports.getD n {}

/-- Put a CXL port. -/
def State.setPort (s : State) (n : Nat) (p : CxlPort) : State := { s with host := { s.host with ports := setAt s.host.ports n p } }

/-- `LEVEL` as a number (Table 2.5). -/
def Level.code : Level → Nat
  | .rom => 0 | .romFail => 1 | .proof => 2 | .full => 3 | .reduced => 4 | .halted => 5

/-- The six measurement blocks of Table 2.9. -/
def Hkc.measurements (h : Hkc) : List (List Byte) :=
  let pairs (xs : List (Nat × Nat)) : List Byte := xs.flatMap (fun p => [BitVec.ofNat 8 p.1, BitVec.ofNat 8 p.2])
  [Config.romHash, h.signedHash, h.segHashes.flatten,
   natLe 1 h.svn ++ natLe 1 (b2n h.kslot) ++ h.revoked.map (fun b => BitVec.ofNat 8 (b2n b)),
   h.defects.sites.map (fun n => BitVec.ofNat 8 n) ++ pairs h.defects.banks ++ pairs h.defects.columns
     ++ h.defects.rows.flatMap (fun u => natLe 8 u) ++ natLe 1 (b2n h.meshValid) ++ h.skip.map (fun n => BitVec.ofNat 8 n),
   natLe 1 h.level.code]

/-- The ROM runs: no service of the firmware has been entered. -/
def Level.inRom (l : Level) : Bool := l == .rom || l == .romFail

/-- A port's mailbox carries this request (R52): mailbox 0 DOE discovery and SPDM, and mailbox 1, which port 0 alone has, secured SPDM
messages. -/
def doeCarries (port mailbox : Nat) (request : List Byte) : Bool :=
  let secured := Config.isSecured request && !Config.isDiscovery request
  decide (port < 2) && (if mailbox = 0 then !secured else port == 0 && mailbox == 1 && secured)

/-- What a DOE mailbox answers (R42): DOE discovery always, and SPDM from PROOF onward. -/
def Hkc.doeAnswer (h : Hkc) (request : List Byte) : Option (List Byte) :=
  if Config.isDiscovery request then some (Config.discoveryAnswer request)
  else if h.level.inRom then none
  else some (Config.spdmAnswer h.aliasKey h.measurements h.spdmLog request)

/-- The request is an SPDM message, which the firmware takes from PROOF onward (R42). -/
def Hkc.takesSpdm (h : Hkc) (request : List Byte) : Bool := !Config.isDiscovery request && !h.level.inRom

/-- The session after an SPDM request (R42): KEY_EXCHANGE begins one where there is none, FINISH establishes it, END_SESSION ends it. -/
def Hkc.sessionAfter (h : Hkc) (request : List Byte) : SpdmSession :=
  match h.session with
  | .none => if Config.keyExchange h.spdmLog request then .handshake else .none
  | .handshake =>
    if Config.finishes h.spdmLog request then .established
    else if Config.endsSession h.spdmLog request then .none
    else .handshake
  | .established => if Config.isSecured request && Config.endsSession h.spdmLog request then .none else .established

/-- The request is a secured message of the established session. -/
def Hkc.inSession (h : Hkc) (request : List Byte) : Bool :=
  h.takesSpdm request && h.session == .established && Config.isSecured request

/-- The request is a key update of the established session (R52). -/
def Hkc.updatesKey (h : Hkc) (request : List Byte) : Bool := h.inSession request && Config.keyUpdates h.spdmLog request

/-- A port takes a DOE request: it is up, and does not refuse its traffic; a port that refuses still takes the key update that ends
the refusal (R52). -/
def State.takesDoe (s : State) (port : Nat) (request : List Byte) : Bool :=
  (s.port port).up && (!(s.port port).refused || s.hkc.updatesKey request)

/-- A port after an SPDM request (R52): the session sets IDE going on it, and a key update ends its refusal. -/
def Hkc.portAfter (h : Hkc) (request : List Byte) (n : Nat) (p : CxlPort) : CxlPort :=
  { p with
    refused := p.refused && !h.updatesKey request
    ide := p.ide || (h.inSession request && Config.enablesIde h.spdmLog n request) }

/-- The SPDM responder takes a request: the session goes on, and the ports follow. R52 does not say through which port's mailbox a
key update comes, and port 1 has no mailbox for secured messages: the device has one session, whose key update opens every port that
refuses (the model's choice, log entry 9). -/
def State.spdmTaken (s : State) (request : List Byte) : State :=
  if s.hkc.takesSpdm request then
    let h := s.hkc
    let t : State := { s with host := { s.host with ports := (s.host.ports.zipIdx).map (fun p => h.portAfter request p.2 p.1) } }
    t.onHkc (fun k => { k with spdmLog := k.spdmLog ++ [request], session := k.sessionAfter request })
  else s

/-- SPDM_REQUEST: a request in a port's mailbox is answered there. -/
def execSpdmRequest (port mailbox : Nat) (request : List Byte) (s : State) : Host.Outcome State Fault Refusal :=
  s.powered (fun t =>
    if doeCarries port mailbox request && t.takesDoe port request then
      match t.hkc.doeAnswer request with
      | none => t
      | some a =>
        let u := t.spdmTaken request
        let v := u.setPort port { u.port port with doe := Table.put (u.port port).doe mailbox a }
        if t.hkc.updatesKey request then v.runPosts else v
    else t)

/-- `PORTSTAT` of a port (Table 3.3). -/
def CxlPort.status (p : CxlPort) : Nat := p.retrains.toNat * 2 ^ 32 + p.width * 16 + p.rate * 2 + b2n p.up

/-- LINK (Table 3.13). -/
def State.linkEvent (s : State) (link reason value : Nat) : State :=
  s.event 0x000D 0xFF (natLe 1 link ++ natLe 1 reason ++ natLe 8 value)

/-- IDE_CHECK_FAIL, on a port with IDE enabled. -/
def execIdeCheckFail (port : Nat) (s : State) : Host.Outcome State Fault Refusal :=
  s.powered (fun t =>
    if port < 2 && (t.port port).ide then (t.setPort port { t.port port with refused := true }).linkEvent (16 + port) 4 (t.port port).status else t)

/-- A port trains as its partner offers: not in 68-byte flit mode, and port 1 neither in proof service (Table 2.6) nor before it,
where Table 2.1 trains port 0 alone (log entry 87). -/
def State.trains (s : State) (port : Nat) (o : LinkOffer) : Bool :=
  o.up && o.flit256 && (o.width == 4 || o.width == 8 || o.width == 16) && decide (1 ≤ o.rate) && decide (o.rate ≤ 3)
    && (port == 0 || s.hkc.level == .full || s.hkc.level == .reduced || s.hkc.level == .halted)

/-- CXL_LINK_STATE: a port trains, retrains or goes down. -/
def execCxlLinkState (port : Nat) (offer : LinkOffer) (s : State) : Host.Outcome State Fault Refusal :=
  s.powered (fun t =>
    let p := t.port port
    if 2 ≤ port then t
    else if t.trains port offer then
      let q := { p with up := true, width := offer.width, rate := offer.rate, retrains := if p.up then p.retrains + 1 else p.retrains }
      let t1 := t.setPort port q
      if !p.up then (t1.linkEvent (16 + port) 3 q.status).runPosts
      else if q.width < p.width then t1.linkEvent (16 + port) 1 q.status
      else t1
    else if p.up then
      let q := { p with up := false, width := 0, rate := 0 }
      (t.setPort port q).linkEvent (16 + port) 2 q.status
    else t)

/-! ## Retirement (R8, R41) -/

/-- A core of a die is part of a job's rectangle. -/
def State.dieBusy (s : State) (die : Nat) : Bool := (coresOn die).any (fun c => !(s.placedAt c).isEmpty)

/-- The spare banks that the cores of a die have in use, as defects of the sites that they stand on: a spare in use is never released
(R40). -/
def State.spareBanks (s : State) (die : Nat) : List (Nat × Nat) :=
  (coresOn die).flatMap (fun c => (s.core c).spares.map (fun p => (siteOf s.hkc.skip c, p.1)))

/-- What a site keeps when another logical core comes to stand on it: its walkers' configuration numbers, which only power-on resets
(R378). -/
def State.siteCore (s : State) (die site : Nat) : Core :=
  match (coresOn die).find? (fun c => siteOf s.hkc.skip c == site) with
  | some c => { walkers := (s.core c).walkers.map (fun p => (p.1, { number := p.2.number })) }
  | none => {}

/-- The marked core of a die's column is retired at a job boundary of the die: `SKIP` moves to its column, and the cores stand on
other sites, each with the spares that its site has in use. Without a healthy spare column it serves on, and is marked suspect. -/
def State.retireColumn (s : State) (die p : Nat) : State :=
  let sites := (List.range 4).map (siteIn die p)
  let marked := s.hkc.retire.filter (fun x => sites.contains x)
  if marked.isEmpty || decide (4 ≤ die) || decide (4 < p) || s.hkc.skip.getD die 4 == p then s
  else if !s.hkc.spareOk.getD die false then
    let bad := (coresOn die).filter (fun c => marked.contains (siteOf s.hkc.skip c))
    s.onHkc (fun h => { h with coresSus := h.coresSus ||| BitVec.ofNat 64 (maskOf bad) })
  else if s.dieBusy die then s
  else
    let used := (s.spareBanks die).filter (fun b => !s.hkc.defects.banks.contains b)
    let s1 := s.onHkc (fun h => { h with
      defects := { h.defects with sites := h.defects.sites ++ marked, banks := h.defects.banks ++ used }
      skip := setAt h.skip die p, spareOk := setAt h.spareOk die false, retire := h.retire.filter (fun x => !sites.contains x) })
    ((coresOn die).foldl (fun t c => t.setCore c { s.siteCore die (siteOf s1.hkc.skip c) with hkcLimit := (t.core c).hkcLimit })
      s1).repairDie die

/-- CORE_RETIRE. -/
def execCoreRetire (die column : Nat) (s : State) : Host.Outcome State Fault Refusal := s.powered (fun t => t.retireColumn die column)

end Sys2Proof.Machine
end

