-- ==== Sys2Proof/Machine/LinkEvents.lean ====
section
/-! DEFINITION. What arrives over the Yilyel links, and what befalls them: flits and their errors (R18 to R24), time marks (R26),
lanes and link states (R17, R50). -/

namespace Sys2Proof.Machine

/-! ## Flits (R18, R19, R21) -/

/-- A flit whose CRC and header are good. -/
structure Flit where
  ftype : Nat
  vc : Nat
  ntok : Nat
  seq : BitVec 12
  ack : BitVec 12
  cred : Nat
  cvc : Nat
  payload : List Byte
  deriving DecidableEq, Repr

/-- Read a flit's header: none for the flit errors of R19. -/
def flitOf (bs : List Byte) : Option Flit :=
  let h := recNat bs 0 8
  if bs.length != 256 || recNat bs 248 8 != (Config.flitCrc (bs.take 248)).toNat || bits h 0 18 != 0 || decide (4 ≤ bits h 60 4)
      || decide (10 < bits h 53 4) then none
  else some {
    ftype := bits h 60 4
    vc := bits h 57 3
    ntok := bits h 53 4
    seq := BitVec.ofNat 12 (bits h 41 12)
    ack := BitVec.ofNat 12 (bits h 29 12)
    cred := bits h 21 8
    cvc := bits h 18 3
    payload := (bs.drop 8).take 240 }

/-- The content of a flit other than a data flit is as Table 1.8 gives. -/
def Flit.plain (x : Flit) : Bool :=
  match x.ftype with
  | 1 => x.vc == 0 && x.ntok == 0 && recZero x.payload 0 240
  | 2 => x.ntok == 0 && recZero x.payload 2 238 && decide (recNat x.payload 0 2 < 4096)
  | 3 => x.vc == 6 && x.ntok == 0 && recZero x.payload 10 230 && decide (recNat x.payload 8 2 < 1024)
  | _ => false

/-- A token of 24 bytes as its three words. -/
def tokenWords (bs : List Byte) : Nat × Nat × W64 := (recNat bs 0 8, recNat bs 8 8, BitVec.ofNat 64 (recNat bs 16 8))

/-- The tokens of a VC0 flit: none where the payload is not as Table 1.8 and Table 10.7 give it. -/
def Flit.tokens (x : Flit) : Option (List (Nat × Nat × W64)) :=
  let ts := (List.range x.ntok).map (fun i => tokenWords (x.payload.drop (24 * i)))
  let good (p : Nat × Nat × W64) : Bool :=
    bits p.1 0 1 == 0 && bits p.2.1 0 6 == 0 && (bits p.2.1 21 2 == 0 || bits p.2.1 21 2 == 2)
  if ts.all good && recZero x.payload (24 * x.ntok) 240 then some ts else none

/-! ## Link records (R22) -/

/-- A record of this kind travels on this virtual channel (Table 1.10). -/
def kindOn (kind vc : Nat) : Bool :=
  if kind = 0x14 then vc == 1 || vc == 4 || vc == 5
  else decide (1 ≤ kind) && decide (kind ≤ 0x15) && LinkRec.vc { kind := kind } == vc

/-- The reserved bits of a record header are zero (Table 1.9), and so is the `RID` of a kind for which Table 1.10 gives 0. -/
def headerOk (h : List Byte) : Bool :=
  decide (recNat h 1 1 < 2) && decide (recNat h 2 1 < 64) && recNat h 3 1 == 0 && decide (recNat h 8 2 < 1024)
    && decide (recNat h 0xA 2 < 1024)
    && (!(recNat h 0 1 == 1 || recNat h 0 1 == 0x14 || recNat h 0 1 == 0x15) || recNat h 0xC 4 == 0)

/-- A run of 1 to 64 bytes within one 64-byte unit. -/
def withinUnit (pa n : Nat) : Bool := decide (1 ≤ n) && decide (pa % 64 + n ≤ 64)

/-- A physical address of a request: `PA[40:0]` in a 64-bit field. -/
def remotePaOk (pa : Nat) : Bool := decide (pa < 2 ^ 41)

/-- The fields of a record's body that Table 1.10 gives a bound. -/
def LinkRec.boundsOk (r : LinkRec) : Bool :=
  let b := r.body
  let n := b.length
  match r.kind with
  | 1 => decide (48 ≤ n) && n == 48 + recNat b 32 4 + recNat b 36 4 && decide (recNat b 29 1 < 4) && recNat b 0 1 % 2 == 0
      && recNat b 8 1 % 64 == 0
  | 2 => n == 16 && withinUnit (recNat b 0 8) (recNat b 8 4) && remotePaOk (recNat b 0 8)
  | 3 => n == 16 + recNat b 8 4 && withinUnit (recNat b 0 8) (recNat b 8 4) && remotePaOk (recNat b 0 8)
  | 4 => n == 32 && decide (recNat b 8 1 < 4) && remotePaOk (recNat b 0 8)
  | 5 => n == 32 && decide (recNat b 8 1 < 4) && remotePaOk (recNat b 0 8)
  | 6 => decide (8 ≤ n) && decide (n ≤ 72) && decide (recNat b 0 1 < 4)
  | 7 => decide (16 ≤ n) && n % 8 == 0
  | 8 => n == 272 && sharedFields (b.drop 16) == b.drop 16
  | 9 => n == 16 && decide (recNat b 6 1 < 2)
  | 0xA => decide (8 ≤ n) && n == 8 + 12 * recNat b 4 4
  | 0xB => decide (8 ≤ n)
  | 0xC => n == 8 && decide (recNat b 4 1 < 2)
  | 0xE => n == 16
  | 0xF => decide (8 ≤ n) && decide (recNat b 0 1 < 2)
  | 0x12 => n == 24 && (recNat b 4 1 == 1 || recNat b 4 1 == 2)
  | 0x14 => n == 24 && recNat b 0 1 % 2 == 0 && recNat b 8 1 % 64 == 0
  | 0x15 => n == 8 && decide (recNat b 0 1 < 16)
  | _ => n == 8

/-- The runs of a body that Table 1.10 has zero: (offset, bytes). -/
def zeroRuns (kind : Nat) : List (Nat × Nat) :=
  match kind with
  | 1 => [(30, 2), (44, 4)]
  | 2 => [(12, 4)]
  | 3 => [(12, 4)]
  | 4 => [(10, 6)]
  | 5 => [(9, 7)]
  | 6 => [(1, 7)]
  | 7 => [(7, 1), (12, 4)]
  | 8 => [(2, 2), (8, 8)]
  | 9 => [(7, 1)]
  | 0xA => [(2, 2)]
  | 0xB => [(1, 3)]
  | 0xC => [(5, 3)]
  | 0xD => [(1, 7)]
  | 0xE => [(12, 4)]
  | 0xF => [(1, 7)]
  | 0x10 => [(1, 7)]
  | 0x11 => [(5, 3)]
  | 0x12 => [(5, 3)]
  | 0x13 => [(4, 4)]
  | 0x15 => [(3, 5)]
  | _ => []

/-- A record's body has the length, the bounds and the zero fields of Table 1.10. -/
def LinkRec.bodyOk (r : LinkRec) : Bool := r.boundsOk && (zeroRuns r.kind).all (fun p => recZero r.body p.1 p.2)

/-- The records that a flit of `vc` ends, from the channel's bytes so far, and the bytes of one that it does not end: none for
a flit error. What stands after a zero `RKIND` in a flit is not looked at: the spec says nothing of it (log entry 11). -/
def parseRecs (vc : Nat) : Nat → List Byte → Option (List LinkRec × List Byte)
  | 0, _ => some ([], [])
  | n + 1, bs =>
    if bs.length < 16 then (if bs.all (· == 0) then some ([], []) else none)
    else if recNat bs 0 1 = 0 then some ([], [])
    else if !kindOn (recNat bs 0 1) vc || !headerOk bs then none
    else
      let len := recNat bs 4 4
      if bs.length < 16 + len then some ([], bs)
      else
        let r : LinkRec := {
          kind := recNat bs 0 1
          poison := bitAt (recNat bs 1 1) 0
          job := recNat bs 2 1
          dst := recNat bs 8 2
          src := recNat bs 0xA 2
          rid := recNat bs 0xC 4
          body := (bs.drop 16).take len }
        if r.bodyOk then (parseRecs vc n (bs.drop (16 + len))).map (fun p => (r :: p.1, p.2)) else none

/-! ## The receiver of a link (R19, R20) -/

/-- Yilyel links work: not in proof service (Table 2.6). -/
def State.yilyel (s : State) : Bool := s.hkc.main && (s.hkc.level == .full || s.hkc.level == .reduced || s.hkc.level == .halted)

/-- What follows the flit with this sequence number in a replay buffer: none where it is not there. -/
def afterSeq (q : BitVec 12) : List (BitVec 12 × List Byte) → Option (List (BitVec 12 × List Byte))
  | [] => none
  | p :: ps => if p.1 = q then some ps else afterSeq q ps

/-- A good flit's `ACK` frees the replay buffer, and its credits let waiting flits go. -/
def Link.acked (l : Link) (x : Flit) : Link :=
  let l1 := { l with
    replay := (afterSeq x.ack l.replay).getD l.replay
    credits := Table.modify l.credits x.cvc 0 (· + x.cred) }
  l1.pump l1.waiting.length

/-- The lanes in use: of nine, the first of the link's width that have not failed. -/
def Link.lanes (l : Link) : List Nat := ((List.range 9).filter (fun n => !l.failed.contains n)).take l.width

/-- `YLINK` of a link (Table 3.3). -/
def Link.status (l : Link) : Nat :=
  l.retrains.toNat * 2 ^ 32 + l.width * 16 + (if l.up then 3 else 0) * 2 + b2n l.up

/-- The widest training that the healthy lanes allow. -/
def Link.widest (failed : List Nat) : Nat := if failed.length < 2 then 8 else if failed.length < 6 then 4 else 0

/-- A link retrains with its healthy lanes: no flit is lost, so every unacknowledged flit goes out again (R17). -/
def Link.retrain (l : Link) : Link :=
  { l with width := Link.widest l.failed, retrains := l.retrains + 1, retrying := false, wire := l.wire ++ l.replay.map (fun p => p.2) }

/-- The receiver discards what comes until the replay, and asks for it. -/
def Link.askReplay (l : Link) : Link := { l with retrying := true }.emit 2 0 0 (natLe 2 l.rxSeq.toNat)

/-- A flit error: the flit and every later one are discarded until the replay, and a retry request goes out. Where the error rate
now exceeds the retrain threshold, which the spec leaves open, the link retrains first (R19). -/
def State.flitError (s : State) (link : Nat) : State :=
  let (s1, d) := s.draw
  if Config.errorRateHigh d then
    let l := (s1.link link).retrain
    (s1.onLink link (fun _ => l.askReplay)).linkEvent link 3 l.status
  else s1.onLink link Link.askReplay

/-- A token that crossed a link reaches its device: into the mesh, or on to its destination (R23, R24). A curtain of another
device ends here. -/
def State.takeToken (s : State) (link : Nat) (p : Nat × Nat × W64) : State :=
  let dev := bits p.1 54 10
  if dev != s.devnum then
    match s.transit (ioDieOf link) dev with
    | none => s.unroutable dev p.1
    | some n => s.sendFlits n [{ vc := 0, ntok := 1, payload := natLe 8 p.1 ++ natLe 8 p.2.1 ++ natLe 8 p.2.2.toNat }]
  else
    let t := Token.ofWords p.1 p.2.1 p.2.2 (bits p.2.1 6 8)
    if t.cls = 2 then s else s.enterFrom (ioDieOf link) t (.value t)

/-- A record that crossed a link reaches its device, or goes on to its destination (R24). One without a route is dropped, and
UNROUTABLE's W0 is 0 for it (the model's choice, log entry 92). -/
def State.recordIn (s : State) (link vc : Nat) (r : LinkRec) : State :=
  if r.dst = s.devnum then { s with inbox := s.inbox ++ [{ r with io := ioDieOf link }] }
  else
    match s.transit (ioDieOf link) r.dst with
    | none => s.unroutable r.dst 0
    | some n => s.sendFlits n (recordFlits vc (r.bytes.length / 240 + 1) r.bytes)

/-- The record that a flit leaves unfinished, by its header, as far as that has come. -/
def unfinished (rest : List Byte) : List LinkRec :=
  if rest.length < 16 then [] else [{ kind := recNat rest 0 1, job := recNat rest 2 1, dst := recNat rest 8 2 }]

/-- The job that withholds the credit of a flit with these records, the last of them perhaps unfinished: pre-empted (R117), or on VC4 one
of whose homes holds selection records of a batch that it has not opened, these among them (R180). -/
def State.withholds (s : State) (vc : Nat) (rs : List LinkRec) (rest : List Byte) : Option Nat :=
  let here := rs.filter (fun r => r.dst == s.devnum)
  let t : State := { s with inbox := s.inbox ++ here }
  if vc = 4 || vc = 5 then
    ((here ++ (unfinished rest).filter (fun r => r.dst == s.devnum)).find? (fun r =>
      (s.job r.job).st == .preempted || (vc == 4 && t.holdsSelections r.job))).map (fun r => r.job)
  else none

/-- A data flit has been delivered in sequence: its number is acknowledged, and its credit owed or withheld. -/
def Link.delivered (l : Link) (x : Flit) (holder : Option Nat) (rest : List Byte) : Link :=
  let l1 := { l with rxSeq := x.seq + 1, ack := x.seq, retrying := false, partials := Table.put l.partials x.vc rest }
  match holder with
  | some j => { l1 with withheld := l1.withheld ++ [(j, x.vc)] }
  | none => { l1 with owed := Table.modify l1.owed x.vc 0 (· + 1) }

/-- A data flit in sequence: its tokens or records, delivered exactly once, and an idle flit that carries `ACK` and credit back. -/
def State.deliverFlit (s : State) (link : Nat) (x : Flit) : State :=
  let reply (t : State) : State := t.onLink link (fun l => l.emit 1 0 0 [])
  if x.vc = 0 then
    match x.tokens with
    | none => s.flitError link
    | some ts => reply (ts.foldl (fun t p => t.takeToken link p) (s.onLink link (fun l => (l.acked x).delivered x none [])))
  else if x.vc = 7 || x.ntok != 0 then s.flitError link
  else
    match parseRecs x.vc 17 (Table.getD (s.link link).partials x.vc [] ++ x.payload) with
    | none => s.flitError link
    | some (rs, rest) =>
      let s1 := s.onLink link (fun l => (l.acked x).delivered x (s.withholds x.vc rs rest) rest)
      reply (rs.foldl (fun t r => t.recordIn link x.vc r) s1)

/-- A flit arrives on a link that is up: an error of R19 asks for a replay; one of another type than the event's is no event
of this kind. After an error every flit is discarded until the data flit comes that the replay begins with. -/
def State.onFlit (s : State) (link ftype : Nat) (bs : List Byte) (f : State → Flit → State) : State :=
  if !s.yilyel || decide (16 ≤ link) || !(s.link link).up then s
  else
    match flitOf bs with
    | none => s.flitError link
    | some x =>
      if x.ftype != ftype then s
      else if (s.link link).retrying && (ftype != 0 || x.seq != (s.link link).rxSeq) then s
      else if ftype != 0 && !x.plain then s.flitError link
      else f s x

/-- A data flit by its sequence number: in sequence; already delivered, and so discarded; or after a flit that was lost. -/
def State.dataFlit (s : State) (link : Nat) (bs : List Byte) : State :=
  s.onFlit link 0 bs (fun t x =>
    let l := t.link link
    if x.seq = l.rxSeq then t.deliverFlit link x
    else if decide ((l.rxSeq - x.seq).toNat ≤ 1024) then t
    else t.flitError link)

/-- DATA_FLIT. -/
def execDataFlit (link : Nat) (flit : List Byte) (s : State) : Host.Outcome State Fault Refusal :=
  s.powered (fun t => t.dataFlit link flit)

/-- IDLE_FLIT: its `ACK` and credits. -/
def execIdleFlit (link : Nat) (flit : List Byte) (s : State) : Host.Outcome State Fault Refusal :=
  s.powered (fun t => t.onFlit link 1 flit (fun u x => u.onLink link (fun l => l.acked x)))

/-- The unacknowledged flits from a sequence number on, in order; all of them where it is not among them. -/
def Link.replayFrom (l : Link) (q : BitVec 12) : List (List Byte) :=
  let from_ := l.replay.dropWhile (fun p => p.1 != q)
  (if from_.isEmpty then l.replay else from_).map (fun p => p.2)

/-- RETRY_REQUEST: the sender replays. -/
def execRetryRequest (link : Nat) (flit : List Byte) (s : State) : Host.Outcome State Fault Refusal :=
  s.powered (fun t => t.onFlit link 2 flit (fun u x => u.onLink link (fun l =>
    let l1 := l.acked x
    { l1 with wire := l1.wire ++ l1.replayFrom (BitVec.ofNat 12 (recNat x.payload 0 2)) })))

/-! ## Time marks (R26) -/

/-- A time base after slewing to a mark. The master's time is then the mark and the time that it was under way; the device's own is a
free value of a span of 50 ns that holds it and is the same for every device of the domain, so that any two differ by at most 50 ns.
Log entry 12. -/
def slewed (mark transit free : Nat) : W64 := BitVec.ofNat 64 (mark + transit + 2 ^ 64 - Config.markSkew mark % 51 + free % 51)

/-- A time mark reaches a device that is not the time master. -/
def State.markIn (s : State) (link : Nat) (x : Flit) : State :=
  if s.host.tmaster then s
  else
    let (s1, d) := s.draw
    { s1 with time := slewed (recNat x.payload 0 8) (Config.markTransit link (recNat x.payload 8 2)) (Config.freeWord d).toNat }

/-- TIME_MARK. -/
def execTimeMark (link : Nat) (flit : List Byte) (s : State) : Host.Outcome State Fault Refusal :=
  s.powered (fun t => t.onFlit link 3 flit (fun u x => (u.onLink link (fun l => l.acked x)).markIn link x))

/-- TIME_MARK_SEND: 10 µs have passed, and the time master sends a mark on every link that is up. -/
def execTimeMarkSend (s : State) : Host.Outcome State Fault Refusal :=
  s.powered (fun t =>
    if t.yilyel && t.host.tmaster then
      let mark := natLe 8 t.time.toNat ++ natLe 2 t.devnum
      { t with links := t.links.map (fun p => (p.1, if p.2.up then p.2.emit 3 6 0 mark else p.2)) }
    else t)

/-! ## Lanes (R17, R40, R50) -/

/-- After a spare or a narrowing: the lane map goes to the peer on VC6, whose device id this device does not hold. -/
def State.sendLaneMap (s : State) (link : Nat) : State :=
  let (s1, d) := s.draw
  let r : LinkRec := {
    kind := 0x15
    dst := (Config.freeWord d).toNat % 1024
    src := s.devnum
    body := natLe 1 link ++ natLe 2 (maskOf (s.link link).lanes) ++ zeros 5 }
  s1.sendFlits link (recordFlits 6 1 r.bytes)

/-- A lane fails in service: the spare lane replaces it, or the link narrows to four lanes, or goes down. One that fails in
training, while the link is down, is left out of the training, which begins anew: LINK_UP then ends it. -/
def State.laneFails (s : State) (link lane : Nat) (trained : Bool) : State :=
  let l := s.link link
  if !s.yilyel || decide (16 ≤ link) || decide (9 ≤ lane) || l.failed.contains lane then s
  else
    let failed := l.failed ++ [lane]
    if !l.up then
      let l1 := { l with failed := failed, retrains := l.retrains + 1 }
      (s.onLink link (fun _ => l1)).linkEvent link (if Link.widest failed = 8 then 0 else if Link.widest failed = 4 then 1 else 2) l1.status
    else if !l.lanes.contains lane then s.onLink link (fun k => { k with failed := failed })
    else
      let width := if trained then min l.width (Link.widest failed) else 0
      let l1 := { l with failed := failed, width := width, retrains := l.retrains + 1, up := width != 0 }
      let s1 := s.onLink link (fun _ => l1)
      if width = 0 then s1.linkEvent link 2 l1.status
      else (s1.linkEvent link (if width = 8 then 0 else 1) l1.status).sendLaneMap link

/-- YILYEL_LANE_FAIL. -/
def execYilyelLaneFail (link lane : Nat) (trained : Bool) (s : State) : Host.Outcome State Fault Refusal :=
  s.powered (fun t => t.laneFails link lane trained)

/-- A link trains at the width its lanes allow; the credits of its receive buffers, of a size that each implementation
chooses, go to the peer. -/
def State.linkTrains (s : State) (link : Nat) : State :=
  let l := s.link link
  let width := Link.widest l.failed
  if !s.yilyel || decide (16 ≤ link) || l.up || width = 0 then s
  else
    let (s1, d) := s.drawMany 7
    let owed := (List.range 7).foldl (fun o vc => Table.modify o vc 0 (· + (Config.freeWord (d + vc)).toNat)) l.owed
    let l1 := { l with up := true, width := width, owed := owed }
    (s1.onLink link (fun _ => l1.pump l1.waiting.length)).linkEvent link 3 l1.status

/-- LINK_UP. -/
def execLinkUp (link : Nat) (s : State) : Host.Outcome State Fault Refusal := s.powered (fun t => t.linkTrains link)

/-- LANE_MAP: the peer's active lanes. -/
def execLaneMap (i : Nat) (s : State) : Host.Outcome State Fault Refusal :=
  s.onRec i 0x15 (fun t r =>
    t.onLink (recNat r.body 0 1 % 16) (fun l => { l with peerLanes := BitVec.ofNat 16 (recNat r.body 1 2) }))

end Sys2Proof.Machine
end

