-- ==== Sys2Proof/Machine/TileWords.lean ====
section
/-! DEFINITION. The tile and matrix words (R322 to R324, R330 to R354): each checks its operands and stages its request. -/

namespace Sys2Proof.Machine

/-! ## Checks of R324 -/

/-- What a word's operands must satisfy beyond valid handles: the code each tile must have, and the shapes. -/
structure TileRule where
  codes : List (W64 × Nat) := []
  shapes : Bool := true

/-- The checks of R324 in order: handles, format codes, shapes and ranges. -/
def tileChecks (rule : Core → Req → TileRule) (s : State) (c : Nat) (l : Firing) (r : Req) : Except Trap Req := do
  let k := s.core c
  check .tileStale (r.named.all (fun h => l.handleOk s c h))
  let x := rule k r
  check .type (x.codes.all (fun p => (k.opTile p.1).fmt == p.2))
  check .type x.shapes
  return r

/-- A T-format request: it reads A, B and D. -/
def requestT (w : TWord) (i : Instr) (rule : Core → Req → TileRule) : LaneFn :=
  lane fun s c l => do
    let (a, l1) ← l.read s c w.a
    let (b, l2) ← l1.read s c w.b
    let (d, l3) ← l2.read s c w.d
    let r ← tileChecks rule s c l3 (l3.ask s c i w.cent w.cport a b d)
    return l3.stage (.request r)

/-- RACC and RACS: in a shadow firing nothing is checked, for the request is dropped, and what it names decides only whether a poison mark
passes (R350). -/
def requestAcc (w : TWord) (i : Instr) (rule : Core → Req → TileRule) : LaneFn :=
  lane fun s c l => do
    let (a, l1) ← l.read s c w.a
    let (b, l2) ← l1.read s c w.b
    let (d, l3) ← l2.read s c w.d
    let q := l3.ask s c i w.cent w.cport a b d
    let r ← if l3.shadow then .ok q else tileChecks rule s c l3 q
    return l3.stage (.request r)

/-! ## Shapes -/

/-- A row of `cols` elements of a code is a whole number of bytes (R323). -/
def wholeRow (fmt cols : Nat) : Bool := elemBits fmt * cols % 8 == 0

/-- A shape word that names a tile of a code (R323). -/
def shapeWordOk (fmt : Nat) (v : W64) : Bool := !shapeBad v && wholeRow fmt (shapeOf v).1

/-- Two tiles have one shape. -/
def sameShape (x y : Tile) : Bool := x.rows == y.rows && x.cols == y.cols

/-- A shape that broadcasts to another (R340). -/
def broadcasts (x whole : Tile) : Bool := (x.rows == whole.rows || x.rows == 0) && (x.cols == whole.cols || x.cols == 0)

/-- One row or one column. -/
def Tile.isLine (t : Tile) : Bool := t.rows == 0 || t.cols == 0

/-- Entries of an index tile. -/
def Tile.entries (t : Tile) : Nat := t.nrows * t.ncols

/-- Extent along the axis of a rearranging form: rows with `.ax0`, columns with `.ax1`. -/
def Tile.extent (t : Tile) (cols : Bool) : Nat := if cols then t.ncols else t.nrows

/-- The tile operands A, B and D of a request. -/
def Core.operands (k : Core) (r : Req) : Tile × Tile × Tile := (k.opTile r.a, k.opTile r.b, k.opTile r.d)

/-! ## Rules, form by form (Table 12.3) -/

/-- A form of one tile whose result has A's shape in `FC`. -/
def oneTile (k : Core) (r : Req) : TileRule :=
  { codes := [(r.a, r.t.fa.toNat)], shapes := wholeRow r.t.fc.toNat (k.opTile r.a).ncols }

/-- TADD, TSUB, TMUL, TMIN, TMAX and TCMP (R340): an in-place target has the code `FC`. -/
def twoTiles (k : Core) (r : Req) : TileRule :=
  let (a, b, _) := k.operands r
  { codes := [(r.a, r.t.fa.toNat), (r.b, r.t.fb.toNat)], shapes := broadcasts b a && (!r.t.acc || a.fmt == r.t.fc.toNat) }

/-- TABS and TNEG. -/
def signTile (k : Core) (r : Req) : TileRule :=
  { codes := [(r.a, r.t.fa.toNat)], shapes := !r.t.acc || (k.opTile r.a).fmt == r.t.fc.toNat }

/-- TFMA (R340). -/
def fmaTiles (k : Core) (r : Req) : TileRule :=
  let (a, b, d) := k.operands r
  { codes := [(r.a, r.t.fa.toNat), (r.b, r.t.fb.toNat), (r.d, r.t.fc.toNat)]
    shapes := broadcasts b a && broadcasts d a && (!r.t.acc || sameShape d a) }

/-- TSEL (R340). -/
def selTiles (k : Core) (r : Req) : TileRule :=
  let (a, b, d) := k.operands r
  { codes := [(r.a, r.t.fa.toNat), (r.b, r.t.fb.toNat), (r.d, r.t.fb.toNat)], shapes := sameShape a b && sameShape a d }

/-- TVIEW (R334). -/
def viewTile (k : Core) (r : Req) : TileRule :=
  let a := k.opTile r.a
  let (col, row) := posOf r.b
  let (nc, nr) := shapeOf r.d
  let fc := r.t.fc.toNat
  let code := fc == a.fmt || (fmtU fc && elemBits fc == elemBits a.fmt)
  { codes := [(r.a, r.t.fa.toNat)]
    shapes := !shapeBad r.b && shapeWordOk fc r.d && decide (row + nr ≤ a.nrows) && decide (col + nc ≤ a.ncols)
      && col * elemBits a.fmt % 512 == 0 && code }

/-- TCOPY (R336): a scale tile has code 0x09, and may be given only where A's code takes one. -/
def copyTile (k : Core) (r : Req) : TileRule :=
  let f := (k.opTile r.a).fmt
  if r.t.b = Spec.zero then { codes := [(r.a, r.t.fa.toNat)] }
  else { codes := [(r.a, r.t.fa.toNat), (r.b, 9)], shapes := fmtScaled f || f == 3 || f == 8 }

/-- T of SF4 is a positive normal number (R338). -/
def tensorScaleOk (v : W64) : Bool :=
  let n := bits v.toNat 0 32
  decide (2 ^ 23 ≤ n) && decide (n < 0x7F800000)

/-- TQNT (R338). -/
def quantTile (k : Core) (r : Req) : TileRule :=
  let a := k.opTile r.a
  let fc := r.t.fc.toNat
  let len := if fc = 0x12 then a.ncols % 16 == 0 && tensorScaleOk r.b
    else if decide (0x0C ≤ fc) && decide (fc ≤ 0x11) then a.ncols % 32 == 0 else true
  { codes := [(r.a, r.t.fa.toNat)], shapes := len && wholeRow fc a.ncols }

/-- TRED (R342). -/
def redTileRule (k : Core) (r : Req) : TileRule :=
  let a := k.opTile r.a
  { codes := [(r.a, r.t.fa.toNat)], shapes := wholeRow r.t.fc.toNat (if r.t.tra then a.ncols else 1) }

/-- TBCST (Table 12.5). -/
def bcastTile (k : Core) (r : Req) : TileRule :=
  let a := k.opTile r.a
  let (nc, nr) := shapeOf r.b
  { codes := [(r.a, r.t.fa.toNat)]
    shapes := shapeWordOk r.t.fc.toNat r.b
      && (if r.t.tmod = 1 then a.ncols == 1 && a.nrows == nr else a.nrows == 1 && a.ncols == nc) }

/-- TTRN (Table 12.5). -/
def turnTile (k : Core) (r : Req) : TileRule :=
  { codes := [(r.a, r.t.fa.toNat)], shapes := wholeRow r.t.fc.toNat (k.opTile r.a).nrows }

/-- TGTH (Table 12.5). -/
def gatherTile (k : Core) (r : Req) : TileRule :=
  let (a, b, _) := k.operands r
  { codes := [(r.a, r.t.fa.toNat), (r.b, r.t.fb.toNat)]
    shapes := b.isLine && wholeRow r.t.fc.toNat (if r.t.tmod = 1 then b.entries else a.ncols) }

/-- TSCT (Table 12.5). -/
def scatterTile (k : Core) (r : Req) : TileRule :=
  let (a, b, d) := k.operands r
  let cols := r.t.tmod == 1
  { codes := [(r.a, r.t.fa.toNat), (r.b, r.t.fb.toNat), (r.d, r.t.fc.toNat)]
    shapes := b.isLine && b.entries == a.extent cols && a.extent (!cols) == d.extent (!cols) }

/-- TGET and TSET (R345): the position lies inside A. -/
def elementRule (k : Core) (r : Req) : TileRule :=
  let a := k.opTile r.a
  let (col, row) := posOf r.b
  { codes := [(r.a, r.t.fa.toNat)], shapes := !shapeBad r.b && decide (col < a.ncols) && decide (row < a.nrows) }

/-- TSPL (Table 12.5). -/
def splitTile (k : Core) (r : Req) : TileRule :=
  let a := k.opTile r.a
  let p := z32 r.b
  let cols := r.t.tmod == 1
  let whole := !cols || (wholeRow r.t.fa.toNat p && wholeRow r.t.fa.toNat (a.ncols - p))
  { codes := [(r.a, r.t.fa.toNat)], shapes := decide (1 ≤ p) && decide (p < a.extent cols) && whole }

/-- TCAT (Table 12.5). -/
def joinTiles (k : Core) (r : Req) : TileRule :=
  let (a, b, _) := k.operands r
  let cols := r.t.tmod == 1
  { codes := [(r.a, r.t.fa.toNat), (r.b, r.t.fb.toNat)]
    shapes := a.extent (!cols) == b.extent (!cols) && decide (a.extent cols + b.extent cols ≤ 2048) }

/-- RACC (R349): A has code 0x00 and is EMPTY or FULL, or PENDING only because its own accumulator is adding to it; B has A's
shape. -/
def raccRule (k : Core) (r : Req) : TileRule :=
  let (a, b, _) := k.operands r
  { codes := [(r.a, r.t.fa.toNat), (r.b, r.t.fb.toNat)], shapes := sameShape a b && (a.st != .pending || k.adding r.a) }

/-- MMA, MMAS, MMAW and MMAX (R351, R352). -/
def matrixRule (k : Core) (r : Req) : TileRule :=
  { codes := [(r.a, r.t.fa.toNat), (r.b, r.t.fb.toNat)] ++ (if r.t.acc then [(r.d, 0)] else [])
    shapes := k.mmaShapes r && (!k.intPath r || r.t.fc.toNat == 0) }

/-! ## Meanings -/

/-- TALLOC (R331). -/
def execTalloc (w : TWord) (s : State) : Host.Outcome State Fault Refusal :=
  word (.t w) (requestT w (.talloc w) (fun _ r => { shapes := shapeWordOk r.t.fc.toNat r.a })) s

/-- TFREE (R332). -/
def execTfree (w : TWord) (s : State) : Host.Outcome State Fault Refusal :=
  word (.t w) (requestT w (.tfree w) (fun _ _ => {})) s

/-- TDESC (R333). -/
def execTdesc (w : TWord) (s : State) : Host.Outcome State Fault Refusal :=
  word (.t w) (requestT w (.tdesc w) (fun _ r => { shapes := decide (z32 r.b < 2) })) s

/-- TVIEW (R334). -/
def execTview (w : TWord) (s : State) : Host.Outcome State Fault Refusal :=
  word (.t w) (requestT w (.tview w) viewTile) s

/-- TFILL (R335). -/
def execTfill (w : TWord) (s : State) : Host.Outcome State Fault Refusal :=
  word (.t w) (requestT w (.tfill w) (fun _ r => { shapes := shapeWordOk r.t.fc.toNat r.a })) s

/-- TCOPY (R336). -/
def execTcopy (w : TWord) (s : State) : Host.Outcome State Fault Refusal :=
  word (.t w) (requestT w (.tcopy w) copyTile) s

/-- TCVT (R337). -/
def execTcvt (w : TWord) (s : State) : Host.Outcome State Fault Refusal :=
  word (.t w) (requestT w (.tcvt w) oneTile) s

/-- TQNT (R338). -/
def execTqnt (w : TWord) (s : State) : Host.Outcome State Fault Refusal :=
  word (.t w) (requestT w (.tqnt w) quantTile) s

/-- TADD (R339, R340). -/
def execTadd (w : TWord) (s : State) : Host.Outcome State Fault Refusal :=
  word (.t w) (requestT w (.tadd w) twoTiles) s

/-- TSUB (R339, R340). -/
def execTsub (w : TWord) (s : State) : Host.Outcome State Fault Refusal :=
  word (.t w) (requestT w (.tsub w) twoTiles) s

/-- TMUL (R339, R340). -/
def execTmul (w : TWord) (s : State) : Host.Outcome State Fault Refusal :=
  word (.t w) (requestT w (.tmul w) twoTiles) s

/-- TFMA (R339, R340). -/
def execTfma (w : TWord) (s : State) : Host.Outcome State Fault Refusal :=
  word (.t w) (requestT w (.tfma w) fmaTiles) s

/-- TMIN (R339, R340). -/
def execTmin (w : TWord) (s : State) : Host.Outcome State Fault Refusal :=
  word (.t w) (requestT w (.tmin w) twoTiles) s

/-- TMAX (R339, R340). -/
def execTmax (w : TWord) (s : State) : Host.Outcome State Fault Refusal :=
  word (.t w) (requestT w (.tmax w) twoTiles) s

/-- TABS (R339, R340). -/
def execTabs (w : TWord) (s : State) : Host.Outcome State Fault Refusal :=
  word (.t w) (requestT w (.tabs w) signTile) s

/-- TNEG (R339, R340). -/
def execTneg (w : TWord) (s : State) : Host.Outcome State Fault Refusal :=
  word (.t w) (requestT w (.tneg w) signTile) s

/-- TCMP (R339, R340). -/
def execTcmp (w : TWord) (s : State) : Host.Outcome State Fault Refusal :=
  word (.t w) (requestT w (.tcmp w) twoTiles) s

/-- TSEL (R339, R340). -/
def execTsel (w : TWord) (s : State) : Host.Outcome State Fault Refusal :=
  word (.t w) (requestT w (.tsel w) selTiles) s

/-- TPWP (R341). -/
def execTpwp (w : TWord) (s : State) : Host.Outcome State Fault Refusal :=
  word (.t w) (requestT w (.tpwp w) oneTile) s

/-- TLUT (R341). -/
def execTlut (w : TWord) (s : State) : Host.Outcome State Fault Refusal :=
  word (.t w) (requestT w (.tlut w) oneTile) s

/-- TRED (R342). -/
def execTred (w : TWord) (s : State) : Host.Outcome State Fault Refusal :=
  word (.t w) (requestT w (.tred w) redTileRule) s

/-- TSCAN (R342). -/
def execTscan (w : TWord) (s : State) : Host.Outcome State Fault Refusal :=
  word (.t w) (requestT w (.tscan w) oneTile) s

/-- TBCST (R343). -/
def execTbcst (w : TWord) (s : State) : Host.Outcome State Fault Refusal :=
  word (.t w) (requestT w (.tbcst w) bcastTile) s

/-- TTRN (R343). -/
def execTtrn (w : TWord) (s : State) : Host.Outcome State Fault Refusal :=
  word (.t w) (requestT w (.ttrn w) turnTile) s

/-- TGTH (R343). -/
def execTgth (w : TWord) (s : State) : Host.Outcome State Fault Refusal :=
  word (.t w) (requestT w (.tgth w) gatherTile) s

/-- TSCT (R343). -/
def execTsct (w : TWord) (s : State) : Host.Outcome State Fault Refusal :=
  word (.t w) (requestT w (.tsct w) scatterTile) s

/-- TGET (R345). -/
def execTget (w : TWord) (s : State) : Host.Outcome State Fault Refusal :=
  word (.t w) (requestT w (.tget w) elementRule) s

/-- TSET (R345). -/
def execTset (w : TWord) (s : State) : Host.Outcome State Fault Refusal :=
  word (.t w) (requestT w (.tset w) elementRule) s

/-- TSPL (R343, R344). -/
def execTspl (w : TWord) (s : State) : Host.Outcome State Fault Refusal :=
  word (.t w) (requestT w (.tspl w) splitTile) s

/-- TCAT (R343). -/
def execTcat (w : TWord) (s : State) : Host.Outcome State Fault Refusal :=
  word (.t w) (requestT w (.tcat w) joinTiles) s

/-- RACC (R347, R349). -/
def execRacc (w : TWord) (s : State) : Host.Outcome State Fault Refusal :=
  word (.t w) (requestAcc w (.racc w) raccRule) s

/-- RACS (R346, R347). -/
def execRacs (w : TWord) (s : State) : Host.Outcome State Fault Refusal :=
  word (.t w) (requestAcc w (.racs w) (fun _ r => { shapes := decide (z32 r.b < 256) })) s

/-- MMA (R351 to R353). -/
def execMma (w : TWord) (s : State) : Host.Outcome State Fault Refusal :=
  word (.t w) (requestT w (.mma w) matrixRule) s

/-- MMAS (R351 to R354). -/
def execMmas (w : TWord) (s : State) : Host.Outcome State Fault Refusal :=
  word (.t w) (requestT w (.mmas w) matrixRule) s

/-- MMAW (R351 to R355). -/
def execMmaw (w : TWord) (s : State) : Host.Outcome State Fault Refusal :=
  word (.t w) (requestT w (.mmaw w) matrixRule) s

/-- MMAX (R351 to R355). -/
def execMmax (w : TWord) (s : State) : Host.Outcome State Fault Refusal :=
  word (.t w) (requestT w (.mmax w) matrixRule) s

end Sys2Proof.Machine
end

