-- ==== Sys2Proof/Machine/MemWords.lean ====
section
/-! DEFINITION. The memory, copy, walker, routing and scheduler words (R317, R318, R357 to R390): each checks its operands
and stages its request. -/

namespace Sys2Proof.Machine

/-! ## Checks of R358 -/

/-- The tile operands are valid (R358). -/
def handlesOk (s : State) (c : Nat) (l : Firing) (r : Req) : Except Trap Unit :=
  check .tileStale (r.handles.all (fun h => l.handleOk s c h))

/-- A scalar address is a multiple of the access's size (R362). -/
def scalarAligned (_ : State) (_ : Nat) (_ : Firing) (r : Req) : Except Trap Req := do
  check .align (addrOf r.a % r.bytes == 0)
  return r

/-- WATCH (R367). -/
def watchChecks (_ : State) (_ : Nat) (_ : Firing) (r : Req) : Except Trap Req := do
  check .type (decide (r.d.toNat ≤ 2 ^ 40))
  check .align (addrOf r.a % r.bytes == 0)
  return r

/-- An index tile (R369). -/
def indexTileOk (t : Tile) : Bool := t.fmt == 0 && t.isLine

/-- A multiple of 16. -/
def aligned16 (v : W64) : Bool := v.toNat % 16 == 0

/-- TLD (R369, R370). -/
def tldChecks (_ : State) (_ : Nat) (_ : Firing) (r : Req) : Except Trap Req := do
  check .type (shapeWordOk r.memFmt r.b)
  check .align (aligned16 r.a && aligned16 r.d)
  return r

/-- TST (R369, R371). -/
def tstChecks (s : State) (c : Nat) (l : Firing) (r : Req) : Except Trap Req := do
  handlesOk s c l r
  check .type ((s.tileOf c r.b).fmt == r.memFmt)
  check .align (aligned16 r.a && aligned16 r.d)
  return r

/-- TLDI (R369, R372). -/
def tldiChecks (s : State) (c : Nat) (l : Firing) (r : Req) : Except Trap Req := do
  handlesOk s c l r
  let x := s.tileOf c r.b
  check .type (indexTileOk x && shapeWordOk r.memFmt r.d && (shapeOf r.d).2 == x.entries)
  check .align (aligned16 r.a)
  return r

/-- TSTI (R369, R372). -/
def tstiChecks (s : State) (c : Nat) (l : Firing) (r : Req) : Except Trap Req := do
  handlesOk s c l r
  let x := s.tileOf c r.d
  let t := s.tileOf c r.b
  check .type (indexTileOk x && t.fmt == r.memFmt && t.nrows == x.entries)
  check .align (aligned16 r.a)
  return r

/-- CPY (R374). -/
def cpyChecks (_ : State) (_ : Nat) (_ : Firing) (r : Req) : Except Trap Req := do
  check .align (addrOf r.a % 32 == 0)
  return r

/-- CPYR (R374): the request is T0 to T3 of the lane. -/
def cpyrChecks (_ : State) (_ : Nat) (l : Firing) (r : Req) : Except Trap Req :=
  .ok { r with q := (List.range 4).map l.temp }

/-- WGO (R378 to R380): in store mode B is a tile, which must be valid; whether the walker stores is seen at the word. -/
def wgoChecks (s : State) (c : Nat) (l : Firing) (r : Req) : Except Trap Req := do
  let store := match (s.core c).liveWalker r with
    | some (_, w) => w.shape.store
    | none => false
  let r1 := { r with hasTile := store }
  handlesOk s c l r1
  check .type (!walkerWordBad r.a)
  return r1

/-- WPAR (R378, R381). -/
def wparOk (r : Req) : Bool :=
  !walkerWordBad r.a && (decide (r.m.mflg.toNat < 2) || decide (r.b.toNat ≤ 16777215))

/-- RSEL (R383): the score tile is valid. -/
def rselChecks (s : State) (c : Nat) (l : Firing) (r : Req) : Except Trap Req := do
  handlesOk s c l r
  return r

/-- The reserved bits of an `EXPO` value are zero (R390, Table 4.4). -/
def expoOk (v : W64) : Bool := bits v.toNat 48 16 == 0 && bits v.toNat 11 21 == 0

/-- CNTRD stages no outbound entry: its answer follows the commit's sends (R388). -/
def counterWord (w : MWord) : LaneFn :=
  lane fun s c l => do
    let (a, l1) ← l.read s c w.a
    check .type (decide (z32 a < 64))
    return l1.stage (.counter (l1.ask s c (.cntrd w) w.cent w.cport a 0 0))

/-! ## Meanings -/

/-- PWLD (R317). -/
def execPwld (w : MWord) (s : State) : Host.Outcome State Fault Refusal :=
  word (.m w) (requestM w (.pwld w) unchecked) s

/-- LUTLD (R318). -/
def execLutld (w : MWord) (s : State) : Host.Outcome State Fault Refusal :=
  word (.m w) (requestM w (.lutld w) unchecked) s

/-- LD (R362). -/
def execLd (w : MWord) (s : State) : Host.Outcome State Fault Refusal :=
  word (.m w) (requestM w (.ld w) scalarAligned) s

/-- ST (R362). -/
def execSt (w : MWord) (s : State) : Host.Outcome State Fault Refusal :=
  word (.m w) (requestM w (.st w) scalarAligned) s

/-- LDA (R362). -/
def execLda (w : MWord) (s : State) : Host.Outcome State Fault Refusal :=
  word (.m w) (requestM w (.lda w) scalarAligned) s

/-- STR (R362). -/
def execStr (w : MWord) (s : State) : Host.Outcome State Fault Refusal :=
  word (.m w) (requestM w (.str w) scalarAligned) s

/-- ATOM (R363). -/
def execAtom (w : MWord) (s : State) : Host.Outcome State Fault Refusal :=
  word (.m w) (requestM w (.atom w) scalarAligned) s

/-- ATMN (R364). -/
def execAtmn (w : MWord) (s : State) : Host.Outcome State Fault Refusal :=
  word (.m w) (requestM w (.atmn w) scalarAligned) s

/-- DRAIN (R365). -/
def execDrain (w : MWord) (s : State) : Host.Outcome State Fault Refusal :=
  word (.m w) (requestM w (.drain w) unchecked) s

/-- WATCH (R367). -/
def execWatch (w : MWord) (s : State) : Host.Outcome State Fault Refusal :=
  word (.m w) (requestM w (.watch w) watchChecks) s

/-- TLD (R370). -/
def execTld (w : MWord) (s : State) : Host.Outcome State Fault Refusal :=
  word (.m w) (requestM w (.tld w) tldChecks) s

/-- TST (R371). -/
def execTst (w : MWord) (s : State) : Host.Outcome State Fault Refusal :=
  word (.m w) (requestM w (.tst w) tstChecks) s

/-- TLDI (R372). -/
def execTldi (w : MWord) (s : State) : Host.Outcome State Fault Refusal :=
  word (.m w) (requestM w (.tldi w) tldiChecks) s

/-- TSTI (R372). -/
def execTsti (w : MWord) (s : State) : Host.Outcome State Fault Refusal :=
  word (.m w) (requestM w (.tsti w) tstiChecks) s

/-- WCFLUSH (R365). -/
def execWcflush (w : MWord) (s : State) : Host.Outcome State Fault Refusal :=
  word (.m w) (requestM w (.wcflush w) unchecked) s

/-- PREF (R366). -/
def execPref (w : MWord) (s : State) : Host.Outcome State Fault Refusal :=
  word (.m w) (requestM w (.pref w) (needs .type fun r => decide (r.b.toNat ≤ 2 ^ 36))) s

/-- CPY (R374). -/
def execCpy (w : MWord) (s : State) : Host.Outcome State Fault Refusal :=
  word (.m w) (requestM w (.cpy w) cpyChecks) s

/-- CPYR (R374). -/
def execCpyr (w : MWord) (s : State) : Host.Outcome State Fault Refusal :=
  word (.m w) (requestM w (.cpyr w) cpyrChecks) s

/-- WCFG (R155). -/
def execWcfg (w : MWord) (s : State) : Host.Outcome State Fault Refusal :=
  word (.m w) (requestM w (.wcfg w) unchecked) s

/-- WGO (R379, R380). -/
def execWgo (w : MWord) (s : State) : Host.Outcome State Fault Refusal :=
  word (.m w) (requestM w (.wgo w) wgoChecks) s

/-- WPAR (R381). -/
def execWpar (w : MWord) (s : State) : Host.Outcome State Fault Refusal :=
  word (.m w) (requestM w (.wpar w) (needs .type wparOk)) s

/-- WSTOP (R381). -/
def execWstop (w : MWord) (s : State) : Host.Outcome State Fault Refusal :=
  word (.m w) (requestM w (.wstop w) (needs .type fun r => !walkerWordBad r.a)) s

/-- WSTAT (R382). -/
def execWstat (w : MWord) (s : State) : Host.Outcome State Fault Refusal :=
  word (.m w) (requestM w (.wstat w) (needs .type fun r => !walkerWordBad r.a)) s

/-- ROPEN (R176). -/
def execRopen (w : MWord) (s : State) : Host.Outcome State Fault Refusal :=
  word (.m w) (requestM w (.ropen w) unchecked) s

/-- RSEL (R179). -/
def execRsel (w : MWord) (s : State) : Host.Outcome State Fault Refusal :=
  word (.m w) (requestM w (.rsel w) rselChecks) s

/-- RROW (R187). -/
def execRrow (w : MWord) (s : State) : Host.Outcome State Fault Refusal :=
  word (.m w) (requestM w (.rrow w) unchecked) s

/-- RCLOSE_SEL (R181). -/
def execRcloseSel (w : MWord) (s : State) : Host.Outcome State Fault Refusal :=
  word (.m w) (requestM w (.rcloseSel w) unchecked) s

/-- RCLOSE_FIN (R188). -/
def execRcloseFin (w : MWord) (s : State) : Host.Outcome State Fault Refusal :=
  word (.m w) (requestM w (.rcloseFin w) unchecked) s

/-- RCOMB (R189). -/
def execRcomb (w : MWord) (s : State) : Host.Outcome State Fault Refusal :=
  word (.m w) (requestM w (.rcomb w) unchecked) s

/-- RBIAS (R192). -/
def execRbias (w : MWord) (s : State) : Host.Outcome State Fault Refusal :=
  word (.m w) (requestM w (.rbias w) unchecked) s

/-- RSTAT (R194). -/
def execRstat (w : MWord) (s : State) : Host.Outcome State Fault Refusal :=
  word (.m w) (requestM w (.rstat w) unchecked) s

/-- SVWR (R387). -/
def execSvwr (w : MWord) (s : State) : Host.Outcome State Fault Refusal :=
  word (.m w) (requestM w (.svwr w) (needs .type fun r => decide (z32 r.a < 32))) s

/-- CNTRD (R388). -/
def execCntrd (w : MWord) (s : State) : Host.Outcome State Fault Refusal := word (.m w) (counterWord w) s

/-- TICK (R389). -/
def execTick (w : MWord) (s : State) : Host.Outcome State Fault Refusal :=
  word (.m w) (requestM w (.tick w) (needs .type fun r => decide (1 ≤ z32 r.a) && decide (z32 r.a < 65536))) s

/-- EXPO (R390). -/
def execExpo (w : MWord) (s : State) : Host.Outcome State Fault Refusal :=
  word (.m w) (requestM w (.expo w) (needs .type fun r => expoOk r.a)) s

end Sys2Proof.Machine
end

