-- ==== Sys2Proof/Machine/Dispatch.lean ====
section
/-! DEFINITION. One arm per constructor of `Instr`: each a direct call of its meaning. -/

namespace Sys2Proof.Machine

/-- What a step of the machine does: an instruction word at the lanes that issue it, or an event of the device. -/
def exec (i : Instr) (s : State) : Host.Outcome State Fault Refusal :=
  match i with
  | .send w => Sys2Proof.Machine.execSend w s
  | .send2 w => Sys2Proof.Machine.execSend2 w s
  | .sendx w => Sys2Proof.Machine.execSendx w s
  | .steer w => Sys2Proof.Machine.execSteer w s
  | .merge w => Sys2Proof.Machine.execMerge w s
  | .falloc w => Sys2Proof.Machine.execFalloc w s
  | .ffree w => Sys2Proof.Machine.execFfree w s
  | .flimit w => Sys2Proof.Machine.execFlimit w s
  | .ldf w => Sys2Proof.Machine.execLdf w s
  | .stf w => Sys2Proof.Machine.execStf w s
  | .tags w => Sys2Proof.Machine.execTags w s
  | .tagi w => Sys2Proof.Machine.execTagi w s
  | .dims w => Sys2Proof.Machine.execDims w s
  | .drop w => Sys2Proof.Machine.execDrop w s
  | .keep w => Sys2Proof.Machine.execKeep w s
  | .skip w => Sys2Proof.Machine.execSkip w s
  | .rsplit w => Sys2Proof.Machine.execRsplit w s
  | .steal w => Sys2Proof.Machine.execSteal w s
  | .gdone w => Sys2Proof.Machine.execGdone w s
  | .cancel w => Sys2Proof.Machine.execCancel w s
  | .add w => Sys2Proof.Machine.execAdd w s
  | .sub w => Sys2Proof.Machine.execSub w s
  | .mul w => Sys2Proof.Machine.execMul w s
  | .mulh w => Sys2Proof.Machine.execMulh w s
  | .mad w => Sys2Proof.Machine.execMad w s
  | .div w => Sys2Proof.Machine.execDiv w s
  | .rem w => Sys2Proof.Machine.execRem w s
  | .neg w => Sys2Proof.Machine.execNeg w s
  | .abs w => Sys2Proof.Machine.execAbs w s
  | .min w => Sys2Proof.Machine.execMin w s
  | .max w => Sys2Proof.Machine.execMax w s
  | .and w => Sys2Proof.Machine.execAnd w s
  | .or w => Sys2Proof.Machine.execOr w s
  | .xor w => Sys2Proof.Machine.execXor w s
  | .not w => Sys2Proof.Machine.execNot w s
  | .andn w => Sys2Proof.Machine.execAndn w s
  | .shl w => Sys2Proof.Machine.execShl w s
  | .shr w => Sys2Proof.Machine.execShr w s
  | .sar w => Sys2Proof.Machine.execSar w s
  | .rol w => Sys2Proof.Machine.execRol w s
  | .ror w => Sys2Proof.Machine.execRor w s
  | .clz w => Sys2Proof.Machine.execClz w s
  | .ctz w => Sys2Proof.Machine.execCtz w s
  | .popc w => Sys2Proof.Machine.execPopc w s
  | .brev w => Sys2Proof.Machine.execBrev w s
  | .bfx w => Sys2Proof.Machine.execBfx w s
  | .bfi w => Sys2Proof.Machine.execBfi w s
  | .bilv w => Sys2Proof.Machine.execBilv w s
  | .bdlv w => Sys2Proof.Machine.execBdlv w s
  | .cmp w => Sys2Proof.Machine.execCmp w s
  | .sel w => Sys2Proof.Machine.execSel w s
  | .mov w => Sys2Proof.Machine.execMov w s
  | .movi w => Sys2Proof.Machine.execMovi w s
  | .movh w => Sys2Proof.Machine.execMovh w s
  | .lea w => Sys2Proof.Machine.execLea w s
  | .ext w => Sys2Proof.Machine.execExt w s
  | .fadd w => Sys2Proof.Machine.execFadd w s
  | .fsub w => Sys2Proof.Machine.execFsub w s
  | .fmul w => Sys2Proof.Machine.execFmul w s
  | .ffma w => Sys2Proof.Machine.execFfma w s
  | .fdiv w => Sys2Proof.Machine.execFdiv w s
  | .fsqrt w => Sys2Proof.Machine.execFsqrt w s
  | .frcp w => Sys2Proof.Machine.execFrcp w s
  | .frsq w => Sys2Proof.Machine.execFrsq w s
  | .fmin w => Sys2Proof.Machine.execFmin w s
  | .fmax w => Sys2Proof.Machine.execFmax w s
  | .fminn w => Sys2Proof.Machine.execFminn w s
  | .fmaxn w => Sys2Proof.Machine.execFmaxn w s
  | .fabs w => Sys2Proof.Machine.execFabs w s
  | .fneg w => Sys2Proof.Machine.execFneg w s
  | .fcps w => Sys2Proof.Machine.execFcps w s
  | .fcmp w => Sys2Proof.Machine.execFcmp w s
  | .fcls w => Sys2Proof.Machine.execFcls w s
  | .frnd w => Sys2Proof.Machine.execFrnd w s
  | .fscl w => Sys2Proof.Machine.execFscl w s
  | .fxtr w => Sys2Proof.Machine.execFxtr w s
  | .cvt w => Sys2Proof.Machine.execCvt w s
  | .pwld w => Sys2Proof.Machine.execPwld w s
  | .pwev w => Sys2Proof.Machine.execPwev w s
  | .lutld w => Sys2Proof.Machine.execLutld w s
  | .lutev w => Sys2Proof.Machine.execLutev w s
  | .talloc w => Sys2Proof.Machine.execTalloc w s
  | .tfree w => Sys2Proof.Machine.execTfree w s
  | .tdesc w => Sys2Proof.Machine.execTdesc w s
  | .tview w => Sys2Proof.Machine.execTview w s
  | .tfill w => Sys2Proof.Machine.execTfill w s
  | .tcopy w => Sys2Proof.Machine.execTcopy w s
  | .tcvt w => Sys2Proof.Machine.execTcvt w s
  | .tqnt w => Sys2Proof.Machine.execTqnt w s
  | .tadd w => Sys2Proof.Machine.execTadd w s
  | .tsub w => Sys2Proof.Machine.execTsub w s
  | .tmul w => Sys2Proof.Machine.execTmul w s
  | .tfma w => Sys2Proof.Machine.execTfma w s
  | .tmin w => Sys2Proof.Machine.execTmin w s
  | .tmax w => Sys2Proof.Machine.execTmax w s
  | .tabs w => Sys2Proof.Machine.execTabs w s
  | .tneg w => Sys2Proof.Machine.execTneg w s
  | .tcmp w => Sys2Proof.Machine.execTcmp w s
  | .tsel w => Sys2Proof.Machine.execTsel w s
  | .tpwp w => Sys2Proof.Machine.execTpwp w s
  | .tlut w => Sys2Proof.Machine.execTlut w s
  | .tred w => Sys2Proof.Machine.execTred w s
  | .tscan w => Sys2Proof.Machine.execTscan w s
  | .tbcst w => Sys2Proof.Machine.execTbcst w s
  | .ttrn w => Sys2Proof.Machine.execTtrn w s
  | .tgth w => Sys2Proof.Machine.execTgth w s
  | .tsct w => Sys2Proof.Machine.execTsct w s
  | .tget w => Sys2Proof.Machine.execTget w s
  | .tset w => Sys2Proof.Machine.execTset w s
  | .tspl w => Sys2Proof.Machine.execTspl w s
  | .tcat w => Sys2Proof.Machine.execTcat w s
  | .racc w => Sys2Proof.Machine.execRacc w s
  | .racs w => Sys2Proof.Machine.execRacs w s
  | .mma w => Sys2Proof.Machine.execMma w s
  | .mmas w => Sys2Proof.Machine.execMmas w s
  | .mmaw w => Sys2Proof.Machine.execMmaw w s
  | .mmax w => Sys2Proof.Machine.execMmax w s
  | .ld w => Sys2Proof.Machine.execLd w s
  | .st w => Sys2Proof.Machine.execSt w s
  | .lda w => Sys2Proof.Machine.execLda w s
  | .str w => Sys2Proof.Machine.execStr w s
  | .atom w => Sys2Proof.Machine.execAtom w s
  | .atmn w => Sys2Proof.Machine.execAtmn w s
  | .drain w => Sys2Proof.Machine.execDrain w s
  | .watch w => Sys2Proof.Machine.execWatch w s
  | .tld w => Sys2Proof.Machine.execTld w s
  | .tst w => Sys2Proof.Machine.execTst w s
  | .tldi w => Sys2Proof.Machine.execTldi w s
  | .tsti w => Sys2Proof.Machine.execTsti w s
  | .wcflush w => Sys2Proof.Machine.execWcflush w s
  | .pref w => Sys2Proof.Machine.execPref w s
  | .cpy w => Sys2Proof.Machine.execCpy w s
  | .cpyr w => Sys2Proof.Machine.execCpyr w s
  | .wcfg w => Sys2Proof.Machine.execWcfg w s
  | .wgo w => Sys2Proof.Machine.execWgo w s
  | .wpar w => Sys2Proof.Machine.execWpar w s
  | .wstop w => Sys2Proof.Machine.execWstop w s
  | .wstat w => Sys2Proof.Machine.execWstat w s
  | .ropen w => Sys2Proof.Machine.execRopen w s
  | .rsel w => Sys2Proof.Machine.execRsel w s
  | .rrow w => Sys2Proof.Machine.execRrow w s
  | .rcloseSel w => Sys2Proof.Machine.execRcloseSel w s
  | .rcloseFin w => Sys2Proof.Machine.execRcloseFin w s
  | .rcomb w => Sys2Proof.Machine.execRcomb w s
  | .rbias w => Sys2Proof.Machine.execRbias w s
  | .rstat w => Sys2Proof.Machine.execRstat w s
  | .svrd w => Sys2Proof.Machine.execSvrd w s
  | .svwr w => Sys2Proof.Machine.execSvwr w s
  | .cntrd w => Sys2Proof.Machine.execCntrd w s
  | .tick w => Sys2Proof.Machine.execTick w s
  | .expo w => Sys2Proof.Machine.execExpo w s
  | .clk w => Sys2Proof.Machine.execClk w s
  | .perfGet w => Sys2Proof.Machine.execPerfGet w s
  | .perfSet w => Sys2Proof.Machine.execPerfSet w s
  | .flagsGet w => Sys2Proof.Machine.execFlagsGet w s
  | .flagsSet w => Sys2Proof.Machine.execFlagsSet w s
  | .flagsJoin w => Sys2Proof.Machine.execFlagsJoin w s
  | .trap w => Sys2Proof.Machine.execTrap w s
  | .brk w => Sys2Proof.Machine.execBrk w s
  | .nop w => Sys2Proof.Machine.execNop w s
  | .fundamentalReset => Sys2Proof.Machine.execFundamentalReset s
  | .auxPowerLoss => Sys2Proof.Machine.execAuxPowerLoss s
  | .mainUndervoltage => Sys2Proof.Machine.execMainUndervoltage s
  | .hkcFault watchdog => Sys2Proof.Machine.execHkcFault watchdog s
  | .temperatureThreshold sensor temp => Sys2Proof.Machine.execTemperatureThreshold sensor temp s
  | .powerCapWindow avg peak => Sys2Proof.Machine.execPowerCapWindow avg peak s
  | .fwmboxChunk value => Sys2Proof.Machine.execFwmboxChunk value s
  | .fwVerify => Sys2Proof.Machine.execFwVerify s
  | .proofServiceEntry report => Sys2Proof.Machine.execProofServiceEntry report s
  | .fullServiceEntry report => Sys2Proof.Machine.execFullServiceEntry report s
  | .spdmRequest port mailbox request => Sys2Proof.Machine.execSpdmRequest port mailbox request s
  | .ideCheckFail port => Sys2Proof.Machine.execIdeCheckFail port s
  | .cxlLinkState port offer => Sys2Proof.Machine.execCxlLinkState port offer s
  | .yilyelLaneFail link lane trained => Sys2Proof.Machine.execYilyelLaneFail link lane trained s
  | .dataFlit link flit => Sys2Proof.Machine.execDataFlit link flit s
  | .idleFlit link flit => Sys2Proof.Machine.execIdleFlit link flit s
  | .retryRequest link flit => Sys2Proof.Machine.execRetryRequest link flit s
  | .timeMark link flit => Sys2Proof.Machine.execTimeMark link flit s
  | .timeMarkSend => Sys2Proof.Machine.execTimeMarkSend s
  | .tileTransfer n => Sys2Proof.Machine.execTileTransfer n s
  | .readRequest n => Sys2Proof.Machine.execReadRequest n s
  | .writeRequest n => Sys2Proof.Machine.execWriteRequest n s
  | .atomicRequest n => Sys2Proof.Machine.execAtomicRequest n s
  | .watchRequest n => Sys2Proof.Machine.execWatchRequest n s
  | .response n => Sys2Proof.Machine.execResponse n s
  | .selectionRecord n => Sys2Proof.Machine.execSelectionRecord n s
  | .endMark n => Sys2Proof.Machine.execEndMark n s
  | .slotReturn n => Sys2Proof.Machine.execSlotReturn n s
  | .counts n => Sys2Proof.Machine.execCounts n s
  | .row n => Sys2Proof.Machine.execRow n s
  | .rowAcknowledgement n => Sys2Proof.Machine.execRowAcknowledgement n s
  | .finalMark n => Sys2Proof.Machine.execFinalMark n s
  | .outputRowRead n => Sys2Proof.Machine.execOutputRowRead n s
  | .outputRowData n => Sys2Proof.Machine.execOutputRowData n s
  | .releaseMark n => Sys2Proof.Machine.execReleaseMark n s
  | .readyMark n => Sys2Proof.Machine.execReadyMark n s
  | .countTotals n => Sys2Proof.Machine.execCountTotals n s
  | .cancelMark n => Sys2Proof.Machine.execCancelMark n s
  | .curtain n => Sys2Proof.Machine.execCurtain n s
  | .laneMap n => Sys2Proof.Machine.execLaneMap n s
  | .hostResponse rid elem ok => Sys2Proof.Machine.execHostResponse rid elem ok s
  | .cxlMemRead pa ecc => Sys2Proof.Machine.execCxlMemRead pa ecc s
  | .cxlMemWrite pa data ecc => Sys2Proof.Machine.execCxlMemWrite pa data ecc s
  | .registerWrite offset size value => Sys2Proof.Machine.execRegisterWrite offset size value s
  | .qprod q value => Sys2Proof.Machine.execQprod q value s
  | .queueEnable q value => Sys2Proof.Machine.execQueueEnable q value s
  | .qerrClear q value => Sys2Proof.Machine.execQerrClear q value s
  | .ccons q value => Sys2Proof.Machine.execCcons q value s
  | .eventRingEnable value => Sys2Proof.Machine.execEventRingEnable value s
  | .evcons value => Sys2Proof.Machine.execEvcons value s
  | .msixVectorUnmask vector => Sys2Proof.Machine.execMsixVectorUnmask vector s
  | .commandAccept fetched => Sys2Proof.Machine.execCommandAccept fetched s
  | .jobOpen q => Sys2Proof.Machine.execJobOpen q s
  | .jobClose q => Sys2Proof.Machine.execJobClose q s
  | .jobCancel q => Sys2Proof.Machine.execJobCancel q s
  | .mapSet q => Sys2Proof.Machine.execMapSet q s
  | .wallSet q => Sys2Proof.Machine.execWallSet q s
  | .slotSet q => Sys2Proof.Machine.execSlotSet q s
  | .codeLoad q => Sys2Proof.Machine.execCodeLoad q s
  | .graphStart q => Sys2Proof.Machine.execGraphStart q s
  | .graphBatch q => Sys2Proof.Machine.execGraphBatch q s
  | .phaseOpen q => Sys2Proof.Machine.execPhaseOpen q s
  | .svarSet q => Sys2Proof.Machine.execSvarSet q s
  | .tickSet q => Sys2Proof.Machine.execTickSet q s
  | .floorAlloc q => Sys2Proof.Machine.execFloorAlloc q s
  | .floorFree q => Sys2Proof.Machine.execFloorFree q s
  | .faultResolve q => Sys2Proof.Machine.execFaultResolve q s
  | .cellarGrow q => Sys2Proof.Machine.execCellarGrow q s
  | .preempt q => Sys2Proof.Machine.execPreempt q s
  | .saveEnd job => Sys2Proof.Machine.execSaveEnd job s
  | .resume q => Sys2Proof.Machine.execResume q s
  | .ckpt q attic => Sys2Proof.Machine.execCkpt q attic s
  | .restore q attic => Sys2Proof.Machine.execRestore q attic s
  | .tokenArrival n => Sys2Proof.Machine.execTokenArrival n s
  | .matchToken core => Sys2Proof.Machine.execMatchToken core s
  | .firingIssue core => Sys2Proof.Machine.execFiringIssue core s
  | .issueRecoveryEnd core => Sys2Proof.Machine.execIssueRecoveryEnd core s
  | .rateWindow core => Sys2Proof.Machine.execRateWindow core s
  | .spill core job => Sys2Proof.Machine.execSpill core job s
  | .refill core job => Sys2Proof.Machine.execRefill core job s
  | .fallocRequest core n base => Sys2Proof.Machine.execFallocRequest core n base s
  | .remoteFfree n => Sys2Proof.Machine.execRemoteFfree n s
  | .stealRequestArrival n => Sys2Proof.Machine.execStealRequestArrival n s
  | .tileArrival n grant => Sys2Proof.Machine.execTileArrival n grant s
  | .tileFree core index => Sys2Proof.Machine.execTileFree core index s
  | .tileOpStart core rid grant => Sys2Proof.Machine.execTileOpStart core rid grant s
  | .tileOpDone core rid => Sys2Proof.Machine.execTileOpDone core rid s
  | .mmaStart core rid grant => Sys2Proof.Machine.execMmaStart core rid grant s
  | .mmaDone core rid residueOk => Sys2Proof.Machine.execMmaDone core rid residueOk s
  | .walkerElement core walker grant => Sys2Proof.Machine.execWalkerElement core walker grant s
  | .copyRequest die job queue => Sys2Proof.Machine.execCopyRequest die job queue s
  | .memoryPerform rid elem ecc => Sys2Proof.Machine.execMemoryPerform rid elem ecc s
  | .watchTimeout rid => Sys2Proof.Machine.execWatchTimeout rid s
  | .wcEntryWrite die n => Sys2Proof.Machine.execWcEntryWrite die n s
  | .pageWalk rid elem => Sys2Proof.Machine.execPageWalk rid elem s
  | .faultRecordWrite die => Sys2Proof.Machine.execFaultRecordWrite die s
  | .floorLit room floor => Sys2Proof.Machine.execFloorLit room floor s
  | .backgroundZero room floor region => Sys2Proof.Machine.execBackgroundZero room floor region s
  | .patrolScrub room floor corrected bad => Sys2Proof.Machine.execPatrolScrub room floor corrected bad s
  | .roomSafelight room => Sys2Proof.Machine.execRoomSafelight room s
  | .roomWake room => Sys2Proof.Machine.execRoomWake room s
  | .bankSafelight core bank => Sys2Proof.Machine.execBankSafelight core bank s
  | .bankWake core bank => Sys2Proof.Machine.execBankWake core bank s
  | .eccError core place correctable => Sys2Proof.Machine.execEccError core place correctable s
  | .coreRetire die column => Sys2Proof.Machine.execCoreRetire die column s
  | .instanceCancelMark job slot core => Sys2Proof.Machine.execInstanceCancelMark job slot core s
  | .instanceCompleteCheck job slot => Sys2Proof.Machine.execInstanceCompleteCheck job slot s
  | .primedTokensPlace job slot => Sys2Proof.Machine.execPrimedTokensPlace job slot s
  | .tickEdge job => Sys2Proof.Machine.execTickEdge job s
  | .quiescenceTimeout job slot => Sys2Proof.Machine.execQuiescenceTimeout job slot s
  | .auxiliaryInputPresent fuseOk => Sys2Proof.Machine.execAuxiliaryInputPresent fuseOk s
  | .linkUp link => Sys2Proof.Machine.execLinkUp link s
  | .tileLastByteLeft n => Sys2Proof.Machine.execTileLastByteLeft n s

end Sys2Proof.Machine
end

