-- ==== Sys2Proof/Machine/Fetch.lean ====
section
/-! DEFINITION. Fetching: the instruction word of the group that issues now, read from its block in instruction memory,
and otherwise the next input of the agenda. -/

namespace Sys2Proof.Machine

/-- What the machine does next. -/
inductive Fetched where
  /-- nothing happens -/
  | idle (s : State)
  /-- this instruction or event, in this state -/
  | run (i : Instr) (s : State)
  | fault (f : Fault)
  | refused (r : Refusal)

/-- The word at which the issuing group of a job stands (R137, R247): none without a group. -/
def State.wordAt (s : State) (c j : Nat) : Option (Option W64) :=
  match (s.core c).issuing j with
  | none => none
  | some (_, g) =>
    match (s.core c).blockOf j g.block with
    | none => some none
    | some b => some b.code[g.pc]?

/-- The next instruction or event. -/
def State.fetch (s : State) : Fetched :=
  match s.issue with
  | some (c, j) =>
    match s.wordAt c j with
    | none => .idle { s with issue := none }
    | some none => .fault .noWord
    | some (some w) =>
      match decode w with
      | .ok i => .run i s
      | .error _ => .refused .undecodable
  | none =>
    match s.agenda with
    | [] => .idle s
    | x :: rest =>
      let s1 : State := { s with agenda := rest, enginesRest := x.rest }
      .run x.event ((s1.tick x.clocks).hostWrites x.host)

/-- A block of job 0 that holds one word, as block 0. -/
def oneWord (w : W64) : Block := { job := 0, graph := none, code := [w], fsize := 512, limit := 0, gather := false, reent := false }

/-- One firing of job 0 on frame 0 of core 0, at the first word of block 0. -/
def oneFiring : Firing := { job := 0, inst := 0, block := 0, entry := 0, frame := 0, temps := List.replicate 8 0, preds := [false, false, false] }

/-- Core 0 with the word `w` next to issue for job 0: its block in place of block 0, and a group of one lane in place of the
groups of job 0. -/
def Core.withWord (k : Core) (w : W64) : Core :=
  { k with
    blocks := Table.put k.blocks 0 (oneWord w)
    groups := { job := 0, block := 0, entry := 0, pc := 0, lanes := [oneFiring] } :: k.groups.filter (fun g => g.job != 0) }

/-- The state in which `w` is the word that issues next: core 0 issues for job 0. -/
def State.withWord (s : State) (w : W64) : State :=
  let s1 := s.onCore 0 (fun k => k.withWord w)
  { s1 with issue := some (0, 0) }

end Sys2Proof.Machine
end

