-- ==== Sys2Proof/Machine/Step.lean ====
section
/-! DEFINITION. One step: fetch, then execute. -/

namespace Sys2Proof.Machine

/-- One step of the machine. -/
def step (s : State) : Host.Outcome State Fault Refusal :=
  match s.fetch with
  | .idle t => .next t
  | .run i t => exec i t
  | .fault f => .fault f
  | .refused r => .refused r

/-- `s` with the instruction of bits `w` where the next step fetches it: as the word that core 0 issues for job 0. An
instruction is one 64-bit word, the first of its bytes least significant. Log entry 51. -/
def State.withFetchWord (s : State) (nbits w : Nat) : State :=
  if nbits ≤ 64 then s.withWord (BitVec.ofNat 64 (w % 2 ^ nbits)) else s

end Sys2Proof.Machine
end

