-- ==== Sys2Proof/Machine/Bar0.lean ====
section
/-! DEFINITION. What a host read of BAR0 returns (R48 to R51, R54, R64, Table 3.1), register by register. -/

namespace Sys2Proof.Machine

/-- `DEVID` (R49): part 0x0064, stepping 0x0A, interface version 0x01. -/
def deviceId : Nat := 0x00640A01

/-- `DEVCFG` (Table 3.2). -/
def State.devcfg (s : State) : Nat := b2n s.host.tmaster * 2 ^ 11 + s.host.devnum.toNat

/-- `BOOTSTAT` (Table 2.5). -/
def Hkc.bootstat (h : Hkc) : Nat :=
  h.level.code * 2 ^ 29 + h.lastOff.toNat * 2 ^ 26 + h.svn % 64 * 2 ^ 20 + b2n h.kslot * 2 ^ 19 + b2n h.edOk * 2 ^ 18
    + b2n h.mlOk * 2 ^ 17 + h.failCode.toNat * 2 ^ 8

/-- `FWMBOX` (Table 2.2); zero once the firmware runs (R32). -/
def Hkc.fwmbox (h : Hkc) : Nat :=
  if h.fwRuns then 0
  else h.mboxOffset.toNat * 2 ^ 32 + b2n h.mboxGo * 2 ^ 31 + b2n h.mboxDone * 2 ^ 30 + h.mboxLen.toNat

/-- `TSENSE` of a sensor (Table 2.11). -/
def Hkc.sensor (h : Hkc) (i : Nat) : Nat :=
  match Table.find h.tsense i with
  | some t => 2 ^ 31 + t.toNat
  | none => 0

/-- `ECNT` of a site or room (Table 2.8). -/
def Ecnt.value (e : Ecnt) : Nat := e.resid % 2 ^ 16 * 2 ^ 48 + e.uncorr % 2 ^ 16 * 2 ^ 32 + e.corr % 2 ^ 32

/-- `QCTL` (Table 3.4). -/
def Queue.ctl (x : Queue) : Nat := b2n x.en * 2 ^ 15 + b2n x.qerr * 2 ^ 14 + x.vec.toNat * 2 ^ 8 + x.qlog

/-- A register of a command queue, by its offset in the queue (Table 3.4). -/
def Queue.reg (x : Queue) (o : Nat) : Nat :=
  match o with
  | 0x00 => x.qbase.toNat
  | 0x08 => x.cbase.toNat
  | 0x10 => x.ctl
  | 0x18 => x.prod.toNat
  | 0x20 => x.cons.toNat
  | 0x28 => x.cprod.toNat
  | 0x30 => x.ccons.toNat
  | _ => 0

/-- A register of the event ring, by its offset (Table 3.11). -/
def EventRing.reg (r : EventRing) (o : Nat) : Nat :=
  match o with
  | 0x00 => r.base.toNat
  | 0x08 => b2n r.en * 2 ^ 15 + r.vec.toNat * 2 ^ 8 + r.elog
  | 0x10 => r.prod.toNat
  | 0x18 => r.cons.toNat
  | 0x20 => r.lost.toNat
  | _ => 0

/-- A word of the MSI-X table: the vector control word shows the mask (log entry 63). -/
def State.msixWord (s : State) (o : Nat) : Nat :=
  let w := Memory.readNat s.host.msixTable o 4
  if o % 16 = 12 then w / 2 * 2 + b2n (!s.host.unmasked.contains (o / 16)) else w

/-- The aligned 8 bytes of BAR0 at an offset: zero where Table 3.1 lists nothing. -/
def State.bar8 (s : State) (off : Nat) : Nat :=
  let h := s.hkc
  match queueReg off with
  | some (q, o) => (s.queue q).reg o
  | none =>
    if off = 0 then deviceId
    else if off = 0x08 then s.devcfg
    else if off = 0x10 then (s.port 0).status
    else if off = 0x18 then (s.port 1).status
    else if off = 0x1000 then h.bootstat
    else if off = 0x1008 then h.fwmbox
    else if 0x10000 ≤ off ∧ off < 0x20000 then Memory.readNat h.fwdata (off - 0x10000) 8
    else if off = 0x20000 then h.meshmap
    else if off = 0x20008 then h.coresOk.toNat
    else if off = 0x20010 then h.coresSus.toNat
    else if off = 0x21000 then (h.pwrPeak.toNat * 2 ^ 16 + h.pwrAvg.toNat) * 2 ^ 32 + h.pwrCap.toNat
    else if off = 0x21008 then h.cethr.toNat
    else if 0x22000 ≤ off ∧ off < 0x22000 + 4 * 90 then h.sensor ((off - 0x22000) / 4 + 1) * 2 ^ 32 + h.sensor ((off - 0x22000) / 4)
    else if 0x23000 ≤ off ∧ off < 0x23000 + 8 * 88 then (s.ecntOf ((off - 0x23000) / 8)).value
    else if 0x32000 ≤ off ∧ off < 0x32040 then s.host.events.reg (off - 0x32000)
    else if 0x40000 ≤ off ∧ off < 0x42000 then (Table.getD s.host.yroute ((off - 0x40000) / 8) 0).toNat
    else if 0x44000 ≤ off ∧ off < 0x44080 then (s.link ((off - 0x44000) / 8)).status
    else if 0x100000 ≤ off ∧ off < 0x100400 then s.msixWord (off - 0x100000) + 2 ^ 32 * s.msixWord (off - 0x100000 + 4)
    else if off = 0x101000 then maskOf s.host.pending
    else 0

/-- A host read of BAR0: 4 or 8 bytes, naturally aligned; every other access returns zero (R48). -/
def State.readBar (s : State) (off size : Nat) : W64 :=
  if size = 8 ∧ off % 8 = 0 then BitVec.ofNat 64 (s.bar8 off)
  else if size = 4 ∧ off % 4 = 0 then BitVec.ofNat 64 (bits (s.bar8 (off / 8 * 8)) (off % 8 * 8) 32)
  else 0

end Sys2Proof.Machine
end

