-- ==== Sys2Proof/Safety.lean ====
section
/-! DEFINITION. What counts as a sound state and as a safe run, and the terms in which claims say what an instruction word
does to the lanes of its group. -/

namespace Sys2Proof.Machine

/-- A core's byte and keyed stores are in canonical form. -/
def Core.sound (k : Core) : Bool := Memory.wf k.store && Table.sorted k.slots && Table.sorted k.tiles && Table.sorted k.blocks

/-- Every byte memory of the machine is in canonical form: device memory, host memory, the firmware's windows and each
core's tile store. -/
def State.memoryWf (s : State) : Bool :=
  Memory.wf s.mem && Memory.wf s.hostMem && Memory.wf s.hkc.fwdata && Memory.wf s.hkc.staging && Memory.wf s.host.msixTable
    && s.cores.all (fun p => Memory.wf p.2.store)

/-- Device memory and the host's memory are in canonical form. -/
def State.memOk (s : State) : Prop := Memory.wf s.mem = true ∧ Memory.wf s.hostMem = true

/-- Every state that `n` steps reach is a state: no step faults or is refused. -/
def State.runsFor : Nat → State → Prop
  | 0, _ => True
  | n + 1, s => ∃ t, step s = .next t ∧ State.runsFor n t

/-! ## Words -/

/-- Core `c` issues for job `j`, whose issuing group is the core's group `g`, which is `x`. -/
structure State.Issues (s : State) (c j g : Nat) (x : Group) : Prop where
  issue : s.issue = some (c, j)
  group : (s.core c).issuing j = some (g, x)

/-- `s` once the issue of a word for a job on a core is counted (R174): where the lanes read. -/
def State.counted (s : State) (c j : Nat) : State :=
  ({ s with issue := none } : State).onCore c (fun k => { k.count j 0 1 with lastIssue := s.clock })

/-- `s` with these lanes in group `g` of core `c`. -/
def State.withLanes (s : State) (c g : Nat) (x : Group) (ls : List Firing) : State :=
  s.onCore c (fun k => { k with groups := setAt k.groups g { x with lanes := ls } })

/-- A lane that meets the next word: it has not trapped, been aborted, ended or skipped (R137, R293). -/
def Firing.running (l : Firing) : Bool := !l.dead && !l.ended && !l.skipped

/-- A lane at its group's next word; a word whose stored bits an uncorrectable error struck puts it in shadow (R173). -/
def Firing.atWord (l : Firing) (k : Core) (x : Group) : Firing :=
  { l with pc := x.pc, shadow := l.shadow || k.badWords.contains (x.block, x.pc) }

/-- What a word that gives a running lane any of the lanes `R` makes of the lane `l`. The values that the word read are kept
for a trap record, in `seen`. -/
def laneBecomes (s : State) (c : Nat) (x : Group) (h : Hdr) (R : Firing → Firing → Prop) (l l' : Firing) : Prop :=
  if l.dead || l.ended then l' = l
  else if l.skipped then l' = { l with pc := x.pc }
  else if (l.atWord (s.core c) x).executes h then
    ∃ l1 seen, R (l.atWord (s.core c) x) l1 ∧ l' = { l1 with seen := seen }
  else l' = l.atWord (s.core c) x

/-- The word `i` completes in every lane of the group that issues: the next state is `s` with the issue counted, each lane as
`R` says, and the word ended. Nothing else changes but by the end of the body's last word. -/
def wordGives (i : Instr) (h : Hdr) (s : State) (c j g : Nat) (x : Group) (R : Firing → Firing → Prop) : Prop :=
  ∃ ls : List Firing, exec i s = .next (((s.counted c j).withLanes c g x ls).endWord c g h.last)
    ∧ ls.length = x.lanes.length
    ∧ ∀ (n : Nat) (l l' : Firing), x.lanes[n]? = some l → ls[n]? = some l' → laneBecomes s c x h R l l'

/-- Every lane that a word runs in satisfies `P` as it meets the word. -/
def everyLane (s : State) (c : Nat) (x : Group) (h : Hdr) (P : Firing → Prop) : Prop :=
  ∀ l ∈ x.lanes, l.running = true → (l.atWord (s.core c) x).executes h = true → P (l.atWord (s.core c) x)

/-- The lane's firing can read or write this specifier: it is frameless only where the specifier names no slot (R134). -/
def Firing.reaches (l : Firing) (sp : Spec) : Prop :=
  match sp with
  | .slot _ => l.frameless = false
  | _ => True

/-- The word `i` reads A, computes `f` of it, and gives result and flags to D, in every lane that runs, for every state and
group; a frameless lane must not name a slot (R134). -/
def unaryGives (i : Instr) (w : RWord) (f : State → Nat → Firing → W64 → Result) : Prop :=
  ∀ s c j g x, s.Issues c j g x → everyLane s c x w.hdr (fun l => l.reaches w.a ∧ l.reaches w.d) →
    wordGives i w.hdr s c j g x (fun l l' => ∃ a l1, l.read s c w.a = .ok (a, l1) ∧ l1.result w.d (f s c l1 a) = .ok l')

/-- The word `i` computes `f` of A and B. -/
def binaryGives (i : Instr) (w : RWord) (f : Firing → W64 → W64 → Result) : Prop :=
  ∀ s c j g x, s.Issues c j g x → everyLane s c x w.hdr (fun l => l.reaches w.a ∧ l.reaches w.b ∧ l.reaches w.d) →
    wordGives i w.hdr s c j g x (fun l l' => ∃ a l1 b l2, l.read s c w.a = .ok (a, l1) ∧ l1.read s c w.b = .ok (b, l2)
      ∧ l2.result w.d (f l2 a b) = .ok l')

/-- The word `i` computes `f` of A, B and C. -/
def ternaryGives (i : Instr) (w : RWord) (f : Firing → W64 → W64 → W64 → Result) : Prop :=
  ∀ s c j g x, s.Issues c j g x →
    everyLane s c x w.hdr (fun l => l.reaches w.a ∧ l.reaches w.b ∧ l.reaches w.c ∧ l.reaches w.d) →
    wordGives i w.hdr s c j g x (fun l l' => ∃ a l1 b l2 e l3, l.read s c w.a = .ok (a, l1) ∧ l1.read s c w.b = .ok (b, l2)
      ∧ l2.read s c w.c = .ok (e, l3) ∧ l3.result w.d (f l3 a b e) = .ok l')

/-- The comparison `i` of A and B writes a predicate or a register (R304) and raises flags. -/
def comparesGives (i : Instr) (w : RWord) (f : W64 → W64 → Bool × Flags) : Prop :=
  ∀ s c j g x, s.Issues c j g x → everyLane s c x w.hdr (fun l => l.reaches w.a ∧ l.reaches w.b ∧ l.reaches w.d) →
    wordGives i w.hdr s c j g x (fun l l' => ∃ a l1 b l2, l.read s c w.a = .ok (a, l1) ∧ l1.read s c w.b = .ok (b, l2)
      ∧ (l2.raise (f a b).2).writeCond w.d (f a b).1 = .ok l')

/-- A lane reads A and B of a word, with these values, and goes on as `l2`. -/
def readsTwo (s : State) (c : Nat) (x y : Spec) (l : Firing) (a b : W64) (l2 : Firing) : Prop :=
  ∃ l1, l.read s c x = .ok (a, l1) ∧ l1.read s c y = .ok (b, l2)

/-- A lane reads A, B and D of a word. -/
def readsThree (s : State) (c : Nat) (x y z : Spec) (l : Firing) (a b d : W64) (l3 : Firing) : Prop :=
  ∃ l2, readsTwo s c x y l a b l2 ∧ l2.read s c z = .ok (d, l3)

/-- The M-format word `i` reads A, B and D, and stages the request that carries them (R286, R357) as `mk` completes it, if
the request passes the word's checks `ok` (R358) in every lane that runs. -/
def memoryGives (i : Instr) (w : MWord) (ok : State → Nat → Firing → Req → Prop)
    (mk : State → Nat → Firing → Req → Req := fun _ _ _ r => r) : Prop :=
  ∀ s c j g x, s.Issues c j g x →
    everyLane s c x w.hdr (fun l => l.reaches w.a ∧ l.reaches w.b ∧ l.reaches w.d ∧
      ∀ a b d l3, readsThree s c w.a w.b w.d l a b d l3 → ok s c l3 (l3.ask s c i w.cent w.cport a b d)) →
    wordGives i w.hdr s c j g x (fun l l' => ∃ a b d l3, readsThree s c w.a w.b w.d l a b d l3
      ∧ l' = l3.stage (.request (mk s c l3 (l3.ask s c i w.cent w.cport a b d))))

/-- The same of the R-format word `i`, which reads A and B and names no continuation. -/
def plainGives (i : Instr) (w : RWord) (ok : State → Nat → Firing → Req → Prop) : Prop :=
  ∀ s c j g x, s.Issues c j g x →
    everyLane s c x w.hdr (fun l => l.reaches w.a ∧ l.reaches w.b ∧
      ∀ a b l2, readsTwo s c w.a w.b l a b l2 → ok s c l2 (l2.ask s c i 0 .l a b 0)) →
    wordGives i w.hdr s c j g x (fun l l' => ∃ a b l2, readsTwo s c w.a w.b l a b l2
      ∧ l' = l2.stage (.request (l2.ask s c i 0 .l a b 0)))

/-- The checks of R324: the handles are valid, the codes and the shapes as the form's rule wants them. -/
def tileOk (rule : Core → Req → TileRule) (s : State) (c : Nat) (l : Firing) (r : Req) : Prop :=
  (∀ h ∈ r.named, l.handleOk s c h = true)
    ∧ (∀ p ∈ (rule (s.core c) r).codes, ((s.core c).opTile p.1).fmt = p.2)
    ∧ (rule (s.core c) r).shapes = true

/-- The same of the T-format word `i`, whose checks are those of R324. -/
def tileGives (i : Instr) (w : TWord) (rule : Core → Req → TileRule) : Prop :=
  ∀ s c j g x, s.Issues c j g x →
    everyLane s c x w.hdr (fun l => l.reaches w.a ∧ l.reaches w.b ∧ l.reaches w.d ∧
      ∀ a b d l3, readsThree s c w.a w.b w.d l a b d l3 → tileOk rule s c l3 (l3.ask s c i w.cent w.cport a b d)) →
    wordGives i w.hdr s c j g x (fun l l' => ∃ a b d l3, readsThree s c w.a w.b w.d l a b d l3
      ∧ l' = l3.stage (.request (l3.ask s c i w.cent w.cport a b d)))

/-- Lane `l` is the one lane of the group that issues, and a word of header `h` runs in it. -/
structure State.Alone (s : State) (c j g : Nat) (x : Group) (h : Hdr) (l : Firing) : Prop where
  issues : s.Issues c j g x
  lanes : x.lanes = [l]
  running : l.running = true
  runs : (l.atWord (s.core c) x).executes h = true

/-- The word `i` traps in its one lane (R142): nothing is staged, the record names the word and the values that it reads, and the lane is
over. -/
def trapsAlone (i : Instr) (b : Body) (s : State) (c j g : Nat) (x : Group) (l : Firing) (t : Trap) : Prop :=
  let m := l.atWord (s.core c) x
  let u := s.counted c j
  let v := m.values u c b
  let site : TrapSite := { word := (s.core c).wordAt j x, index := x.pc, a := v.1, b := v.2.1, cd := v.2.2, input := some m.first }
  exec i s = .next (((u.takeTrap c m t site).setLane c g 0 { m with dead := true }).endWord c g b.hdr.last)

/-- The M-format word `i` traps where the request that it would stage is `bad`. -/
def memoryTraps (i : Instr) (w : MWord) (bad : State → Nat → Firing → Req → Trap → Prop) : Prop :=
  ∀ s c j g x l, s.Alone c j g x w.hdr l → ∀ a b d l3 t, readsThree s c w.a w.b w.d (l.atWord (s.core c) x) a b d l3 →
    bad s c l3 (l3.ask s c i w.cent w.cport a b d) t → trapsAlone i (.m w) s c j g x l t

/-- The same of the R-format word `i`, which reads A and B. -/
def plainTraps (i : Instr) (w : RWord) (bad : State → Nat → Firing → Req → Trap → Prop) : Prop :=
  ∀ s c j g x l, s.Alone c j g x w.hdr l → ∀ a b l2 t, readsTwo s c w.a w.b (l.atWord (s.core c) x) a b l2 →
    bad s c l2 (l2.ask s c i 0 .l a b 0) t → trapsAlone i (.r w) s c j g x l t

/-- The R-format word `i` traps where the value of A is `bad`. -/
def unaryTraps (i : Instr) (w : RWord) (bad : State → Nat → Firing → W64 → Trap → Prop) : Prop :=
  ∀ s c j g x l, s.Alone c j g x w.hdr l → ∀ a l1 t, (l.atWord (s.core c) x).read s c w.a = .ok (a, l1) →
    bad s c l1 a t → trapsAlone i (.r w) s c j g x l t

/-- The T-format word `i` traps TILE_STALE where a handle is not valid, and TYPE where all are and a code or a shape is not as its rule wants it
(R324); a request that a shadow firing drops (`dropped`) is not checked (R350). -/
def tileTraps (i : Instr) (w : TWord) (rule : Core → Req → TileRule) (dropped : Bool := false) : Prop :=
  ∀ s c j g x l, s.Alone c j g x w.hdr l → ∀ a b d l3, readsThree s c w.a w.b w.d (l.atWord (s.core c) x) a b d l3 →
    (dropped = true → l3.shadow = false) →
    let r := l3.ask s c i w.cent w.cport a b d
    ((∃ h ∈ r.named, l3.handleOk s c h = false) → trapsAlone i (.t w) s c j g x l .tileStale)
    ∧ ((∀ h ∈ r.named, l3.handleOk s c h = true) →
      ((∃ p ∈ (rule (s.core c) r).codes, ((s.core c).opTile p.1).fmt ≠ p.2) ∨ (rule (s.core c) r).shapes = false) →
      trapsAlone i (.t w) s c j g x l .type)

/-- What a staged item writes into a frame slot at its commit: the slot, its value, and whether it is kept (R292). -/
def Staged.slotWrite : Staged → Option (Nat × W64 × Bool)
  | .write a v => some (a, v, false)
  | .keep a v _ => some (a, v, true)
  | .drop a => some (a, 0, false)
  | _ => none

/-- The staged item is a request or a change of the sticky flags: it sends nothing and answers nothing of its own. -/
def Staged.silent : Staged → Bool
  | .request _ | .flagsRaise _ | .flagsSet _ | .flagsJoin _ => true
  | _ => false

/-- The lane reads the value that a send takes, and a tile's handle is valid (R285). -/
def sendable (s : State) (c : Nat) (w : SWord) (sp : Spec) (l : Firing) : Prop :=
  w.sty = .ctrl ∨ (l.reaches sp ∧ ∀ v l1, l.read s c sp = .ok (v, l1) → w.sty = .tile → l.handleOk s c v = true)

/-- The send `i` stages the token of its value with the tag, DIM and target that B and D give (R283). -/
def sendGives (i : Instr) (w : SWord) (target : State → Nat → Firing → W64 → W64 → Target) : Prop :=
  ∀ s c j g x, s.Issues c j g x →
    everyLane s c x w.hdr (fun l => sendable s c w w.a l ∧ l.reaches w.b ∧ l.reaches w.d) →
    wordGives i w.hdr s c j g x (fun l l' => ∃ v l1 b d l3, l.sendValue s c w w.a = .ok (v, l1)
      ∧ readsTwo s c w.b w.d l1 b d l3
      ∧ l' = l3.stage (.send (l3.sendToken (s.coreFor c l3) w (target s c l3 b d) (l3.sendTag w d) v) l3.pc))

/-! ## Commands and records -/

/-- The command `c` of queue `q`, of opcode `op`, has its turn, and the state of its job `x` lets it take effect (R56, R58). -/
structure State.CommandRuns (s : State) (q op : Nat) (c : Cmd) (x : Job) : Prop where
  main : s.hkc.main = true
  turn : s.turn q op = some c
  job : s.job? c.job = some x
  gate : x.gate op = .run

/-- Record `i` of the inbox, `r`, is of this kind, neither a pre-emption nor a part that has not started holds it back (R117, R125),
and no earlier record of its sender and channel stands before it but such as wait for another job (R22). -/
structure State.Delivers (s : State) (i kind : Nat) (r : LinkRec) : Prop where
  main : s.hkc.main = true
  record : s.inbox[i]? = some r
  kind : r.kind = kind
  free : s.recWaits r = false
  first : s.recBehind i r = false

/-- `s` without record `i` of the inbox. -/
def State.withoutRec (s : State) (i : Nat) : State := { s with inbox := removeAt s.inbox i }

/-- Mark `i` of the inbox, `r`, is delivered, and names the fabric instance whose part here is `v` in slot `n` (R125, R126). -/
structure State.Marks (s : State) (i kind : Nat) (r : LinkRec) (n : Nat) (v : Instance) : Prop extends s.Delivers i kind r where
  part : (s.job r.job).fabricInst r.rid (recNat r.body 0 4) = some (n, v)

/-- Item `i` of the mesh is `x`, and no earlier item goes ahead of it (R11). -/
structure State.Arrives (s : State) (i : Nat) (x : MeshItem) : Prop where
  main : s.hkc.main = true
  item : s.mesh[i]? = some x
  first : s.behind i x = false

/-- A request of the tile unit that forms new bytes: all but TALLOC, TVIEW, TDESC and TFREE. -/
def formsBytes (i : Instr) : Bool :=
  match i with
  | .talloc _ | .tview _ | .tdesc _ | .tfree _ => false
  | _ => true

/-- A request that is performed element by element as it stands: all but DRAIN, WCFLUSH, PREF and WCFG. -/
def performsElements (i : Instr) : Bool :=
  match i with
  | .drain _ | .wcflush _ | .pref _ | .wcfg _ => false
  | _ => true

/-- Element `e`, number `n`, of the request `m` of core `c` may be performed at the page `p` (R223): it waits, its order lets
it, no fault has frozen its request, its translation is held, and the page allows the access. -/
structure State.Performs (s : State) (rid n c : Nat) (m : MemReq) (e : Elem) (p : TlbEntry) : Prop where
  main : s.hkc.main = true
  request : s.memReqs.find? (fun m => m.req.id == rid) = some m
  core : s.devCore m.req.job m.req.core = some c
  instr : performsElements m.req.instr = true
  begun : m.req.tileForm = false ∨ m.begun = true
  element : m.elems[n]? = some e
  waits : e.st = .waiting
  unfrozen : m.frozen = false
  gate : s.gateOpen c m = true
  order : s.mayPerform c m n = true
  page : s.tlbFind c m.req.job e.va = some p
  allowed : m.req.pageRefuses p.leaf = none

/-- `s` without item `i` of the mesh. -/
def State.withoutItem (s : State) (i : Nat) : State := { s with mesh := removeAt s.mesh i }

end Sys2Proof.Machine
end

