-- ==== Sys2Proof/Certificates/Slice0/Obligations.lean ====
section
/-! DEFINITION. The statements about the machine that are to be proved: each formalises rules of the spec that say what an
instruction, an event or the machine does. -/

open Sys2Proof Sys2Proof.Machine


/-! ## Instruction words: integers and bits -/

/-- R299: ADD, SUB, MUL, MULH, MAD, NEG, ABS, MIN and MAX give `iput` of the exact result on `ival` of their operands, and
raise no flag. -/
def Obligations.IntegerArithmetic : Prop := ∀ w : RWord,
  binaryGives (.add w) w (fun _ a b => (iput w.ty (ival w.ty a + ival w.ty b), 0))
  ∧ binaryGives (.sub w) w (fun _ a b => (iput w.ty (ival w.ty a - ival w.ty b), 0))
  ∧ binaryGives (.mul w) w (fun _ a b => (iput w.ty (ival w.ty a * ival w.ty b), 0))
  ∧ binaryGives (.mulh w) w (fun _ a b => (iput w.ty ((ival w.ty a * ival w.ty b) / ((2 ^ w.ty.width : Nat) : Int)), 0))
  ∧ ternaryGives (.mad w) w (fun _ a b e => (iput w.ty (ival w.ty a * ival w.ty b + ival w.ty e), 0))
  ∧ unaryGives (.neg w) w (fun _ _ _ a => (iput w.ty (-ival w.ty a), 0))
  ∧ unaryGives (.abs w) w (fun _ _ _ a => (iput w.ty ((ival w.ty a).natAbs : Int), 0))
  ∧ binaryGives (.min w) w (fun _ a b => (iput w.ty (min (ival w.ty a) (ival w.ty b)), 0))
  ∧ binaryGives (.max w) w (fun _ a b => (iput w.ty (max (ival w.ty a) (ival w.ty b)), 0))

/-- R301: a divisor of zero raises DZ and gives −1 (DIV) or the dividend (REM); any other divisor truncates towards zero,
and the remainder has the dividend's sign. -/
def Obligations.Division : Prop := ∀ w : RWord,
  binaryGives (.div w) w (fun _ a b =>
    if ival w.ty b = 0 then (iput w.ty (-1), flDZ) else (iput w.ty (Int.tdiv (ival w.ty a) (ival w.ty b)), 0))
  ∧ binaryGives (.rem w) w (fun _ a b =>
    if ival w.ty b = 0 then (iput w.ty (ival w.ty a), flDZ) else (iput w.ty (Int.tmod (ival w.ty a) (ival w.ty b)), 0))

/-- R300: the bit forms act on the low n bits of their operands, and shift counts are unsigned: n or more empties a logical
shift and fills an arithmetic one with the sign. R302 and R303: the extracting, inserting, interleaving and separating
forms. -/
def Obligations.BitForms : Prop :=
  (∀ w : RWord,
    binaryGives (.and w) w (fun _ a b => (iput w.ty ((ubits w.ty a &&& ubits w.ty b : Nat) : Int), 0))
    ∧ binaryGives (.or w) w (fun _ a b => (iput w.ty ((ubits w.ty a ||| ubits w.ty b : Nat) : Int), 0))
    ∧ binaryGives (.xor w) w (fun _ a b => (iput w.ty ((ubits w.ty a ^^^ ubits w.ty b : Nat) : Int), 0))
    ∧ unaryGives (.not w) w (fun _ _ _ a => (iput w.ty ((2 ^ w.ty.width - 1 - ubits w.ty a : Nat) : Int), 0))
    ∧ binaryGives (.andn w) w (fun _ a b => (iput w.ty ((ubits w.ty a &&& (2 ^ w.ty.width - 1 - ubits w.ty b) : Nat) : Int), 0))
    ∧ binaryGives (.shl w) w (fun _ a b =>
      (iput w.ty ((if ubits w.ty b < w.ty.width then ubits w.ty a * 2 ^ ubits w.ty b else 0 : Nat) : Int), 0))
    ∧ binaryGives (.shr w) w (fun _ a b =>
      (iput w.ty ((if ubits w.ty b < w.ty.width then ubits w.ty a / 2 ^ ubits w.ty b else 0 : Nat) : Int), 0))
    ∧ binaryGives (.sar w) w (fun _ a b =>
      (iput w.ty (ival w.ty a / ((2 ^ min (ubits w.ty b) (w.ty.width - 1) : Nat) : Int)), 0))
    ∧ binaryGives (.rol w) w (fun _ a b => (iput w.ty (rotLeft w.ty.width (ubits w.ty a) (ubits w.ty b) : Nat), 0))
    ∧ binaryGives (.ror w) w (fun _ a b => (iput w.ty (rotRight w.ty.width (ubits w.ty a) (ubits w.ty b) : Nat), 0))
    ∧ unaryGives (.clz w) w (fun _ _ _ a => (iput w.ty (leadingZeros w.ty.width (ubits w.ty a) : Nat), 0))
    ∧ unaryGives (.ctz w) w (fun _ _ _ a => (iput w.ty (trailingZeros w.ty.width (ubits w.ty a) : Nat), 0))
    ∧ unaryGives (.popc w) w (fun _ _ _ a => (iput w.ty (popCount w.ty.width (ubits w.ty a) : Nat), 0))
    ∧ unaryGives (.brev w) w (fun _ _ _ a => (iput w.ty (bitReverse w.ty.width (ubits w.ty a) : Nat), 0)))
  ∧ (∀ w : RWord,
    binaryGives (.bfx w) w (fun _ a b => bitExtract w.ty a b)
    ∧ ternaryGives (.bfi w) w (fun _ a b e => bitInsert w.ty a b e)
    ∧ ternaryGives (.bilv w) w (fun _ a b e => (interleave w.ty (waysOf w.mod) [ubits w.ty a, ubits w.ty b, ubits w.ty e], 0))
    ∧ unaryGives (.bdlv w) w (fun _ _ _ a => (separate w.ty (waysOf w.mod) (bits w.mod.toNat 1 2) (ubits w.ty a), 0)))

/-- BFX and BFI of their five types, bit by bit (R302): with position p and length l in the control operand, and k = min(l, n − p), BFX gives
bits p to p + k − 1 of A, above them its sign for S32 and S64 and else zeros; BFI puts the low k bits of B there and keeps the rest of A's n
bits, above which S32 has its sign. A field that straddles the end of the type is cut there; one that begins past it, or is empty, gives 0 and
A. Neither raises a flag. -/
def Obligations.BitFieldValues : Prop := ∀ (ty : ScalarTy) (a b ctl : W64) (p l : Nat),
  bits ctl.toNat 0 8 = p → bits ctl.toNat 8 8 = l →
  ((ty = .z32 ∨ ty = .z64) →
    (p + l ≤ ty.width → 0 < l → bitExtract ty a ctl = (BitVec.ofNat 64 (a.toNat % 2 ^ ty.width / 2 ^ p % 2 ^ l), 0))
    ∧ ((ty.width ≤ p ∨ l = 0) → bitExtract ty a ctl = (0, 0) ∧ bitInsert ty a b ctl = (BitVec.ofNat 64 (a.toNat % 2 ^ ty.width), 0)))
  ∧ ((ty = .s32 ∨ ty = .z32 ∨ ty = .s64 ∨ ty = .z64 ∨ ty = .b64) →
    let k := min l (ty.width - p)
    (bitExtract ty a ctl).2 = 0 ∧ (bitInsert ty a b ctl).2 = 0
    ∧ ∀ i, i < 64 →
      bitAt (bitExtract ty a ctl).1.toNat i
        = (if i < k then bitAt a.toNat (p + i) else ty.signed && decide (0 < k) && bitAt a.toNat (p + k - 1))
      ∧ (i < ty.width → bitAt (bitInsert ty a b ctl).1.toNat i
          = if p ≤ i ∧ i < p + k then bitAt b.toNat (i - p) else bitAt a.toNat i)
      ∧ (ty.width ≤ i → bitAt (bitInsert ty a b ctl).1.toNat i
          = (ty.signed && bitAt (bitInsert ty a b ctl).1.toNat (ty.width - 1))))

/-- R304 to R307: comparison, selection, moves and extension, and LEA wherever its sum is an address. R306: LEA gives A + B
× 2^k, B signed, where that lies in the 55-bit address space. -/
def Obligations.ComparesAndMoves : Prop :=
  ((∀ w : RWord,
      comparesGives (.cmp w) w (fun a b => (condHolds (bits w.mod.toNat 0 4) (some (compare (ival w.ty a) (ival w.ty b))), 0))
      ∧ ternaryGives (.sel w) w (fun _ a b e => (w.ty.layout (if bitAt e.toNat 0 then a else b), 0))
      ∧ unaryGives (.mov w) w (fun _ _ _ a => moveValue w.ty a)
      ∧ unaryGives (.ext w) w (fun _ _ _ a => extend w.ty (bits w.mod.toNat 0 2) a))
    ∧ (∀ w : IWord, ∀ s c j g x, s.Issues c j g x → everyLane s c x w.hdr (fun l => l.reaches w.a ∧ l.reaches w.d) →
        wordGives (.movi w) w.hdr s c j g x (fun l l' => l.writeD w.d (BitVec.ofInt 64 w.imm.toInt) = .ok l')
        ∧ wordGives (.movh w) w.hdr s c j g x (fun l l' => ∃ a l1, l.read s c w.a = .ok (a, l1)
            ∧ l1.writeD w.d (BitVec.ofNat 64 (w.imm.toNat * 2 ^ 32 + a.toNat % 2 ^ 32)) = .ok l')))
  ∧ (∀ (w : RWord) s c j g x, s.Issues c j g x →
    everyLane s c x w.hdr (fun l => l.reaches w.a ∧ l.reaches w.b ∧ l.reaches w.d ∧
      ∀ a b l2, readsTwo s c w.a w.b l a b l2 →
        0 ≤ (addrOf a : Int) + b.toInt * ((2 ^ (w.mod.toNat % 8) : Nat) : Int)
        ∧ (addrOf a : Int) + b.toInt * ((2 ^ (w.mod.toNat % 8) : Nat) : Int) < 2 ^ 55) →
    wordGives (.lea w) w.hdr s c j g x (fun l l' => ∃ a b l2, readsTwo s c w.a w.b l a b l2
      ∧ l2.writeD w.d (BitVec.ofInt 64 ((addrOf a : Int) + b.toInt * ((2 ^ (w.mod.toNat % 8) : Nat) : Int))) = .ok l'))

/-! ## Instruction words: floating point and kernels -/

/-- R308, R309: a rounded float form gives `fput` of the exact result on its operands, with the word's rounding mode and the
draw of its seed. -/
def Obligations.FloatArithmetic : Prop := ∀ w : RWord, let f := fmtOf w.ty
  ternaryGives (.fadd w) w (fun l a b seed => roundResult f (modeOf w) (seedDraw l seed) (addVal (fval f a) (fval f b) (isDown w)))
  ∧ ternaryGives (.fsub w) w (fun l a b seed =>
    roundResult f (modeOf w) (seedDraw l seed) (addVal (fval f a) (fval f b).negate (isDown w)))
  ∧ ternaryGives (.fmul w) w (fun l a b seed => roundResult f (modeOf w) (seedDraw l seed) (mulVal (fval f a) (fval f b)))
  ∧ ternaryGives (.ffma w) w (fun l a b e =>
    roundResult f (modeOf w) (seedDraw l 0) (fmaVal (fval f a) (fval f b) (fval f e) (isDown w)))
  ∧ ternaryGives (.fdiv w) w (fun l a b seed => roundResult f (modeOf w) (seedDraw l seed) (divVal (fval f a) (fval f b)))
  ∧ binaryGives (.fsqrt w) w (fun l a seed =>
    let r := roundResult f (modeOf w) (seedDraw l seed) (sqrtVal (fval f a))
    if signOf f a then r else keepingInf f (fval f a) r)
  ∧ binaryGives (.frcp w) w (fun l a seed => roundResult f (modeOf w) (seedDraw l seed) (divVal (.fin false 1 0 false) (fval f a)))
  ∧ binaryGives (.frsq w) w (fun l a seed => roundResult f (modeOf w) (seedDraw l seed) (rsqrtVal (fval f a)))
  ∧ binaryGives (.frnd w) w (fun l a seed => roundToInteger f (modeOf w) (seedDraw l seed) (fval f a))
  ∧ ternaryGives (.fscl w) w (fun l a b seed =>
    keepingInf f (fval f a) (roundResult f (modeOf w) (seedDraw l seed) (scaleVal (fval f a) (scaleBy b))))

/-- R311 to R314: the forms that choose, change a sign, compare, classify or take apart. -/
def Obligations.FloatForms : Prop := ∀ w : RWord, let f := fmtOf w.ty
  let choose (wantMax number : Bool) (a b : W64) : Result :=
    (BitVec.ofNat 64 (f.minMax wantMax number (f.codeOf a) (f.codeOf b)).1, (f.minMax wantMax number (f.codeOf a) (f.codeOf b)).2)
  binaryGives (.fmin w) w (fun _ a b => choose false false a b)
  ∧ binaryGives (.fmax w) w (fun _ a b => choose true false a b)
  ∧ binaryGives (.fminn w) w (fun _ a b => choose false true a b)
  ∧ binaryGives (.fmaxn w) w (fun _ a b => choose true true a b)
  ∧ unaryGives (.fabs w) w (fun _ _ _ a => withSign f a false)
  ∧ unaryGives (.fneg w) w (fun _ _ _ a => withSign f a (!signOf f a))
  ∧ binaryGives (.fcps w) w (fun _ a b => withSign f a (signOf f b))
  ∧ comparesGives (.fcmp w) w (floatCompare f w.mod)
  ∧ unaryGives (.fcls w) w (fun _ _ _ a => (BitVec.ofNat 64 (2 ^ classOf f (f.codeOf a)), 0))
  ∧ unaryGives (.fxtr w) w (fun _ _ _ a =>
    if bitAt w.mod.toNat 0 then significandOf f (fval f a) else exponentOf (fval f a))

/-- R315, R319 to R321: CVT wherever its pair of types is a conversion; CVT of B64 or Z64 into ADDR, which gives the value where bits [63:55]
of A are zero and else traps TYPE; and the evaluations of a kernel slot as it stands when the word issues. -/
def Obligations.ConvertAndEvaluate : Prop :=
  (∀ w : RWord, (∀ a m b h, (cvtScalar w.ty w.ty2 a m b h).isSome) → binaryGives (.cvt w) w (fun l a seed =>
    (cvtScalar w.ty w.ty2 a (modeOf w) (bitAt w.mod.toNat 3) (seedDraw l seed)).getD (0, 0)))
  ∧ (∀ w : RWord, w.ty = .addr → (w.ty2 = .b64 ∨ w.ty2 = .z64) → ∀ s c j g x,
    (s.Issues c j g x → everyLane s c x w.hdr (fun l => l.reaches w.a ∧ l.reaches w.b ∧ l.reaches w.d
        ∧ ∀ a l1, l.read s c w.a = .ok (a, l1) → a.toNat / 2 ^ 55 = 0) →
      wordGives (.cvt w) w.hdr s c j g x (fun l l' => ∃ a b l2, readsTwo s c w.a w.b l a b l2 ∧ l2.writeD w.d a = .ok l'))
    ∧ (∀ l a b l2, s.Alone c j g x w.hdr l → readsTwo s c w.a w.b (l.atWord (s.core c) x) a b l2 → a.toNat / 2 ^ 55 ≠ 0 →
      trapsAlone (.cvt w) (.r w) s c j g x l .type))
  ∧ (∀ w : RWord, unaryGives (.pwev w) w (fun s c l a => evalPwl (s.core c) l w a))
  ∧ (∀ w : RWord, unaryGives (.lutev w) w (fun s c l a => evalLut (s.core c) l w a))

/-! ## Instruction words: sends, frames, tags -/

/-- R282, R283: each send form stages one token, and SEND2 two, for the core, device, frame, entry and port of Table 11.1. -/
def Obligations.Sends : Prop := ∀ w : SWord,
  let target (l : Firing) (s : State) (c frame entry port : Nat) : Target :=
    { dev := s.devnum, core := s.coreFor c l, frame := frame, entry := entry, port := port }
  sendGives (.send w) w (fun s c l b _ => target l s c (fpBase b) w.tent.toNat w.tport.code)
  ∧ sendGives (.sendx w) w (fun _ _ _ b _ =>
      { dev := fpDev b, core := fpCore b, frame := fpBase b, entry := w.tent.toNat, port := w.tport.code })
  ∧ sendGives (.steer w) w (fun s c l b d => target l s c (fpBase b) (w.tent.toNat + d.toNat % 2) w.tport.code)
  ∧ sendGives (.merge w) w (fun s c l b d => target l s c (fpBase b) w.tent.toNat (d.toNat % 2))
  ∧ ∀ s c j g x, s.Issues c j g x →
      everyLane s c x w.hdr (fun l => sendable s c w w.a l ∧ sendable s c w w.b l ∧ l.reaches w.d) →
      wordGives (.send2 w) w.hdr s c j g x (fun l l' => ∃ v l1 u l2 d l3, l.sendValue s c w w.a = .ok (v, l1)
        ∧ l1.sendValue s c w w.b = .ok (u, l2) ∧ l2.read s c w.d = .ok (d, l3)
        ∧ l'.staged = l3.staged ++
            [.send (l3.sendToken (s.coreFor c l3) w (target l3 s c (fpBase d) w.tent.toNat 0) (l3.sendTag w d) v) l3.pc,
             .send (l3.sendToken (s.coreFor c l3) w (target l3 s c (fpBase d) w.tent.toNat 1) (l3.sendTag w d) u) l3.pc])

/-- R290, R292: LDF and STF reach the slot whose index A gives, below the frame's size; KEEP stages the slot's write and its
kept bit, and DROP the slot's clearing. -/
def Obligations.FrameSlots : Prop := ∀ (w : RWord) s c j g x, s.Issues c j g x →
  (everyLane s c x w.hdr (fun l => l.frameless = false ∧
      ∀ a l1, l.read s c w.a = .ok (a, l1) → a.toNat % 2 ^ 32 < l.frameSize (s.core c)) →
    wordGives (.ldf w) w.hdr s c j g x (fun l l' => ∃ a l1 v l2, l.read s c w.a = .ok (a, l1)
      ∧ l1.readSlot (s.core c) (a.toNat % 2 ^ 32) = .ok (v, l2) ∧ l2.writeD w.d v = .ok l')
    ∧ wordGives (.stf w) w.hdr s c j g x (fun l l' => ∃ a b l2, readsTwo s c w.a w.b l a b l2
      ∧ l' = l2.stage (.write (l2.frame + a.toNat % 2 ^ 32) b)))
  ∧ ∀ i, w.d = .slot i → everyLane s c x w.hdr (fun l => l.frameless = false) →
      wordGives (.drop w) w.hdr s c j g x (fun l l' => l' = l.stage (.drop (l.frame + i.val)))
      ∧ (everyLane s c x w.hdr (fun l => ∀ a l1, l.read s c w.a = .ok (a, l1) → l.handleOk s c a = true) →
        wordGives (.keep w) w.hdr s c j g x (fun l l' => ∃ a l1, l.read s c w.a = .ok (a, l1)
          ∧ l' = l1.stage (.keep (l.frame + i.val) a l1.pc)))

/-- R286, R293, R393: TAGS, TAGI and DIMS change the outgoing tag and DIM alone; SKIP ends the lane's later words; NOP does
nothing. -/
def Obligations.TagsSkipNop : Prop :=
  (∀ (w : RWord) s c j g x, s.Issues c j g x →
    (everyLane s c x w.hdr (fun l => l.reaches w.a) →
      wordGives (.tags w) w.hdr s c j g x (fun l l' => ∃ a l1, l.read s c w.a = .ok (a, l1)
        ∧ l' = { l1 with otag := BitVec.setWidth 32 a }))
    ∧ (everyLane s c x w.hdr (fun l => l.reaches w.a ∧ ∀ a l1, l.read s c w.a = .ok (a, l1) → a ≠ 6 ∧ a.toNat ≤ 7) →
      wordGives (.dims w) w.hdr s c j g x (fun l l' => ∃ a l1, l.read s c w.a = .ok (a, l1)
        ∧ l' = { l1 with odim := a.toNat }))
    ∧ wordGives (.skip w) w.hdr s c j g x (fun l l' => l' = { l with skipped := true })
    ∧ wordGives (.nop w) w.hdr s c j g x (fun l l' => l' = l))
  ∧ (∀ (w : IWord) s c j g x, s.Issues c j g x →
      wordGives (.tagi w) w.hdr s c j g x (fun l l' => l' = { l with otag := l.otag + w.imm }))

/-- R289, R296: FLIMIT stages the new limit of a block of the job that the core holds, and STEAL the request to core A with
the reply's destination. R297: RSPLIT of a well-formed range in a group of one lane keeps the whole range while no steal
request waits; else it reserves the oldest one, keeps the lower half and stages a reply with the upper half, both empty-
handed below two numbers. -/
def Obligations.Stealing : Prop :=
  ((∀ (w : RWord) s c j g x, s.Issues c j g x →
      everyLane s c x w.hdr (fun l => l.reaches w.a ∧ l.reaches w.b ∧ ∀ a b l2, readsTwo s c w.a w.b l a b l2 →
        b.toNat < 256 ∧ ((s.core c).blockOf l.job (z32 a)).isSome) →
      wordGives (.flimit w) w.hdr s c j g x (fun l l' => ∃ a b l2, readsTwo s c w.a w.b l a b l2
        ∧ l' = l2.stage (.flimit (z32 a) b.toNat)))
    ∧ (∀ (w : SWord) s c j g x, s.Issues c j g x → everyLane s c x w.hdr (fun l => l.reaches w.a ∧ l.reaches w.b) →
      wordGives (.steal w) w.hdr s c j g x (fun l l' => ∃ a b l2, readsTwo s c w.a w.b l a b l2
        ∧ l' = l2.stage (.steal (z32 a) (l2.sendToken (s.coreFor c l2) w
          { l2.here s c w (fpBase b) with dev := fpDev b } l2.otag 0)))))
  ∧ (∀ (w : RWord) s c j g x l a l1, s.Issues c j g x → x.lanes = [l] → l.running = true →
    (l.atWord (s.core c) x).executes w.hdr = true → l.reaches w.d → (l.atWord (s.core c) x).read s c w.a = .ok (a, l1) →
    let lo := a.toNat % 2 ^ 32
    let hi := a.toNat / 2 ^ 32
    lo ≤ hi →
    ((s.core c).stealFor l1 = none → ∃ l2 seen, l1.writeD w.d a = .ok l2 ∧ exec (.rsplit w) s
        = .next (((s.counted c j).withLanes c g x [{ l2 with seen := seen }]).endWord c g w.hdr.last))
    ∧ ∀ q, (s.core c).stealFor l1 = some q →
        let mid := lo + (hi - lo) / 2
        let kept := if 2 ≤ hi - lo then rangeVal lo mid else a
        let given := if 2 ≤ hi - lo then rangeVal mid hi else 0
        ∃ l2 seen, l1.writeD w.d kept = .ok l2 ∧ exec (.rsplit w) s
          = .next ((((s.counted c j).onCore c (fun k => { k with mailbox := k.mailbox.map (fun m =>
                if m.id = q.id then { m with reserved := true } else m) })).withLanes c g x
              [{ l2.stage (.stealReply q.id { q.reply with w2 := given, src := BitVec.ofNat 7 (s.coreFor c l1) }) with
                seen := seen }]).endWord c g w.hdr.last))

/-! ## Instruction words: requests -/

/-- R287, R288, R294, R298, R391: FALLOC, FFREE, GDONE, CANCEL and PERF `.set` stage their request, with A a block id and B
a core of the rectangle (FALLOC), A of this device (FFREE), A an instance or a phase (CANCEL) and an index below 64 (PERF).
R387 to R390: SVWR, TICK and EXPO stage their request where A names a supervisor variable, counts 1 to 65,535 edges, or has
its reserved bits zero; CNTRD stages its answer for after the commit's sends. That the index operand of SVWR and of PERF is read as its low 32
bits, which Table 13.8 does not type, is the model's reading (log entry 57). -/
def Obligations.ControlRequests : Prop :=
  ((∀ w : MWord, memoryGives (.falloc w) w (fun s _ _ r =>
      r.a.toNat % 2 ^ 32 < 4096 ∧ (s.devCore r.job (r.b.toNat % 2 ^ 32)).isSome))
    ∧ (∀ w : RWord, plainGives (.ffree w) w (fun s _ _ r => r.a.toNat / 2 ^ 26 % 2 ^ 10 = s.host.devnum.toNat))
    ∧ (∀ w : RWord, plainGives (.gdone w) w (fun _ _ _ _ => True))
    ∧ (∀ w : RWord, plainGives (.cancel w) w (fun _ _ _ r =>
        w.mod = 0 ∨ r.a.toNat % 2 ^ 32 = 0xFFFFFFFF ∨ r.a.toNat % 2 ^ 32 < 65536))
    ∧ (∀ w : RWord, plainGives (.perfSet w) w (fun _ _ _ r => r.a.toNat % 2 ^ 32 < 64)))
  ∧ (∀ w : MWord,
    memoryGives (.svwr w) w (fun _ _ _ r => r.a.toNat % 2 ^ 32 < 32)
    ∧ memoryGives (.tick w) w (fun _ _ _ r => 1 ≤ r.a.toNat % 2 ^ 32 ∧ r.a.toNat % 2 ^ 32 < 65536)
    ∧ memoryGives (.expo w) w (fun _ _ _ r => r.a.toNat / 2 ^ 48 = 0 ∧ r.a.toNat / 2 ^ 11 % 2 ^ 21 = 0)
    ∧ ∀ s c j g x, s.Issues c j g x → everyLane s c x w.hdr (fun l => l.reaches w.a ∧
          ∀ a l1, l.read s c w.a = .ok (a, l1) → a.toNat % 2 ^ 32 < 64) →
        wordGives (.cntrd w) w.hdr s c j g x (fun l l' => ∃ a l1, l.read s c w.a = .ok (a, l1)
          ∧ l' = l1.stage (.counter (l1.ask s c (.cntrd w) w.cent w.cport a 0 0))))

/-- R317, R318, R362 to R367: the scalar memory words stage their request where the address is a multiple of the access's
size, PREF where its length is at most 2^36, WATCH where its bound is at most 2^40; the others always. R358, R369 to R374:
the tile memory words stage their request where handles are valid, shapes and codes fit and addresses and pitches are
multiples of 16; CPY where its record is 32-byte aligned; CPYR always, with T0 to T3. -/
def Obligations.MemoryWords : Prop :=
  (∀ w : MWord,
    let aligned (_ : State) (_ : Nat) (_ : Firing) (r : Req) : Prop := r.a.toNat % 2 ^ 55 % r.bytes = 0
    let always (_ : State) (_ : Nat) (_ : Firing) (_ : Req) : Prop := True
    memoryGives (.ld w) w aligned ∧ memoryGives (.st w) w aligned ∧ memoryGives (.lda w) w aligned
    ∧ memoryGives (.str w) w aligned ∧ memoryGives (.atom w) w aligned ∧ memoryGives (.atmn w) w aligned
    ∧ memoryGives (.watch w) w (fun s c l r => r.d.toNat ≤ 2 ^ 40 ∧ aligned s c l r)
    ∧ memoryGives (.pref w) w (fun _ _ _ r => r.b.toNat ≤ 2 ^ 36)
    ∧ memoryGives (.drain w) w always ∧ memoryGives (.wcflush w) w always
    ∧ memoryGives (.pwld w) w always ∧ memoryGives (.lutld w) w always)
  ∧ (∀ w : MWord,
    let valid (s : State) (c : Nat) (l : Firing) (r : Req) : Prop := ∀ h ∈ r.handles, l.handleOk s c h = true
    memoryGives (.tld w) w (fun _ _ _ r => shapeWordOk r.memFmt r.b = true ∧ r.a.toNat % 16 = 0 ∧ r.d.toNat % 16 = 0)
    ∧ memoryGives (.tst w) w (fun s c l r => valid s c l r ∧ (s.tileOf c r.b).fmt = r.memFmt
        ∧ r.a.toNat % 16 = 0 ∧ r.d.toNat % 16 = 0)
    ∧ memoryGives (.tldi w) w (fun s c l r => valid s c l r ∧ indexTileOk (s.tileOf c r.b) = true
        ∧ shapeWordOk r.memFmt r.d = true ∧ (shapeOf r.d).2 = (s.tileOf c r.b).entries ∧ r.a.toNat % 16 = 0)
    ∧ memoryGives (.tsti w) w (fun s c l r => valid s c l r ∧ indexTileOk (s.tileOf c r.d) = true
        ∧ (s.tileOf c r.b).fmt = r.memFmt ∧ (s.tileOf c r.b).nrows = (s.tileOf c r.d).entries ∧ r.a.toNat % 16 = 0)
    ∧ memoryGives (.cpy w) w (fun _ _ _ r => r.a.toNat % 2 ^ 55 % 32 = 0)
    ∧ memoryGives (.cpyr w) w (fun _ _ _ _ => True) (fun _ _ l r => { r with q := [l.temp 0, l.temp 1, l.temp 2, l.temp 3] }))

/-- R155, R378 to R382: the walker words stage their request where the walker word of A is well formed; WGO notes whether
the walker stores, and then B is a valid tile. R176 to R194, R383, R385: the routing words stage their request; RSEL where
its score tile is valid. -/
def Obligations.EngineWords : Prop :=
  (∀ w : MWord,
    let stores (s : State) (c : Nat) (r : Req) : Bool :=
      match (s.core c).liveWalker r with | some (_, k) => k.shape.store | none => false
    memoryGives (.wcfg w) w (fun _ _ _ _ => True)
    ∧ memoryGives (.wgo w) w (fun s c l r => walkerWordBad r.a = false
        ∧ ∀ h ∈ ({ r with hasTile := stores s c r } : Req).handles, l.handleOk s c h = true)
        (fun s c _ r => { r with hasTile := stores s c r })
    ∧ memoryGives (.wpar w) w (fun _ _ _ r => walkerWordBad r.a = false ∧ (r.m.mflg.toNat < 2 ∨ r.b.toNat ≤ 16777215))
    ∧ memoryGives (.wstop w) w (fun _ _ _ r => walkerWordBad r.a = false)
    ∧ memoryGives (.wstat w) w (fun _ _ _ r => walkerWordBad r.a = false))
  ∧ (∀ w : MWord,
    let always (_ : State) (_ : Nat) (_ : Firing) (_ : Req) : Prop := True
    memoryGives (.ropen w) w always
    ∧ memoryGives (.rsel w) w (fun s c l r => ∀ h ∈ r.handles, l.handleOk s c h = true)
    ∧ memoryGives (.rrow w) w always ∧ memoryGives (.rcloseSel w) w always ∧ memoryGives (.rcloseFin w) w always
    ∧ memoryGives (.rcomb w) w always ∧ memoryGives (.rbias w) w always ∧ memoryGives (.rstat w) w always)

/-- R386, R391, R392: SVRD, CLK, PERF `.get` and the FLAGS forms read a supervisor variable of the core's copy, the time base or the clock, a
counter as this word leaves it, and the job's sticky flags, or stage the flags' change. That the index operand of SVRD, CLK and PERF is read as
its low 32 bits is the model's reading (log entry 57), and so is how a core's copy of the variables follows a SVWR (log entry 42). -/
def Obligations.SystemReads : Prop := ∀ (w : RWord) s c j g x, s.Issues c j g x →
  (everyLane s c x w.hdr (fun l => l.reaches w.a ∧ l.reaches w.d ∧
      ∀ a l1, l.read s c w.a = .ok (a, l1) → a.toNat % 2 ^ 32 < 32) →
    wordGives (.svrd w) w.hdr s c j g x (fun l l' => ∃ a l1, l.read s c w.a = .ok (a, l1)
      ∧ l1.writeD w.d (((s.job l.job).varsAt ((s.job l.job).jobCore c)).getD (a.toNat % 2 ^ 32) 0) = .ok l'))
  ∧ (everyLane s c x w.hdr (fun l => l.reaches w.a ∧ l.reaches w.d ∧
      ∀ a l1, l.read s c w.a = .ok (a, l1) → a.toNat % 2 ^ 32 < 2) →
    wordGives (.clk w) w.hdr s c j g x (fun l l' => ∃ a l1, l.read s c w.a = .ok (a, l1)
      ∧ l1.writeD w.d (if a.toNat % 2 ^ 32 = 0 then s.time else BitVec.ofNat 64 s.clock) = .ok l'))
  ∧ (everyLane s c x w.hdr (fun l => l.reaches w.a ∧ l.reaches w.d ∧
      ∀ a l1, l.read s c w.a = .ok (a, l1) → a.toNat % 2 ^ 32 < 64) →
    wordGives (.perfGet w) w.hdr s c j g x (fun l l' => ∃ a l1, l.read s c w.a = .ok (a, l1)
      ∧ l1.writeD w.d (((s.core c).count j 0 1).counter l.job (a.toNat % 2 ^ 32)) = .ok l'))
  ∧ (everyLane s c x w.hdr (fun l => l.reaches w.d) →
    wordGives (.flagsGet w) w.hdr s c j g x (fun l l' =>
      l.writeD w.d (BitVec.setWidth 64 (Table.getD (s.core c).xflags l.job 0)) = .ok l'))
  ∧ (everyLane s c x w.hdr (fun l => l.reaches w.a ∧ ∀ a l1, l.read s c w.a = .ok (a, l1) → a.toNat < 32) →
    wordGives (.flagsSet w) w.hdr s c j g x (fun l l' => ∃ a l1, l.read s c w.a = .ok (a, l1)
      ∧ l' = l1.stage (.flagsSet (BitVec.setWidth 5 a)))
    ∧ wordGives (.flagsJoin w) w.hdr s c j g x (fun l l' => ∃ a l1, l.read s c w.a = .ok (a, l1)
      ∧ l' = l1.stage (.flagsJoin (BitVec.setWidth 5 a))))

/-- R322 to R338, R345: the words that make, name, fill, copy and convert tiles, and that read or write one element, stage
their request where the checks of R324 hold. R339 to R344: the elementwise, reducing and rearranging words, likewise. R346
to R355: the accumulator and matrix words, likewise. -/
def Obligations.TileWords : Prop :=
  (∀ w : TWord,
    tileGives (.talloc w) w (fun _ r => { shapes := shapeWordOk r.t.fc.toNat r.a })
    ∧ tileGives (.tfree w) w (fun _ _ => {})
    ∧ tileGives (.tdesc w) w (fun _ r => { shapes := decide (r.b.toNat % 2 ^ 32 < 2) })
    ∧ tileGives (.tview w) w viewTile
    ∧ tileGives (.tfill w) w (fun _ r => { shapes := shapeWordOk r.t.fc.toNat r.a })
    ∧ tileGives (.tcopy w) w copyTile
    ∧ tileGives (.tcvt w) w oneTile
    ∧ tileGives (.tqnt w) w quantTile
    ∧ tileGives (.tget w) w elementRule
    ∧ tileGives (.tset w) w elementRule)
  ∧ (∀ w : TWord,
    tileGives (.tadd w) w twoTiles ∧ tileGives (.tsub w) w twoTiles ∧ tileGives (.tmul w) w twoTiles
    ∧ tileGives (.tmin w) w twoTiles ∧ tileGives (.tmax w) w twoTiles ∧ tileGives (.tcmp w) w twoTiles
    ∧ tileGives (.tfma w) w fmaTiles ∧ tileGives (.tabs w) w signTile ∧ tileGives (.tneg w) w signTile
    ∧ tileGives (.tsel w) w selTiles ∧ tileGives (.tpwp w) w oneTile ∧ tileGives (.tlut w) w oneTile
    ∧ tileGives (.tred w) w redTileRule ∧ tileGives (.tscan w) w oneTile ∧ tileGives (.tbcst w) w bcastTile
    ∧ tileGives (.ttrn w) w turnTile ∧ tileGives (.tgth w) w gatherTile ∧ tileGives (.tsct w) w scatterTile
    ∧ tileGives (.tspl w) w splitTile ∧ tileGives (.tcat w) w joinTiles)
  ∧ (∀ w : TWord,
    tileGives (.racc w) w raccRule
    ∧ tileGives (.racs w) w (fun _ r => { shapes := decide (r.b.toNat % 2 ^ 32 < 256) })
    ∧ tileGives (.mma w) w matrixRule ∧ tileGives (.mmas w) w matrixRule
    ∧ tileGives (.mmaw w) w matrixRule ∧ tileGives (.mmax w) w matrixRule)

/-- The checks of the words, in a group of one lane that the word runs in: a word that fails one traps as the check says, with the values it
read in the record. R324: every tile and matrix word traps TILE_STALE on a handle that is not valid, and TYPE on a tile of another code or
shape than its form wants. R358, R362 to R374: scalar accesses trap ALIGN on a misaligned address, WATCH and PREF TYPE on a bound too large;
the tile memory words TILE_STALE, TYPE and ALIGN, in that order; CPY ALIGN. R378 to R381: the walker words TYPE on a walker word or an extent
that is not legal, WGO and RSEL TILE_STALE. R287 to R294, R386 to R392: an operand out of the range of its form traps TYPE, FLIMIT BLOCK_ABSENT
where the core has no such block of the job, LDF and STF FRAME_BAD outside the frame, KEEP and DROP FRAME_BAD in a frameless lane, KEEP and a
send of a tile TILE_STALE. R297: RSPLIT of a range whose bounds are the wrong way round traps TYPE. Index operands are read as their low 32
bits (log entry 57). -/
def Obligations.RequestTraps : Prop :=
  (∀ (w : TWord) s c j g x l a b d l3, s.Issues c j g x → x.lanes = [l] → l.running = true →
    (l.atWord (s.core c) x).executes w.hdr = true → readsThree s c w.a w.b w.d (l.atWord (s.core c) x) a b d l3 →
    l3.handleOk s c a = true → l3.handleOk s c b = true →
    (((s.core c).opTile a).fmt ≠ w.fa.toNat ∨ broadcasts ((s.core c).opTile b) ((s.core c).opTile a) = false) →
    let m := l.atWord (s.core c) x
    let site : TrapSite := { word := (s.core c).wordAt j x, index := x.pc, a := a, b := b, cd := d, input := some l.first }
    exec (.tadd w) s
      = .next ((((s.counted c j).takeTrap c m .type site).setLane c g 0 { m with dead := true }).endWord c g w.hdr.last))
  ∧ (∀ (w : MWord) s c j g x l a b d l3, s.Issues c j g x → x.lanes = [l] → l.running = true →
    (l.atWord (s.core c) x).executes w.hdr = true → readsThree s c w.a w.b w.d (l.atWord (s.core c) x) a b d l3 →
    a.toNat % 2 ^ 55 % (l3.ask s c (.ld w) w.cent w.cport a b d).bytes ≠ 0 →
    let m := l.atWord (s.core c) x
    let site : TrapSite := { word := (s.core c).wordAt j x, index := x.pc, a := a, b := b, cd := d, input := some l.first }
    exec (.ld w) s
      = .next ((((s.counted c j).takeTrap c m .align site).setLane c g 0 { m with dead := true }).endWord c g w.hdr.last))
  ∧ (∀ w : TWord,
    tileTraps (.talloc w) w (fun _ r => { shapes := shapeWordOk r.t.fc.toNat r.a })
    ∧ tileTraps (.tfree w) w (fun _ _ => {})
    ∧ tileTraps (.tdesc w) w (fun _ r => { shapes := decide (r.b.toNat % 2 ^ 32 < 2) })
    ∧ tileTraps (.tview w) w viewTile
    ∧ tileTraps (.tfill w) w (fun _ r => { shapes := shapeWordOk r.t.fc.toNat r.a })
    ∧ tileTraps (.tcopy w) w copyTile ∧ tileTraps (.tcvt w) w oneTile ∧ tileTraps (.tqnt w) w quantTile
    ∧ tileTraps (.tget w) w elementRule ∧ tileTraps (.tset w) w elementRule
    ∧ tileTraps (.tadd w) w twoTiles ∧ tileTraps (.tsub w) w twoTiles ∧ tileTraps (.tmul w) w twoTiles
    ∧ tileTraps (.tmin w) w twoTiles ∧ tileTraps (.tmax w) w twoTiles ∧ tileTraps (.tcmp w) w twoTiles
    ∧ tileTraps (.tfma w) w fmaTiles ∧ tileTraps (.tabs w) w signTile ∧ tileTraps (.tneg w) w signTile
    ∧ tileTraps (.tsel w) w selTiles ∧ tileTraps (.tpwp w) w oneTile ∧ tileTraps (.tlut w) w oneTile
    ∧ tileTraps (.tred w) w redTileRule ∧ tileTraps (.tscan w) w oneTile ∧ tileTraps (.tbcst w) w bcastTile
    ∧ tileTraps (.ttrn w) w turnTile ∧ tileTraps (.tgth w) w gatherTile ∧ tileTraps (.tsct w) w scatterTile
    ∧ tileTraps (.tspl w) w splitTile ∧ tileTraps (.tcat w) w joinTiles
    ∧ tileTraps (.racc w) w raccRule true
    ∧ tileTraps (.racs w) w (fun _ r => { shapes := decide (r.b.toNat % 2 ^ 32 < 256) }) true
    ∧ tileTraps (.mma w) w matrixRule ∧ tileTraps (.mmas w) w matrixRule
    ∧ tileTraps (.mmaw w) w matrixRule ∧ tileTraps (.mmax w) w matrixRule)
  ∧ (∀ w : MWord,
    let misaligned (_ : State) (_ : Nat) (_ : Firing) (r : Req) (t : Trap) : Prop := r.a.toNat % 2 ^ 55 % r.bytes ≠ 0 ∧ t = .align
    memoryTraps (.ld w) w misaligned ∧ memoryTraps (.st w) w misaligned ∧ memoryTraps (.lda w) w misaligned
    ∧ memoryTraps (.str w) w misaligned ∧ memoryTraps (.atom w) w misaligned ∧ memoryTraps (.atmn w) w misaligned
    ∧ memoryTraps (.watch w) w (fun s c l r t => 2 ^ 40 < r.d.toNat ∧ t = .type ∨ r.d.toNat ≤ 2 ^ 40 ∧ misaligned s c l r t)
    ∧ memoryTraps (.pref w) w (fun _ _ _ r t => 2 ^ 36 < r.b.toNat ∧ t = .type)
    ∧ memoryTraps (.cpy w) w (fun _ _ _ r t => r.a.toNat % 2 ^ 55 % 32 ≠ 0 ∧ t = .align))
  ∧ (∀ w : MWord,
    let stale (s : State) (c : Nat) (l : Firing) (r : Req) : Prop := ∃ h ∈ r.handles, l.handleOk s c h = false
    let checked (fits : State → Nat → Req → Prop) (aligned : Req → Prop) (s : State) (c : Nat) (l : Firing) (r : Req) (t : Trap) : Prop :=
      stale s c l r ∧ t = .tileStale ∨ ¬stale s c l r ∧ ¬fits s c r ∧ t = .type
        ∨ ¬stale s c l r ∧ fits s c r ∧ ¬aligned r ∧ t = .align
    let both (r : Req) : Prop := r.a.toNat % 16 = 0 ∧ r.d.toNat % 16 = 0
    let one (r : Req) : Prop := r.a.toNat % 16 = 0
    memoryTraps (.tld w) w (fun _ _ _ r t => shapeWordOk r.memFmt r.b = false ∧ t = .type
      ∨ shapeWordOk r.memFmt r.b = true ∧ ¬both r ∧ t = .align)
    ∧ memoryTraps (.tst w) w (checked (fun s c r => (s.tileOf c r.b).fmt = r.memFmt) both)
    ∧ memoryTraps (.tldi w) w (checked (fun s c r => indexTileOk (s.tileOf c r.b) = true ∧ shapeWordOk r.memFmt r.d = true
        ∧ (shapeOf r.d).2 = (s.tileOf c r.b).entries) one)
    ∧ memoryTraps (.tsti w) w (checked (fun s c r => indexTileOk (s.tileOf c r.d) = true ∧ (s.tileOf c r.b).fmt = r.memFmt
        ∧ (s.tileOf c r.b).nrows = (s.tileOf c r.d).entries) one)
    ∧ memoryTraps (.rsel w) w (fun s c l r t => stale s c l r ∧ t = .tileStale))
  ∧ (∀ w : MWord,
    let stores (s : State) (c : Nat) (r : Req) : Bool :=
      match (s.core c).liveWalker r with | some (_, k) => k.shape.store | none => false
    let stale (s : State) (c : Nat) (l : Firing) (r : Req) : Prop :=
      ∃ h ∈ ({ r with hasTile := stores s c r } : Req).handles, l.handleOk s c h = false
    let reserved (_ : State) (_ : Nat) (_ : Firing) (r : Req) (t : Trap) : Prop := walkerWordBad r.a = true ∧ t = .type
    memoryTraps (.wgo w) w (fun s c l r t => stale s c l r ∧ t = .tileStale ∨ ¬stale s c l r ∧ reserved s c l r t)
    ∧ memoryTraps (.wpar w) w (fun _ _ _ r t =>
        (walkerWordBad r.a = true ∨ 2 ≤ r.m.mflg.toNat ∧ 16777215 < r.b.toNat) ∧ t = .type)
    ∧ memoryTraps (.wstop w) w reserved ∧ memoryTraps (.wstat w) w reserved
    ∧ memoryTraps (.falloc w) w (fun s _ _ r t =>
        (4096 ≤ r.a.toNat % 2 ^ 32 ∨ s.devCore r.job (r.b.toNat % 2 ^ 32) = none) ∧ t = .type)
    ∧ memoryTraps (.svwr w) w (fun _ _ _ r t => 32 ≤ r.a.toNat % 2 ^ 32 ∧ t = .type)
    ∧ memoryTraps (.tick w) w (fun _ _ _ r t => (r.a.toNat % 2 ^ 32 = 0 ∨ 65536 ≤ r.a.toNat % 2 ^ 32) ∧ t = .type)
    ∧ memoryTraps (.expo w) w (fun _ _ _ r t => (r.a.toNat / 2 ^ 48 ≠ 0 ∨ r.a.toNat / 2 ^ 11 % 2 ^ 21 ≠ 0) ∧ t = .type)
    ∧ memoryTraps (.cntrd w) w (fun _ _ _ r t => 64 ≤ r.a.toNat % 2 ^ 32 ∧ t = .type))
  ∧ (∀ w : RWord,
    plainTraps (.ffree w) w (fun s _ _ r t => r.a.toNat / 2 ^ 26 % 2 ^ 10 ≠ s.host.devnum.toNat ∧ t = .type)
    ∧ plainTraps (.cancel w) w (fun _ _ _ r t =>
        w.mod ≠ 0 ∧ r.a.toNat % 2 ^ 32 ≠ 0xFFFFFFFF ∧ 65536 ≤ r.a.toNat % 2 ^ 32 ∧ t = .type)
    ∧ plainTraps (.perfSet w) w (fun _ _ _ r t => 64 ≤ r.a.toNat % 2 ^ 32 ∧ t = .type)
    ∧ plainTraps (.flimit w) w (fun s c l r t => 256 ≤ r.b.toNat ∧ t = .type
        ∨ r.b.toNat < 256 ∧ (s.core c).blockOf l.job (r.a.toNat % 2 ^ 32) = none ∧ t = .blockAbsent)
    ∧ plainTraps (.stf w) w (fun s c l r t =>
        (l.frameless = true ∨ l.frameSize (s.core c) ≤ r.a.toNat % 2 ^ 32) ∧ t = .frameBad)
    ∧ unaryTraps (.ldf w) w (fun s c l a t => (l.frameless = true ∨ l.frameSize (s.core c) ≤ a.toNat % 2 ^ 32) ∧ t = .frameBad)
    ∧ unaryTraps (.dims w) w (fun _ _ _ a t => (a = 6 ∨ 7 < a.toNat) ∧ t = .type)
    ∧ unaryTraps (.svrd w) w (fun _ _ _ a t => 32 ≤ a.toNat % 2 ^ 32 ∧ t = .type)
    ∧ unaryTraps (.clk w) w (fun _ _ _ a t => 2 ≤ a.toNat % 2 ^ 32 ∧ t = .type)
    ∧ unaryTraps (.perfGet w) w (fun _ _ _ a t => 64 ≤ a.toNat % 2 ^ 32 ∧ t = .type)
    ∧ unaryTraps (.flagsSet w) w (fun _ _ _ a t => 32 ≤ a.toNat ∧ t = .type)
    ∧ unaryTraps (.flagsJoin w) w (fun _ _ _ a t => 32 ≤ a.toNat ∧ t = .type)
    ∧ unaryTraps (.rsplit w) w (fun _ _ _ a t => a.toNat / 2 ^ 32 < a.toNat % 2 ^ 32 ∧ t = .type)
    ∧ ∀ i, w.d = .slot i →
      unaryTraps (.keep w) w (fun s c l a t => l.frameless = true ∧ t = .frameBad
        ∨ l.frameless = false ∧ l.handleOk s c a = false ∧ t = .tileStale)
      ∧ ∀ s c j g x l, s.Alone c j g x w.hdr l → l.frameless = true → trapsAlone (.drop w) (.r w) s c j g x l .frameBad)
  ∧ (∀ (w : SWord) s c j g x l v l1, s.Alone c j g x w.hdr l → w.sty = .tile →
    (l.atWord (s.core c) x).read s c w.a = .ok (v, l1) → l1.handleOk s c v = false →
    trapsAlone (.send w) (.s w) s c j g x l .tileStale)

/-! ## Traps -/

/-- R393: TRAP traps SOFT and BRK traps BRK, with the word's immediate, in every lane that runs and whose predicate is true, in
lane order, each lane over what the earlier ones left (the model's reading, log entry 59); the trap record holds the immediate; BRK's policy is FREEZE (1) under POISON (0) and FREEZE, and KILL (2) under KILL;
both have `D`, `A` and `B` = 8 (the zero specifier); NOP has every specifier 8 and no effect. -/
def Obligations.SoftwareTraps : Prop :=
  (∀ (w : IWord) s c j g x, s.Issues c j g x →
    let trapped (t : Trap) (u : State) (n : Nat) : State :=
      match (u.core c).laneAt g n with
      | some l =>
        let m := l.atWord (s.core c) x
        if !l.running then (if l.skipped && !l.dead && !l.ended then u.setLane c g n { l with pc := x.pc } else u)
        else if m.executes w.hdr then
          let site : TrapSite :=
            { word := (s.core c).wordAt j x, index := x.pc, a := m.peek u c w.a, b := m.peek u c w.b, input := some m.first }
          (u.takeTrap c m t site).setLane c g n { m with dead := true }
        else u.setLane c g n m
      | none => u
    exec (.trap w) s = .next (((List.range x.lanes.length).foldl (trapped (.soft w.imm)) (s.counted c j)).endWord c g w.hdr.last)
    ∧ exec (.brk w) s = .next (((List.range x.lanes.length).foldl (trapped (.brk w.imm)) (s.counted c j)).endWord c g w.hdr.last))
  ∧ (∀ (s : State) (c : Nat) (l : Firing) (t : Trap) (x : TrapSite),
      let p := if t.code = 9 then (if (s.job l.job).policy = 2 then 2 else 1) else (s.job l.job).policy
      s.takeTrap c l t x = ((s.putTrap l.job (trapBytes s c l t x p)).count c l.job 3 1).applyPolicy c l p
      ∧ ((trapBytes s c l t x p).drop 20).take 4 = natLe 4 t.imm.toNat)
  ∧ (∀ imm, (Trap.soft imm).imm = imm ∧ (Trap.soft imm).code = 8 ∧ (Trap.brk imm).imm = imm ∧ (Trap.brk imm).code = 9)
  ∧ (∀ (fsize : Nat) (w : IWord), isWellFormed fsize (.trap w) = true ∨ isWellFormed fsize (.brk w) = true →
      w.d = .zero ∧ w.a = .zero ∧ w.b = .zero)
  ∧ (∀ (fsize : Nat) (w : RWord), isWellFormed fsize (.nop w) = true → w.d = .zero ∧ w.a = .zero ∧ w.b = .zero ∧ w.c = .zero)
  ∧ (∀ (w : RWord) s c j g x, s.Issues c j g x → wordGives (.nop w) w.hdr s c j g x (fun l l' => l' = l))

/-- R127, R134, R142, R394: taking a trap counts it and writes the record; under POISON the firing's inputs are consumed and
its instance is marked; under FREEZE they return to their places, a LIVE instance is FROZEN, and none of its firings has a word
left to issue on any core of its job; under KILL the job is cancelled with status KILLED. BRK freezes under POISON too. -/
def Obligations.TrapPolicy : Prop := ∀ (s : State) (c : Nat) (l : Firing) (t : Trap) (x : TrapSite),
  let p := policyOf (s.job l.job).policy t.code
  let s1 := (s.putTrap l.job (trapBytes s c l t x p)).count c l.job 3 1
  (t.code ≠ 9 → p = (s.job l.job).policy)
  ∧ (t.code = 9 → p = if (s.job l.job).policy = 2 then 2 else 1)
  ∧ (p = 0 → s.takeTrap c l t x = ((s1.unreserve c l).releaseInputs c l).onInst l.job l.inst
      (fun v => { v with faulted := true }))
  ∧ (p = 1 → s.takeTrap c l t x = ((s1.restoreInputs c l).onInst l.job l.inst
      (fun v => if v.st = .live then { v with st := .frozen } else v)).stopFrozen l.job)
  ∧ (∀ (u : State) (j d g n : Nat) (m : Firing), d ∈ (u.job j).cores → ((u.stopFrozen j).core d).laneAt g n = some m →
      u.isFrozen m.job m.inst = true → m.going = false)
  ∧ (2 ≤ p → s.takeTrap c l t x = ((s1.unreserve c l).releaseInputs c l).cancelJob l.job 4 3)

/-- R252: a word whose predicate is false changes nothing in the lane but where it stands: its result is not written, no
flag is raised and nothing is staged. Said of every instruction word, where each lane of the group runs and is switched off. R135, R252: P0 reads
true, so that an unpredicated word executes; a predicate field names one of four, and PNEG inverts it. -/
def Obligations.Predication : Prop :=
  (∀ (s : State) c j g x, s.Issues c j g x →
    let off (h : Hdr) : Prop := ∀ l ∈ x.lanes, l.running = true ∧ (l.atWord (s.core c) x).executes h = false
    let after (h : Hdr) : State :=
      ((s.counted c j).withLanes c g x (x.lanes.map (fun l => l.atWord (s.core c) x))).endWord c g h.last
    ∀ (i : Instr) op b, i.form = some (op, b) → off b.hdr → exec i s = .next (after b.hdr))
  ∧ (∀ (l : Firing) (h : Hdr),
    (h.pidx = 0 → l.executes h = !h.pneg)
    ∧ (∀ (i : Nat) (b : Bool), l.preds.length = 3 → 1 ≤ i → i ≤ 3 → h.pidx.val = i →
        (l.setPred i b).executes h = (b != h.pneg))
    ∧ (∀ (i n : Nat) (b : Bool), n ≠ i → 1 ≤ i → 1 ≤ n → (l.setPred i b).pred n = l.pred n))

/-- What an instruction word leaves alone: where it is not the last of its body and traps in no lane, the next state is the one before it with the
issue counted and the group's lanes changed, at the next word: every byte of memory, every other core, job, queue and register stays. And what
the last word does (R139): its lanes end and commit. A firing that passes its checks writes its slots in program order, the last write of a slot
standing, with its kept bit and the firing's poison; adds the references of what it staged; sets the limits of FLIMIT; then hands on its requests,
and once none waits its flags join XFLAGS in program order (none in a shadow firing), the tiles of its TFREEs become FREEING, and its inputs'
references are released. One that fails a check traps and commits nothing. -/
def Obligations.WordFrame : Prop :=
  (∀ (i : Instr) (h : Hdr) s c j g x R t, s.Issues c j g x → h.last = false →
    wordGives i h s c j g x R → exec i s = .next t →
    (∃ ls : List Firing,
      let rest (gs : List Group) : List Group :=
        if ls.all (fun l => l.dead) then removeAt gs g else setAt gs g { x with lanes := ls, pc := x.pc + 1 }
      t = (s.counted c j).onCore c (fun k => { k with groups := rest k.groups }))
    ∧ (∀ a, Memory.get t.mem a = Memory.get s.mem a) ∧ (∀ a, Memory.get t.hostMem a = Memory.get s.hostMem a)
    ∧ t.jobs = s.jobs ∧ t.host = s.host ∧ t.hkc = s.hkc ∧ t.time = s.time ∧ t.memReqs = s.memReqs ∧ t.mesh = s.mesh
    ∧ (∀ d, d ≠ c → t.core d = s.core d)
    ∧ (t.core c).slots = (s.core c).slots ∧ (t.core c).frames = (s.core c).frames ∧ (t.core c).tiles = (s.core c).tiles
    ∧ (t.core c).store = (s.core c).store ∧ (t.core c).xflags = (s.core c).xflags ∧ (t.core c).kernels = (s.core c).kernels
    ∧ (t.core c).buffer = (s.core c).buffer ∧ (t.core c).ready = (s.core c).ready)
  ∧ (∀ (s : State) (c g : Nat) (x : Group), (s.core c).groups[g]? = some x → (∃ l ∈ x.lanes, l.dead = false) →
    s.endWord c g true = (s.onCore c (fun k => { k with
      groups := setAt k.groups g { x with lanes := x.lanes.map (fun l => { l with ended := true }) } })).resumeCommits c)
  ∧ (∀ (s : State) (c : Nat) (l : Firing), l.entered = false →
    (∀ t i, l.commitTrap s c = some (t, i) → s.commitLane c l = (s.takeTrap c l t (s.siteAt c l i), none))
    ∧ (l.commitTrap s c = none → l.shadow = false → ∀ t m u,
        let freed (r : Req) : Option W64 := match r.instr with | .tfree _ => some r.a | _ => none
        s.enterCommit c { l with frees := l.requests.filterMap freed } = (t, m) →
        ((t.count c l.job 1 1).progress l.job l.inst).stepRequests c m.shadow m.requests = (u, []) →
        s.commitLane c l = (u.finishCommit c m, none)))
  ∧ (∀ (s : State) (c : Nat) (l : Firing), let k := (s.enterCommit c l).1.core c
    (∀ xs x ys n v kept, l.staged = xs ++ x :: ys → x.slotWrite = some (n, v, kept) →
      (∀ y ∈ ys, ∀ q, y.slotWrite = some q → q.1 ≠ n) →
      (k.slot n).val = v ∧ (k.slot n).kept = kept ∧ (k.slot n).poison = l.shadow)
    ∧ (∀ n, (∀ y ∈ l.staged, ∀ q, y.slotWrite = some q → q.1 ≠ n) → k.slot n = (s.core c).slot n)
    ∧ (∀ i, (k.tile i).refcnt = ((s.core c).tile i).refcnt + countIf (fun h => handleIndex h == i) l.increments)
    ∧ (∀ xs ys b n, l.staged = xs ++ .flimit b n :: ys → (∀ y ∈ ys, ∀ m, y ≠ .flimit b m) → ∀ blk,
        Table.find (s.core c).blocks b = some blk → Table.find k.blocks b = some { blk with limit := n }))
  ∧ (∀ (s : State) (c : Nat) (l : Firing), (∀ x ∈ l.staged, x.silent = true) →
    let k := (s.finishCommit c l).core c
    (l.shadow = true → k.xflags = (s.core c).xflags)
    ∧ (l.shadow = false →
        Table.getD k.xflags l.job 0 = l.staged.foldl Staged.flags (Table.getD (s.core c).xflags l.job 0))
    ∧ (∀ j, j ≠ l.job → Table.getD k.xflags j 0 = Table.getD (s.core c).xflags j 0)
    ∧ (∀ h, l.shadow = false → l.frees = [h] → l.release = [] → ((s.core c).opTile h).st.live = true →
        (k.opTile h).refcnt = 0 ∧ (k.opTile h).st = .freeing)
    ∧ (∀ h, l.frees = [] → l.release = [h] → (s.core c).handleOk (s.coreFor c l) l.job h = true → 2 ≤ ((s.core c).opTile h).refcnt →
        (k.opTile h).refcnt = ((s.core c).opTile h).refcnt - 1))

/-! ## Power and the firmware (chapter 02) -/

/-- FUNDAMENTAL_RESET, AUX_POWER_LOSS, MAIN_UNDERVOLTAGE, AUXILIARY_INPUT_PRESENT and HKC_FAULT, each in every state: without
power nothing of the device survives but the fuses and the latched cause (`bare`); the level after reset is ROM, or ROM_FAIL with
code 0x0A where the fuses could not be read; a halted device that is on stays as it is until a power cycle; an HKC fault halts, and where the
watchdog caused it the loss of the main supply leaves cause 4 (log entry 68), else 3.
TEMPERATURE_THRESHOLD and POWER_CAP_WINDOW: a reading of one of the ninety sensors is kept; 100 °C raises THERMAL and lowers the
limits, 115 °C raises it and takes the main supply away, with HALTED; a window above the cap lowers the limits, one at or below it
sets them anew. The limits' values are free (log entry 64), and a reset of a device that is on latches cause 0 (log entry 68). -/
def Obligations.PowerEvents : Prop := ∀ s : State,
  let bare (u : State) (aux main : Bool) (cause : BitVec 3) (level : Level) (code : BitVec 8) : State :=
    { hkc := { aux := aux, main := main, lastOff := cause, level := level, failCode := code, fuseOk := u.hkc.fuseOk,
               svnFuses := u.hkc.svnFuses, revoked := u.hkc.revoked, secret := u.hkc.secret, fused := u.hkc.fused }
      hostMem := u.hostMem, attics := u.attics, draws := u.draws, nextId := u.nextId, agenda := u.agenda }
  let level (fuses : Bool) : Level := if fuses then .rom else .romFail
  let code (fuses : Bool) : BitVec 8 := if fuses then 0 else 0x0A
  (s.hkc.aux = true → (s.hkc.main = false ∨ s.hkc.level ≠ .halted) → exec .fundamentalReset s
      = .next (bare s true true (if s.hkc.main then 0 else s.hkc.lastOff) (level s.hkc.fuseOk) (code s.hkc.fuseOk)))
  ∧ ((s.hkc.aux = false ∨ (s.hkc.main = true ∧ s.hkc.level = .halted)) → exec .fundamentalReset s = .next s)
  ∧ exec .auxPowerLoss s = .next (bare s false false 2 .rom 0)
  ∧ (s.hkc.main = true → exec .mainUndervoltage s = .next (bare s true false (if s.hkc.watchdog then 4 else 3) .rom 0))
  ∧ (∀ fuses : Bool, (s.hkc.aux = false → exec (.auxiliaryInputPresent fuses) s = .next { s with hkc := { s.hkc with
        aux := true, fuseOk := fuses, level := level fuses, failCode := code fuses } })
      ∧ (s.hkc.aux = true → exec (.auxiliaryInputPresent fuses) s = .next s))
  ∧ (s.hkc.main = true → ∀ watchdog : Bool, exec (.hkcFault watchdog) s = .next { s with hkc := { s.hkc with
        level := .halted, lastOff := if watchdog then 4 else s.hkc.lastOff, watchdog := s.hkc.watchdog || watchdog } })
  ∧ (s.hkc.main = true → ∀ sensor temp,
      let kept : State := { s with hkc := { s.hkc with tsense := Table.put s.hkc.tsense sensor temp } }
      let told (action : Nat) : State := kept.event 0x000E 0xFF (natLe 1 sensor ++ natLe 2 temp.toNat ++ natLe 1 action)
      (90 ≤ sensor → exec (.temperatureThreshold sensor temp) s = .next s)
      ∧ (sensor < 90 → temp.toInt < 1600 → exec (.temperatureThreshold sensor temp) s = .next kept)
      ∧ (sensor < 90 → 1600 ≤ temp.toInt → temp.toInt < 1840 →
          exec (.temperatureThreshold sensor temp) s = .next (told 0).lowerLimits)
      ∧ (sensor < 90 → 1840 ≤ temp.toInt →
          exec (.temperatureThreshold sensor temp) s = .next (bare (told 1) true false 1 .halted 0)))
  ∧ (s.hkc.main = true → ∀ avg peak,
      let kept : State := { s with hkc := { s.hkc with pwrAvg := BitVec.ofNat 12 avg, pwrPeak := BitVec.ofNat 12 peak } }
      (s.hkc.pwrCap.toNat < avg → exec (.powerCapWindow avg peak) s = .next kept.lowerLimits)
      ∧ (avg ≤ s.hkc.pwrCap.toNat → exec (.powerCapWindow avg peak) s
          = .next ({ kept with draws := kept.draws + 1 }.setLimits (fun _ => (Config.freeWord kept.draws).toNat % 257))))
  ∧ (s.hkc.main = false → exec .mainUndervoltage s = .next s
      ∧ (∀ watchdog, exec (.hkcFault watchdog) s = .next s)
      ∧ (∀ sensor temp, exec (.temperatureThreshold sensor temp) s = .next s)
      ∧ ∀ avg peak, exec (.powerCapWindow avg peak) s = .next s)

/-- FWMBOX_CHUNK, FW_VERIFY, PROOF_SERVICE_ENTRY and FULL_SERVICE_ENTRY: a chunk in its place is staged, one out of place or of no
allowed length fails the download with code 3, and one past 12 MiB with code 2; the image whose last chunk is in is verified, which
starts the firmware or names the first check that failed; a die 0 of sixteen healthy cores serves at PROOF; the whole module serves
at FULL or REDUCED once no job is resident. That a good image brings LEVEL back to ROM, and that MESHMAP is written at PROOF, are the model's
choices (log entry 87). -/
def Obligations.FirmwareEvents : Prop := ∀ s : State,
  (∀ v : W64, s.hostReaches = true → s.hkc.mailboxOpen = true →
    let off := bits (v ||| 0x80000000).toNat 32 32
    let len := bits (v ||| 0x80000000).toNat 0 17
    ((len = 0 ∨ 65536 < len ∨ off ≠ s.hkc.received) → ∃ t, exec (.fwmboxChunk v) s = .next t ∧ t.hkc.level = .romFail
      ∧ t.hkc.failCode = 3 ∧ t.hkc.received = 0 ∧ t.hkc.staging = [] ∧ t.hkc.imageIn = false)
    ∧ (0 < len → len ≤ 65536 → off = s.hkc.received → imageLimit < s.hkc.received + len →
      ∃ t, exec (.fwmboxChunk v) s = .next t ∧ t.hkc.level = .romFail ∧ t.hkc.failCode = 2 ∧ t.hkc.received = 0)
    ∧ (0 < len → len ≤ 65536 → off = s.hkc.received → s.hkc.received + len ≤ imageLimit →
      ∃ t, exec (.fwmboxChunk v) s = .next t ∧ t.hkc.received = s.hkc.received + len
        ∧ t.hkc.staging = Memory.write (if s.hkc.received = 0 then [] else s.hkc.staging) s.hkc.received
            (Memory.read s.hkc.fwdata 0 len)
        ∧ t.hkc.imageIn = bitAt (v ||| 0x80000000).toNat 30 ∧ t.hkc.mboxGo = false
        ∧ (s.hkc.received = 0 → t.hkc.failCode = 0)))
  ∧ (s.hkc.main = true → (s.hkc.level = .rom ∨ s.hkc.level = .romFail) → s.hkc.imageIn = true →
    ∃ t, exec .fwVerify s = .next t ∧ t = { s with hkc := s.hkc.verify } ∧ t.hkc.imageIn = false
      ∧ (s.hkc.verdict.code = 0 → t.hkc.fwRuns = true ∧ t.hkc.failCode = 0 ∧ t.hkc.level = .rom)
      ∧ (s.hkc.verdict.code ≠ 0 → t.hkc.level = .romFail ∧ t.hkc.failCode = s.hkc.verdict.code ∧ t.hkc.fwRuns = s.hkc.fwRuns))
  ∧ (∀ r : RepairReport, s.hkc.main = true → s.hkc.fwRuns = true → (s.hkc.level = .rom ∨ s.hkc.level = .romFail) →
    (r.trained = true → (s.hkc.fused.join r.found).dieOk 0 = true → ∃ t, exec (.proofServiceEntry r) s = .next t
        ∧ t = ({ s with hkc := s.hkc.enterProof r } : State).repairDie 0 ∧ t.hkc.level = .proof ∧ t.hkc.meshValid = true)
    ∧ ((r.trained = false ∨ (s.hkc.fused.join r.found).dieOk 0 = false) → ∃ t, exec (.proofServiceEntry r) s = .next t
        ∧ t.hkc.level = .romFail ∧ t.hkc.failCode = 0x0B ∧ t.hkc.fwRuns = false))
  ∧ (∀ r : RepairReport, s.hkc.main = true → s.hkc.level = .proof → s.passageWaits = false → s.jobs = [] → s.hkc.passing = none →
    ∃ t, exec (.fullServiceEntry r) s = .next t
      ∧ t = (List.range 4).foldl (fun u die => u.repairDie die) { s with hkc := s.hkc.enterFull r }
      ∧ t.hkc.level = (if (List.range 4).all (fun die => (s.hkc.defects.join r.found).dieOk die) then .full else .reduced)
      ∧ t.hkc.meshValid = true ∧ ∀ x ∈ t.hkc.skip, x ≤ 4)

/-- SPDM_REQUEST, IDE_CHECK_FAIL, CXL_LINK_STATE and CORE_RETIRE: a mailbox answers discovery always and SPDM from PROOF onward, a port that is
down or refuses its traffic nothing but the key update of an established session, which opens every refused port; a failed check on a port with
IDE refuses it and says so; a port trains or goes down as it is offered; the column of a marked core is skipped from a job boundary on, where its
die has its spare column. What a mailbox answers is opaque, the device keeps one session, and its key update may come through any mailbox that
carries it (log entry 9). -/
def Obligations.PortsAndRetirement : Prop := ∀ s : State, s.hkc.main = true →
  (∀ port mailbox request,
    let answered (u : State) (answer : List Byte) : State :=
      u.setPort port { u.port port with doe := Table.put (u.port port).doe mailbox answer }
    ((doeCarries port mailbox request = false ∨ s.takesDoe port request = false) → exec (.spdmRequest port mailbox request) s = .next s)
    ∧ (doeCarries port mailbox request = true → s.takesDoe port request = true →
      (Config.isDiscovery request = true →
        exec (.spdmRequest port mailbox request) s = .next (answered s (Config.discoveryAnswer request)))
      ∧ (Config.isDiscovery request = false → s.hkc.level.inRom = true → exec (.spdmRequest port mailbox request) s = .next s)
      ∧ (Config.isDiscovery request = false → s.hkc.level.inRom = false →
          let t := answered (s.spdmTaken request) (Config.spdmAnswer s.hkc.aliasKey s.hkc.measurements s.hkc.spdmLog request)
          exec (.spdmRequest port mailbox request) s = .next (if s.hkc.updatesKey request then t.runPosts else t))))
  ∧ (∀ request, Config.isDiscovery request = false → s.hkc.level.inRom = false →
    let u := s.spdmTaken request
    u.hkc.spdmLog = s.hkc.spdmLog ++ [request]
    ∧ (s.hkc.session ≠ .established → ∀ (n : Nat) (p : CxlPort), s.host.ports[n]? = some p → u.host.ports[n]? = some p)
    ∧ (s.hkc.session = .established → Config.isSecured request = true → ∀ (n : Nat) (p : CxlPort), s.host.ports[n]? = some p →
        ∃ q, u.host.ports[n]? = some q ∧ q.up = p.up ∧ q.refused = (p.refused && !Config.keyUpdates s.hkc.spdmLog request)
          ∧ q.ide = (p.ide || Config.enablesIde s.hkc.spdmLog n request))
    ∧ (s.hkc.session = .none → u.hkc.session = if Config.keyExchange s.hkc.spdmLog request then .handshake else .none)
    ∧ (s.hkc.session = .established → Config.isSecured request = true → Config.endsSession s.hkc.spdmLog request = true →
        u.hkc.session = .none))
  ∧ (∀ port, port < 2 →
    ((s.port port).ide = true → exec (.ideCheckFail port) s
      = .next ((s.setPort port { s.port port with refused := true }).linkEvent (16 + port) 4 (s.port port).status))
    ∧ ((s.port port).ide = false → exec (.ideCheckFail port) s = .next s))
  ∧ (∀ (port : Nat) (o : LinkOffer), port < 2 → s.trains port o = true →
      ∃ q : CxlPort, q.up = true ∧ q.width = o.width ∧ q.rate = o.rate
        ∧ q.retrains = (if (s.port port).up then (s.port port).retrains + 1 else (s.port port).retrains)
        ∧ ((s.port port).up = false →
            exec (.cxlLinkState port o) s = .next ((s.setPort port q).linkEvent (16 + port) 3 q.status).runPosts)
        ∧ ((s.port port).up = true → o.width < (s.port port).width →
            exec (.cxlLinkState port o) s = .next ((s.setPort port q).linkEvent (16 + port) 1 q.status))
        ∧ ((s.port port).up = true → (s.port port).width ≤ o.width → exec (.cxlLinkState port o) s = .next (s.setPort port q)))
  ∧ (∀ (port : Nat) (o : LinkOffer), port < 2 → s.trains port o = false → (s.port port).up = true →
      ∃ q : CxlPort, q.up = false ∧ exec (.cxlLinkState port o) s = .next ((s.setPort port q).linkEvent (16 + port) 2 q.status))
  ∧ (∀ die column, die < 4 → column < 5 → s.hkc.spareOk.getD die false = true →
      s.hkc.skip.getD die 4 ≠ column → s.dieBusy die = false → (∃ x ∈ s.hkc.retire, x ∈ (List.range 4).map (siteIn die column)) →
      ∃ t, exec (.coreRetire die column) s = .next t ∧ t.hkc.skip = setAt s.hkc.skip die column
        ∧ t.hkc.spareOk = setAt s.hkc.spareOk die false
        ∧ t.hkc.retire = s.hkc.retire.filter (fun x => !((List.range 4).map (siteIn die column)).contains x))

/-! ## The host's registers (chapter 03) -/

/-- QPROD, QUEUE_ENABLE, QERR_CLEAR and CCONS: a producer index more than the queue's entries ahead sets `QERR` and raises
QUEUE_ERR; a 0 to 1 write of `EN` resets the consumer index and the completion producer index; a 1 to bit 14 clears `QERR`.
EVENT_RING_ENABLE, EVCONS, MSIX_VECTOR_UNMASK and REGISTER_WRITE: a 0 to 1 write of `EN` zeroes the ring's producer index,
its lost counter and the sequence number; a pending message of a vector that is unmasked is sent once; a base is not written
while its queue is enabled; the power cap is clamped. A read of BAR0 returns what stands there: `DEVID` is 0x00640A01; aligned
4-byte reads return the low and the high half of what an 8-byte read returns; another access, or one of an offset from 0x102000 on,
returns zero. That `QPROD` keeps an invalid value as written, and that `EN` resets at its change from 0 to 1 alone, are the model's choices
(log entry 16). -/
def Obligations.HostRegisters : Prop :=
  (∀ (s : State) (q : Nat), s.hostReaches = true → q < 16 →
    (∀ v, (v - (s.queue q).cons).toNat ≤ (s.queue q).entries →
      exec (.qprod q v) s = .next (s.setQueue q { s.queue q with prod := v }))
    ∧ (∀ v, (s.queue q).entries < (v - (s.queue q).cons).toNat →
      exec (.qprod q v) s = .next ((s.setQueue q { s.queue q with prod := v, qerr := true }).event 0x0010 0xFF (natLe 1 q ++ natLe 4 v.toNat)))
    ∧ (∀ v, bitAt v.toNat 15 = true → (s.queue q).en = false → ∃ x : Queue, exec (.queueEnable q v) s = .next (s.setQueue q x)
        ∧ x.en = true ∧ x.cons = 0 ∧ x.cprod = 0 ∧ x.qlog = qlogOf (bits v.toNat 0 4) ∧ x.prod = (s.queue q).prod ∧ x.ccons = (s.queue q).ccons)
    ∧ (∀ v, ((s.queue q).en = true ∨ bitAt v.toNat 15 = false) → ∃ x : Queue, exec (.queueEnable q v) s
          = .next ((if bitAt v.toNat 15 then s else s.dropOwner (fetchOwner q)).setQueue q x)
        ∧ x.en = bitAt v.toNat 15 ∧ x.cons = (s.queue q).cons ∧ x.cprod = (s.queue q).cprod ∧ x.vec = BitVec.ofNat 6 (bits v.toNat 8 6)
        ∧ x.qerr = ((s.queue q).qerr && !bitAt v.toNat 14))
    ∧ (∀ v, ∃ x : Queue, exec (.qerrClear q v) s
          = .next ((if bitAt v.toNat 15 then s else s.dropOwner (fetchOwner q)).setQueue q x)
        ∧ x.qerr = false ∧ x.en = bitAt v.toNat 15)
    ∧ (∀ v, exec (.ccons q v) s = .next (s.setQueue q { s.queue q with ccons := v })))
  ∧ (∀ s : State, s.hostReaches = true →
    (∀ v : W64, bitAt v.toNat 15 = true → s.host.events.en = false → ∃ r : EventRing,
        exec (.eventRingEnable v) s = .next (s.onRing (fun _ => r)).drainRing ∧ r.en = true ∧ r.prod = 0 ∧ r.lost = 0 ∧ r.seq = 0
        ∧ r.elog = elogOf (bits v.toNat 0 5) ∧ r.vec = BitVec.ofNat 6 (bits v.toNat 8 6) ∧ r.cons = s.host.events.cons)
    ∧ (∀ v, exec (.evcons v) s = .next (s.onRing (fun r => { r with cons := v })).drainRing)
    ∧ (∀ v, v < 64 → s.host.pending.contains v = true → ∃ t, exec (.msixVectorUnmask v) s = .next t
        ∧ t.host.sent = s.host.sent ++ [v] ∧ t.host.pending = s.host.pending.filter (· != v) ∧ t.host.unmasked.contains v = true
        ∧ t.mem = s.mem ∧ t.hostMem = s.hostMem)
    ∧ (∀ v, v < 64 → s.host.pending.contains v = false → ∃ t, exec (.msixVectorUnmask v) s = .next t
        ∧ t.host.sent = s.host.sent ∧ t.host.pending = s.host.pending ∧ t.host.unmasked.contains v = true)
    ∧ (∀ (q : Nat) (v : W64), q < 16 → exec (.registerWrite (0x30000 + 0x100 * q) 8 v) s
        = .next (if (s.queue q).en then s else s.setQueue q { s.queue q with qbase := baseOf v }))
    ∧ (∀ v : W64, exec (.registerWrite 0x21000 4 v) s = .next { s with hkc := { s.hkc with
        pwrCap := BitVec.ofNat 12 (max 800 (min (bits v.toNat 0 12) 2200)) } }))
  ∧ (∀ s : State, s.readBar 0 8 = 0x00640A01 ∧ s.readBar 0 4 = 0x00640A01
    ∧ (∀ off size, (size ≠ 4 ∧ size ≠ 8 ∨ off % size ≠ 0) → s.readBar off size = 0)
    ∧ (∀ off size, 0x102000 ≤ off → s.readBar off size = 0)
    ∧ (∀ off, off % 8 = 0 → s.readBar off 4 = s.readBar off 8 &&& 0xFFFFFFFF ∧ s.readBar (off + 4) 4 = s.readBar off 8 >>> 32)
    ∧ (∀ q, q < 16 → s.readBar (0x30000 + 0x100 * q + 0x20) 4 = BitVec.setWidth 64 (s.queue q).cons
        ∧ s.readBar (0x30000 + 0x100 * q + 0x28) 4 = BitVec.setWidth 64 (s.queue q).cprod
        ∧ s.readBar (0x30000 + 0x100 * q) 8 = (s.queue q).qbase))

/-! ## Commands (chapters 03 and 05) -/

/-- COMMAND_ACCEPT: the next queue's record is taken, the consumer index goes up by one, and a record that keeps Table 3.6 is the
queue's command, with what it takes along (`accepted`); one that does not completes with BAD_CMD, and one whose fetch fails with
MEM_FAULT (its bytes are free values, log entry 7). A record that lies in another device's memory is asked for, and taken once the answer is
there. Without a queue that can accept, outside service and while CKPT or RESTORE is under way nothing is accepted. -/
def Obligations.CommandAcceptance : Prop := ∀ (s : State), s.hkc.main = true →
  (∀ q, s.serving = true → s.exclusive = false → s.nextQueue = some q →
    let x := s.queue q
    let taken (u : State) (bytes : List Byte) (order : Nat) : State :=
      let t := u.setQueue q { x with
        cons := x.cons + 1, cur := some (u.accepted { bytes := bytes, index := x.cons, order := order }) }
      { t with host := { t.host with lastQueue := q } }
    (∀ u bytes, s.busRead q x.qbase (x.cons.toNat % x.entries * 128) 128 = (u, .bytes bytes) →
      (Cmd.wellFormed { bytes := bytes, index := x.cons } = true →
        exec (.commandAccept true) s = .next (taken { u with nextId := u.nextId + 1 } bytes u.nextId))
      ∧ (Cmd.wellFormed { bytes := bytes, index := x.cons } = false →
        exec (.commandAccept true) s = .next ((taken { u with nextId := u.nextId + 1 } bytes u.nextId).complete q 1 0 0)))
    ∧ (∀ u, s.busRead q x.qbase (x.cons.toNat % x.entries * 128) 128 = (u, .waits) → exec (.commandAccept true) s = .next u)
    ∧ (∀ u, s.busRead q x.qbase (x.cons.toNat % x.entries * 128) 128 = (u, .failed) → ∃ bytes, exec (.commandAccept true) s
        = .next ((taken { u with nextId := u.nextId + 1, draws := u.draws + 128 } bytes u.nextId).complete q 0x13 0 0))
    ∧ ∃ bytes, exec (.commandAccept false) s
        = .next ((taken { s.dropOwner (fetchOwner q) with nextId := s.nextId + 1, draws := s.draws + 128 } bytes s.nextId).complete q 0x13 0 0))
  ∧ (∀ c : Cmd, (s.accepted c).bytes = c.bytes ∧ (s.accepted c).index = c.index ∧ (s.accepted c).order = c.order
    ∧ (s.accepted c).time = s.time.toNat
    ∧ (∀ x, s.job? c.job = some x → (c.op = 8 ∨ c.op = 9) → (s.accepted c).svars = some x.sv)
    ∧ (∀ x, s.job? c.job = some x → deviceWide c.op = false → c.op ≠ 1 → c.op ≠ 0x0F → (s.accepted c).cancelled = (x.st == .cancelling)))
  ∧ ((s.serving = false ∨ s.exclusive = true ∨ s.nextQueue = none) → ∀ fetched, exec (.commandAccept fetched) s = .next s)

/-- JOB_OPEN, JOB_CLOSE and JOB_CANCEL: a FREE job id opens as its record says, with BAD_ARG outside the ranges and BUSY where the
job exists, whatever the ranges (log entry 72); JOB_CLOSE closes the job and seals its phases; JOB_CANCEL cancels the job with cause 2,
and completes at its end. -/
def Obligations.JobLifeCommands : Prop := ∀ (s : State) (q : Nat) (c : Cmd),
  (s.hkc.main = true → s.turn q 1 = some c → s.job? c.job = none → c.cancelled = false →
    (c.opens.openable = true → exec (.jobOpen q) s
      = .next (({ s with endedParts := s.endedParts.filter (fun p => p.job != c.job) }.setJob c.job c.opens).complete q 0 0 0))
    ∧ (c.opens.openable = false → exec (.jobOpen q) s = .next (s.complete q 2 0 0)))
  ∧ (∀ x, s.CommandRuns q 1 c x → exec (.jobOpen q) s = .next (s.complete q 4 0 0))
  ∧ (∀ x, s.CommandRuns q 2 c x → ∃ y : Job, exec (.jobClose q) s = .next (((s.setJob c.job y).settle c.job settleBound).complete q 0 0 0)
      ∧ y.wasClosing = true ∧ (x.st = .opened → y.st = .closing) ∧ (x.st ≠ .opened → y.st = x.st)
      ∧ (∀ p ∈ y.phases, p.ended = true ∨ p.closed = true) ∧ y.insts = x.insts)
  ∧ (∀ x, s.CommandRuns q 3 c x → c.begun = false →
      exec (.jobCancel q) s = .next (if (s.cancelJob c.job 2 0).jobOver c.job then (s.cancelJob c.job 2 0).complete q 0 0 0
        else (s.cancelJob c.job 2 0).begin q []))
  ∧ (s.hkc.main = true → s.turn q 3 = some c → c.begun = true → s.jobOver c.job = true →
      exec (.jobCancel q) s = .next (s.complete q 0 0 0))

/-- MAP_SET, SLOT_SET, SVAR_SET, TICK_SET and PHASE_OPEN, for a job whose state lets them take effect: what each writes into its job,
and the statuses of a field out of range (BAD_ARG), of shares that do not fit, of a phase that exists (BUSY) and of a
seventeenth phase. For a job that is FREE each completes with BAD_JOB, or with CANCELLED where it was accepted for a job that was being
cancelled (R93). The job's state comes before the fields, and the checks of PHASE_OPEN in this order: the model's reading (log entry 72). -/
def Obligations.JobSettingCommands : Prop := ∀ (s : State) (q : Nat) (c : Cmd),
  (∀ x : Job, s.CommandRuns q 4 c x →
    (c.field 0x10 8 % 65536 ≠ 0 → exec (.mapSet q) s = .next (s.complete q 2 0 0))
    ∧ (c.field 0x10 8 % 65536 = 0 → exec (.mapSet q) s
        = .next (((s.setJob c.job { x with l3 := if c.field 0x10 8 = 0 then x.l3 else c.field 0x10 8 }).dropRange c.job
            (c.field 0x18 8) (c.field 0x20 8)).complete q 0 0 0)))
  ∧ (∀ x : Job, s.CommandRuns q 6 c x →
    ((64 < c.field 0x10 1 ∨ bufferEntries < c.field 0x12 2) → exec (.slotSet q) s = .next (s.complete q 2 0 0))
    ∧ (c.field 0x10 1 ≤ 64 → c.field 0x12 2 ≤ bufferEntries →
      (s.sharesFit c.job (c.field 0x10 1) (c.field 0x12 2) [] x.cores = false →
        exec (.slotSet q) s = .next (s.complete q 0x0A 0 0))
      ∧ (s.sharesFit c.job (c.field 0x10 1) (c.field 0x12 2) [] x.cores = true → exec (.slotSet q) s
          = .next (((s.setJob c.job { x with
              weight := c.field 0x10 1, resv := c.field 0x12 2, rate := c.field 0x14 4 }).rebuildFor x.cores).complete q 0 0 0))))
  ∧ (∀ x : Job, s.CommandRuns q 0x0B c x →
    (12 < countIf (fun i => bitAt (c.field 0x10 4) i) (List.range 32) → exec (.svarSet q) s = .next (s.complete q 2 0 0))
    ∧ (countIf (fun i => bitAt (c.field 0x10 4) i) (List.range 32) ≤ 12 → exec (.svarSet q) s
        = .next ((s.setVars c.job (fun vars => writeVars (c.field 0x10 4) (c.bytes.drop 0x18) vars 0)).complete q 0 0 0)
      ∧ ∃ y : Job, (s.setVars c.job (fun vars => writeVars (c.field 0x10 4) (c.bytes.drop 0x18) vars 0)).job? c.job = some y
        ∧ y.sv = writeVars (c.field 0x10 4) (c.bytes.drop 0x18) x.sv 0))
  ∧ (∀ x : Job, s.CommandRuns q 0x0C c x →
    (c.field 0x10 8 ≠ 0 → (c.field 0x10 8 < 10000 ∨ 10 ^ 10 < c.field 0x10 8) →
      exec (.tickSet q) s = .next (s.complete q 2 0 0))
    ∧ ((c.field 0x10 8 = 0 ∨ (10000 ≤ c.field 0x10 8 ∧ c.field 0x10 8 ≤ 10 ^ 10)) → exec (.tickSet q) s
        = .next (((s.setJob c.job { x with
            period := c.field 0x10 8, nextEdge := firstEdge c.time (c.field 0x10 8) (c.field 0x18 8), owed := 0, deadlines := 0
            edgePassed := none }).settle c.job settleBound).complete q 0 0 0)))
  ∧ (∀ x : Job, s.CommandRuns q 0x0A c x →
    (3 < c.field 0x12 1 → exec (.phaseOpen q) s = .next (s.complete q 2 0 0))
    ∧ (c.field 0x12 1 ≤ 3 → (∃ p ∈ x.phases, p.id = c.field 0x10 2) → exec (.phaseOpen q) s = .next (s.complete q 4 0 0))
    ∧ (c.field 0x12 1 ≤ 3 → (∀ p ∈ x.phases, p.id ≠ c.field 0x10 2) →
      (16 ≤ x.phases.length → exec (.phaseOpen q) s = .next (s.complete q 0x0D 0 0))
      ∧ (x.phases.length < 16 → exec (.phaseOpen q) s
          = .next (((s.setJob c.job { x with phases := x.phases.map (fun p => if p.ended then p else { p with closed := true })
              ++ [{ id := c.field 0x10 2, ticked := bitAt (c.field 0x12 1) 0, queuePolicy := bitAt (c.field 0x12 1) 1 }] }).settle
                c.job settleBound).complete q 0 0 0))))
  ∧ (s.hkc.main = true → s.job? c.job = none → ∀ st, st = (if c.cancelled then 0x12 else 3) →
    (s.turn q 4 = some c → exec (.mapSet q) s = .next (s.complete q st 0 0))
    ∧ (s.turn q 6 = some c → exec (.slotSet q) s = .next (s.complete q st 0 0))
    ∧ (s.turn q 0x0B = some c → exec (.svarSet q) s = .next (s.complete q st 0 0))
    ∧ (s.turn q 0x0C = some c → exec (.tickSet q) s = .next (s.complete q st 0 0))
    ∧ (s.turn q 0x0A = some c → exec (.phaseOpen q) s = .next (s.complete q st 0 0)))

/-- CODE_LOAD, GRAPH_START and GRAPH_BATCH: a graph that loads is numbered in result 0, and one that does not names its failure;
an instance takes the lowest free slot, after the patches, and its id is result 0; the chunks of a batch take a slot each, and a batch of
count 0 takes none. A command waits while another device, or a port of the host, has not answered. The order of the checks is the model's
reading (log entry 72), and so is the patch count's range for a batch (log entry 93). -/
def Obligations.GraphCommands : Prop := ∀ (s : State) (q : Nat) (c : Cmd) (x : Job),
  (s.CommandRuns q 7 c x →
    (c.field 0x10 8 % 4096 ≠ 0 → exec (.codeLoad q) s = .next (s.complete q 2 0 0))
    ∧ (c.field 0x10 8 % 4096 = 0 → ∀ t g, s.load (cmdOwner q) c.job (c.field 0x10 8) (c.field 0x18 4) = .done t g →
        exec (.codeLoad q) s = .next (t.complete q 0 g 0))
    ∧ (c.field 0x10 8 % 4096 = 0 → ∀ t, s.load (cmdOwner q) c.job (c.field 0x10 8) (c.field 0x18 4) = .wait t →
        exec (.codeLoad q) s = .next (s.keepAsks t))
    ∧ (c.field 0x10 8 % 4096 = 0 → ∀ t st r0 r1, s.load (cmdOwner q) c.job (c.field 0x10 8) (c.field 0x18 4) = .refused t st r0 r1 →
        exec (.codeLoad q) s = .next (t.complete q st r0 r1)))
  ∧ (s.CommandRuns q 8 c x →
    let graph := x.startable (c.field 0x10 2) (c.field 0x12 2) (c.field 0x28 2) (c.field 0x20 8)
    (graph = none → exec (.graphStart q) s = .next (s.complete q 2 0 0))
    ∧ (∀ g, graph = some g → s.proof = true → g.fabric ≠ none → exec (.graphStart q) s = .next (s.complete q 5 0 0))
    ∧ (∀ g, graph = some g → (s.proof = false ∨ g.fabric = none) →
      (x.freeSlots = [] → exec (.graphStart q) s = .next (s.complete q 0x0D 0 0))
      ∧ (∀ slot rest, x.freeSlots = slot :: rest →
        (∀ t ps, s.patch q c (c.field 0x20 8) (c.field 0x28 2) = .done t ps →
          exec (.graphStart q) s = .next (((t.takeOrdinal c.job g).1.enterAll c.job
            { graph := c.field 0x10 2, phase := c.field 0x12 2, named := c.named, ordinal := (t.takeOrdinal c.job g).2 }
            [(slot, c.field 0x18 8, 1)]).complete q 0 (slot + 256 * x.seq) 0))
        ∧ (∀ t st i, s.patch q c (c.field 0x20 8) (c.field 0x28 2) = .failed t st i →
          exec (.graphStart q) s = .next (t.complete q st i 0))
        ∧ (∀ t, s.patch q c (c.field 0x20 8) (c.field 0x28 2) = .wait t → exec (.graphStart q) s = .next t))))
  ∧ (s.CommandRuns q 9 c x →
    let graph := x.startable (c.field 0x10 2) (c.field 0x12 2) (c.field 0x30 2) (c.field 0x28 8)
    (graph = none → exec (.graphBatch q) s = .next (s.complete q 2 0 0))
    ∧ (∀ g, graph = some g →
      let chunks := chunksOf (x.windows g) 4096 0 (c.field 0x24 4)
      ((g.fabric ≠ none ∨ c.field 0x20 4 % 8 ≠ 0 ∨ 4096 < c.field 0x20 4) → exec (.graphBatch q) s = .next (s.complete q 2 0 0))
      ∧ (g.fabric = none → c.field 0x20 4 % 8 = 0 → c.field 0x20 4 ≤ 4096 →
        (x.freeSlots.length < chunks.length → exec (.graphBatch q) s = .next (s.complete q 0x0D 0 0))
        ∧ (chunks.length ≤ x.freeSlots.length →
          (∀ t ps slot rest, s.patch q c (c.field 0x28 8) (c.field 0x30 2) = .done t ps →
            (x.freeSlots.zip chunks).map (fun p => p.1) = slot :: rest →
            exec (.graphBatch q) s = .next ((t.enterAll c.job
              { graph := c.field 0x10 2, phase := c.field 0x12 2, named := c.named, ordinal := 0 }
              ((x.freeSlots.zip chunks).map (fun p => (p.1, c.field 0x18 8 + p.2.1 * c.field 0x20 4, p.2.2)))).complete q 0
                (slot + 256 * x.seq) chunks.length))
          ∧ (∀ t ps, s.patch q c (c.field 0x28 8) (c.field 0x30 2) = .done t ps → x.freeSlots.zip chunks = [] →
            exec (.graphBatch q) s = .next ((t.enterAll c.job
              { graph := c.field 0x10 2, phase := c.field 0x12 2, named := c.named, ordinal := 0 } []).complete q 0 0 chunks.length))
          ∧ (∀ t st i, s.patch q c (c.field 0x28 8) (c.field 0x30 2) = .failed t st i →
            exec (.graphBatch q) s = .next (t.complete q st i 0))
          ∧ (∀ t, s.patch q c (c.field 0x28 8) (c.field 0x30 2) = .wait t → exec (.graphBatch q) s = .next t)))))

/-- WALL_SET, PREEMPT, SAVE_END and RESUME: a wall on free cores takes effect at once, and one on cores of jobs of lower priority once those
are saved; a pre-emption halts its job, waits for the save, and returns the bytes it took; a job whose sweep is complete is saved; a resume
to free cores restores the job where its record names, and one that evicts does so after the saves; a save that faults answers MEM_FAULT
with the masks. The order of WALL_SET's checks is the model's reading (log entry 72). -/
def Obligations.PlacementCommands : Prop := ∀ (s : State) (q : Nat) (c : Cmd),
  let evicts (vs : List Nat) : State := (vs.foldl (fun t v => t.haltJob v) s).begin q vs
  (∀ x r, s.CommandRuns q 5 c x → c.begun = false →
    r = Rect.mk (c.field 0x10 1) (c.field 0x11 1) (c.field 0x12 1) (c.field 0x13 1) →
    (∀ st, s.rectCheck r (c.field 0x14 1) = some st → exec (.wallSet q) s = .next (s.complete q st 0 0))
    ∧ (s.rectCheck r (c.field 0x14 1) = none →
      (x.rect = some r → exec (.wallSet q) s = .next (s.complete q 0 0 0))
      ∧ (x.rect ≠ some r → (∃ p ∈ x.insts, p.2.st ≠ .ended) → exec (.wallSet q) s = .next (s.complete q 4 0 0))
      ∧ (x.rect ≠ some r → (∀ p ∈ x.insts, p.2.st = .ended) →
        let at_ := s.placement q c.job x r (c.field 0x14 1 == 1)
        (at_ = .evicting [] → exec (.wallSet q) s = .next ((s.setWall c.job r).complete q 0 0 0))
        ∧ (∀ v vs, at_ = .evicting (v :: vs) → exec (.wallSet q) s = .next (evicts (v :: vs)))
        ∧ (∀ st, at_ = .refused st → exec (.wallSet q) s = .next (s.complete q st 0 0))
        ∧ (at_ = .wait → exec (.wallSet q) s = .next s))))
  ∧ (∀ x, s.hkc.main = true → s.turn q 5 = some c → c.begun = true → s.job? c.job = some x → (x.st = .opened ∨ x.st = .closing) →
    (c.waits ≠ [] → exec (.wallSet q) s = .next s)
    ∧ (c.waits = [] → c.failed ≠ [] → exec (.wallSet q) s = .next (s.complete q 0x13 (maskOf c.done) (maskOf c.failed)))
    ∧ (c.waits = [] → c.failed = [] → exec (.wallSet q) s
      = .next ((s.setWall c.job (Rect.mk (c.field 0x10 1) (c.field 0x11 1) (c.field 0x12 1) (c.field 0x13 1))).complete q 0 (maskOf c.done) 0)))
  ∧ (∀ x, s.CommandRuns q 0x11 c x → c.begun = false →
      exec (.preempt q) s = .next ((s.haltJob c.job).begin q [c.job]))
  ∧ (∀ x, s.hkc.main = true → s.turn q 0x11 = some c → c.begun = true → s.job? c.job = some x →
    (x.st = .preempting → exec (.preempt q) s = .next s)
    ∧ (x.st ≠ .preempting → x.st ≠ .cancelling →
      (c.failed ≠ [] → exec (.preempt q) s = .next (s.complete q 0x13 0 0))
      ∧ (∀ v, c.failed = [] → x.saved = some v → exec (.preempt q) s = .next (s.complete q 0 v.bytes 0))))
  ∧ (∀ j, s.hkc.main = true → s.swept j = true → exec (.saveEnd j) s = .next (s.saveJob j))
  ∧ (∀ x v r dx dy, s.CommandRuns q 0x12 c x → c.begun = false → x.saved = some v → c.field 0x12 1 ≤ 1 →
      x.resumeAt v (c.field 0x10 1) (c.field 0x11 1) = some (some r, dx, dy) → s.rectCheck r (c.field 0x12 1) = none →
      let at_ := s.placement q c.job x r (c.field 0x12 1 == 1)
      let fits (vs : List Nat) : Bool := s.fits c.job (x.placedAt (some r) dx dy) v vs
      (at_ = .evicting [] → fits [] = true → exec (.resume q) s = .next ((s.restoreJob c.job (some r) dx dy).complete q 0 0 0))
      ∧ (∀ w vs, at_ = .evicting (w :: vs) → fits (w :: vs) = true → exec (.resume q) s = .next (evicts (w :: vs)))
      ∧ (∀ vs, at_ = .evicting vs → fits vs = false → exec (.resume q) s = .next (s.complete q 8 0 0)))
  ∧ (∀ x, s.hkc.main = true → s.turn q 0x12 = some c → c.begun = true → s.job? c.job = some x → x.st ≠ .cancelling →
    (c.waits ≠ [] → exec (.resume q) s = .next s)
    ∧ (c.waits = [] → c.failed ≠ [] → exec (.resume q) s = .next (s.complete q 0x13 (maskOf c.done) (maskOf c.failed)))
    ∧ (∀ v r dx dy, c.waits = [] → c.failed = [] → x.saved = some v →
      x.resumeAt v (c.field 0x10 1) (c.field 0x11 1) = some (some r, dx, dy) →
      exec (.resume q) s = .next (if s.fits c.job (x.placedAt (some r) dx dy) v [] then
        (s.restoreJob c.job (some r) dx dy).complete q 0 (maskOf c.done) 0 else s.complete q 8 (maskOf c.done) 0)))

/-- FLOOR_ALLOC, FLOOR_FREE, FAULT_RESOLVE and CELLAR_GROW: DARK floors become ZEROING, with their bytes gone; LIT floors become
DARK; a pending fault's ports go on; a cellar moves to its larger ring, and where the move faults nothing moves and the status is MEM_FAULT,
which is the model's choice (log entry 89), as is the order of the checks (log entry 72). -/
def Obligations.MemoryCommands : Prop := ∀ (s : State) (q : Nat) (c : Cmd), s.hkc.main = true →
  (s.turn q 0x0D = some c → c.begun = false →
    (∀ st, s.floorCheck c true = some st → exec (.floorAlloc q) s = .next (s.complete q st 0 0))
    ∧ (s.floorCheck c true = none → (∃ f ∈ c.floors, (s.floor f).st ≠ .dark) → exec (.floorAlloc q) s = .next (s.complete q 4 0 0))
    ∧ (s.floorCheck c true = none → (∀ f ∈ c.floors, (s.floor f).st = .dark) →
        exec (.floorAlloc q) s = .next (((c.floors.foldl (fun u f =>
          { u.wipeFloor f with floors := Table.put u.floors f { st := .zeroing } }) s).beginWake (c.field 0x10 1)).begin q [])))
  ∧ (s.turn q 0x0D = some c → c.begun = true → (∀ f ∈ c.floors, (s.floor f).st.open = true) →
      exec (.floorAlloc q) s = .next (s.complete q 0 0 0))
  ∧ (s.turn q 0x0E = some c → s.floorCheck c false = none →
    ((∃ f ∈ c.floors, (s.floor f).st.open = false) → exec (.floorFree q) s = .next (s.complete q 4 0 0))
    ∧ ((∀ f ∈ c.floors, (s.floor f).st.open = true) → ∃ t, exec (.floorFree q) s = .next (t.complete q 0 0 0)
        ∧ t = c.floors.foldl (fun u f => { ((u.refuseWatches f).wipeFloor f).repairRows (fun g => g == f) with
            floors := Table.put (((u.refuseWatches f).wipeFloor f).repairRows (fun g => g == f)).floors f {} }) s))
  ∧ (∀ x f, s.resolvesSave q = none → s.CommandRuns q 0x0F c x → x.st ≠ .preempted →
      s.faults.find? (fun g => g.id == c.field 0x10 8 && g.job == c.job && g.resolved.isNone) = some f →
      c.field 0x18 1 ≤ 1 → (c.field 0x18 1 = 0 ∨ f.spills = false) →
      exec (.faultResolve q) s = .next ((s.resolveFault f (c.field 0x18 1)).complete q 0 0 0))
  ∧ (∀ x, s.CommandRuns q 0x10 c x → c.field 0x10 1 ≤ 63 →
      ((c.field 0x20 4 % 65536 ≠ 0 ∨ c.field 0x20 4 < (x.cellar (c.field 0x10 1)).bytes) →
        exec (.cellarGrow q) s = .next (s.complete q 2 0 0))
      ∧ (c.field 0x20 4 % 65536 = 0 → (x.cellar (c.field 0x10 1)).bytes ≤ c.field 0x20 4 → ∀ t g,
        s.growCellar (cmdOwner q) c.job (c.field 0x10 1) (c.field 0x18 8) (c.field 0x20 4) = (t, g) →
          (∀ bs, g = .data bs → exec (.cellarGrow q) s = .next (t.complete q 0 0 0))
          ∧ (g = .wait → exec (.cellarGrow q) s = .next (s.keepAsks t))
          ∧ ((∀ bs, g ≠ .data bs) → g ≠ .wait → exec (.cellarGrow q) s = .next (s.complete q 0x13 0 0))))
  ∧ (∀ x t bs, s.CommandRuns q 0x10 c x → c.field 0x10 1 = 0xFF → c.field 0x20 4 % 65536 = 0 →
      (∀ n < 64, (x.cellar n).bytes ≤ c.field 0x20 4) →
      s.growAll (cmdOwner q) c.job (fun n => c.field 0x18 8 + n * c.field 0x20 4) (c.field 0x20 4) (List.range 64) = (t, .data bs) →
      exec (.cellarGrow q) s = .next ((t.onJob c.job (fun y => { y with
        cellarVa := c.field 0x18 8, cellarBytes := c.field 0x20 4 })).complete q 0 0 0))

/-- CKPT and RESTORE: CKPT halts every running job, and once they are saved writes the image into the host's memory and lets them go
on, unless `STOP` says otherwise; RESTORE reopens the jobs of an image that passes its checks, with their mask in result 0; an
attic that is too small, an image that does not pass and a failing attic answer ATTIC_SIZE, ATTIC_CRC and ATTIC_IO. What the
job-state section of an image holds is free (log entries 7 and 60); the order of the checks, the record found by the section's bytes and
what a failing attic has written are the model's reading (log entry 73). -/
def Obligations.AtticCommands : Prop := ∀ (s : State) (q : Nat) (c : Cmd) (attic : AtticOutcome), s.hkc.main = true →
  (s.turn q 0x13 = some c → c.begun = false →
    ((c.field 0x10 8 % 4096 ≠ 0 ∨ 1 < c.field 0x20 1) → exec (.ckpt q attic) s = .next (s.complete q 2 0 0))
    ∧ (c.field 0x10 8 % 4096 = 0 → c.field 0x20 1 ≤ 1 → (∀ p ∈ s.jobs, p.2.st ≠ .preempting) →
      let bytes := (s.imageSizes [] s.draws).bytes
      (imageFits bytes (c.field 0x18 8) = false → exec (.ckpt q attic) s = .next (s.complete q 0x0F 0 0))
      ∧ (imageFits bytes (c.field 0x18 8) = true → ∃ run : List Nat,
        run = (s.jobs.filter (fun p => p.2.running && !p.2.ended)).map (fun p => p.1)
        ∧ exec (.ckpt q attic) s = .next (((run.foldl (fun t j => t.haltJob j)
            ({ s with draws := s.draws + 1 + stateLength s.draws } : State)).begin q run).onCmd q
              (fun d => { d with draw := s.draws })))))
  ∧ (s.turn q 0x13 = some c → c.begun = true → c.waits = [] → s.atticPasses = true →
      ∀ t copied, s.readOutside q (s.copiedParts c.done) = .ok (t, copied) →
      let base := c.field 0x10 8
      let bytes := (t.imageSizes c.done c.draw).bytes
      let on (u : State) : State := if bitAt (c.field 0x20 1) 0 then u else c.done.foldl (fun v j => v.goOn j) u
      (exec (.ckpt q .performed) s = .next (((on { t with
          hostMem := splice t.hostMem (t.image base c.done c.draw copied) base (base + bytes)
          attics := Table.put t.attics c.draw (t.atticRecord base c.done c.draw copied true) }).complete q 0 bytes 0).finishAllocs))
      ∧ ∃ n, exec (.ckpt q .ioError) s = .next (((on { t with
          hostMem := splice t.hostMem (t.image base c.done c.draw copied) (base + 0x1000) (base + 0x1000 + n)
          draws := t.draws + 1 }).complete q 0x0E 0 0).finishAllocs))
  ∧ (s.turn q 0x14 = some c → c.field 0x10 8 % 4096 = 0 → s.hkc.level = .full → s.jobs = [] → s.atticPasses = true →
      let base := c.field 0x10 8
      let h := s.headerAt base
      let bytes := (headerSizes h).bytes
      (exec (.restore q .ioError) s = .next ((s.complete q 0x0E 0 0).finishAllocs))
      ∧ (headerGood h s.hkc.svn = false → exec (.restore q .performed) s = .next ((s.complete q 0x11 0 0).finishAllocs))
      ∧ (headerGood h s.hkc.svn = true → c.field 0x18 8 < bytes →
          exec (.restore q .performed) s = .next ((s.complete q 0x0F 0 0).finishAllocs))
      ∧ (headerGood h s.hkc.svn = true → bytes ≤ c.field 0x18 8 → s.checksMatch base bytes = false →
          exec (.restore q .performed) s = .next (((s.wokenInVain h).complete q 0x10 0 0).finishAllocs))
      ∧ (headerGood h s.hkc.svn = true → bytes ≤ c.field 0x18 8 → s.checksMatch base bytes = true →
          ∀ a t bs, s.recordAt base = some a → a.sound = true → a.layout = (Config.saveVersion s.hkc.signedHash).toNat →
          a.devnum = s.host.devnum → (s.reopen base h a).writeBack q a = (t, .data bs) → exec (.restore q .performed) s
            = .next ((t.complete q 0 (maskOf (a.jobs.map (fun p => p.1))) 0).finishAllocs)))

/-! ## The cores (chapter 06) -/

/-- TOKEN_ARRIVAL, MATCH, FIRING_ISSUE and ISSUE_RECOVERY_END: an admitted token joins the end of its core's buffer; the matcher
takes the first token of the next job in turn that it need not defer, or fires a merge of that job again whose places are both full
(R142), and takes none while the ready queue is full; a token that fails a check traps; the slot table's job issues its oldest group, or a new one. -/
def Obligations.MatchingEvents : Prop := ∀ (s : State) (c : Nat), s.hkc.main = true →
  (∀ i x t, s.Arrives i x → x.what = .value t → s.devCore x.job x.dst = some c → s.discards x.job t.inst c = false →
    (∀ u, (s.withoutItem i).letIn c t = (u, true) →
      exec (.tokenArrival i) s = .next ((u.received x t.inst).progress x.job t.inst))
    ∧ (∀ u, (s.withoutItem i).letIn c t = (u, false) → exec (.tokenArrival i) s = .next { u with mesh := s.mesh })
    ∧ (let v := (s.job t.job.toNat).cellar ((s.job t.job.toNat).jobCore c)
      v.hold = 0 → v.count = 0 → s.admits c t.job.toNat = true → exec (.tokenArrival i) s
        = .next ((((s.withoutItem i).onCore c (fun k => { k with
            buffer := k.buffer ++ [t], perf := Table.modify k.perf (64 * t.job.toNat + 7) 0 (· + 1) })).received x t.inst).progress
              x.job t.inst)))
  ∧ (1024 ≤ (s.core c).ready.length → exec (.matchToken c) s = .next s)
  ∧ (∀ j rest, (s.core c).ready.length < 1024 →
      (cyclicAfter (s.core c).lastMatched).filter (fun j => !(s.job j).halted && s.rateOk c j
        && ((s.core c).buffer.any (fun t => t.job.toNat == j) || (s.core c).frames.any (fun f => f.job == j))) = j :: rest →
      (∀ m, s.mergeReady c j = some m → exec (.matchToken c) s = .next (s.mergeFire c m { s.core c with lastMatched := j }))
      ∧ (s.mergeReady c j = none → ∀ before t x after, s.firstTaken c j [] (s.core c).buffer = some (before, t, x, after) →
        let taken : State := s.onCore c (fun k => { (k.count j 11 (countIf (fun (p : Token × Token) =>
              p.1.passed && !p.2.passed) (before.zip (s.core c).buffer))).matchedTile t with
            buffer := before ++ after, window := Table.modify (k.windowNow s.clock) j 0 (· + 1)
            windowAt := s.clock / 256, lastMatched := j })
        (∀ m, x = .take m → exec (.matchToken c) s = .next (taken.matchTaken c m))
        ∧ (∀ e i w, x = .trap e i w → exec (.matchToken c) s = .next (taken.matchTrap c t e i w))))
  ∧ (s.serving = false → exec (.firingIssue c) s = .next s)
  ∧ (∀ t, s.serving = true → t = (s.resumeCommits c).routeRun →
    (t.issueJob c = none → exec (.firingIssue c) s = .next t)
    ∧ (∀ j, t.issueJob c = some j → ((t.core c).issuing j).isSome = true → exec (.firingIssue c) s = .next { t with issue := some (c, j) })
    ∧ (∀ j, t.issueJob c = some j → (t.core c).issuing j = none →
        exec (.firingIssue c) s = .next { t.formGroup c j with issue := some (c, j) }))
  ∧ (∀ at_, (s.core c).recovery = some at_ →
      (at_ + 2 ^ 20 ≤ s.clock ∨ ∀ p ∈ s.jobsAt c, (p.2.cellar (p.2.jobCore c)).count = 0) →
      exec (.issueRecoveryEnd c) s = .next ((s.onCore c (fun k => { k with recovery := none })).rebuildSlots c))

/-- RATE_WINDOW, SPILL and REFILL: the window of counts ends at a clock that is a multiple of 256, and what it counted is out
of force from then on; the newest tokens of a job go
to its empty cellar; a job refills from its cellar's head, at most 64 tokens. -/
def Obligations.QueueEvents : Prop := ∀ (s : State) (c : Nat), s.hkc.main = true →
  ((s.core c).windowAt < s.clock / 256 → exec (.rateWindow c) s
    = .next (s.onCore c (fun k => { k with window := [], windowAt := s.clock / 256 })))
  ∧ (s.clock / 256 ≤ (s.core c).windowAt → exec (.rateWindow c) s = .next s)
  ∧ (∀ (k : Core) (clock : Nat), k.windowNow clock = if k.windowAt = clock / 256 then k.window else [])
  ∧ (∀ j kept gone u, ((s.job j).cellar ((s.job j).jobCore c)).hold = 0 → ((s.job j).cellar ((s.job j).jobCore c)).count = 0 →
      15360 < (s.core c).buffer.length → (s.job j).resv < (s.core c).holds j →
      newestOf j (s.spillCount c j) (s.core c).buffer = (kept, gone) → s.spillAll c j gone = (u, true) →
      exec (.spill c j) s = .next (u.onCore c (fun k => { k with buffer := kept })))
  ∧ (∀ j, (s.core c).buffer.length ≤ 15360 → exec (.spill c j) s = .next s)
  ∧ (∀ j, s.mayRefill c j = true → exec (.refill c j) s = .next ((s.refillFrom c j 64).onCore c (fun k => { k with lastRefilled := j })))
  ∧ (∀ j, s.mayRefill c j = false → exec (.refill c j) s = .next s)

/-- FALLOC_REQUEST, REMOTE_FFREE, STEAL_REQUEST_ARRIVAL and INSTANCE_CANCEL_MARK: the oldest FALLOC of a block gets its frame, and
its pointer as the answer; a frame of another core ends; a steal request waits in the mailbox, or is answered empty; the mark of
a cancelled instance discards what it holds at a core. -/
def Obligations.FrameEvents : Prop := ∀ (s : State) (c : Nat), s.hkc.main = true →
  (∀ (i base : Nat) (q : FallocReq), (s.core c).fallocs[i]? = some q →
    ((s.core c).fallocs.take i).any (fun p => p.req.job == q.req.job && p.block == q.block) = false →
    let s1 := s.setCore c { s.core c with fallocs := removeAt (s.core c).fallocs i }
    ((s.core c).blockOf q.req.job q.block = none → exec (.fallocRequest c i base) s = .next (s1.answer q.req 13 0 true))
    ∧ (∀ b, (s.core c).blockOf q.req.job q.block = some b → (s.core c).underLimit q.req.job q.block b = true →
        (s.core c).runFree base b.fsize = true → exec (.fallocRequest c i base) s
          = .next ((s1.giveFrame c q.req.job q.req.inst q.block base).answer q.req 13
              (framePtr base ((s.job q.req.job).jobCore c) s.devnum) false)))
  ∧ (∀ i x j base inst z, s.Arrives i x → x.what = .ffree j base inst z → s.devCore j x.dst = some c →
      exec (.remoteFfree i) s = .next ((s.withoutItem i).endFrame c j base))
  ∧ (∀ i x a poison reply inst, s.Arrives i x → x.what = .steal a poison reply inst → s.devCore x.job x.dst = some c →
      s.discards x.job inst c = false → exec (.stealRequestArrival i) s
        = .next ((((s.withoutItem i).received x inst).takeSteal c x.dst x.job inst reply poison).progress x.job inst))
  ∧ (∀ j i, s.markPending j i c = true → exec (.instanceCancelMark j i c) s = .next (s.cancelAt j i c))
  ∧ (∀ j i, s.markPending j i c = false → exec (.instanceCancelMark j i c) s = .next s)

/-- TILE_ARRIVAL, TILE_LAST_BYTE_LEFT and TILE_FREE: a shipped tile fills the tile that is granted for it in its turn, and its token
is let in; one for which there is no space asks for it and waits; the last byte leaves with the tile's shape, elements and poison,
touches its banks, and releases the send's reference; a tile that is to be freed is freed once nothing works on it. -/
def Obligations.TileTravel : Prop := ∀ (s : State) (c : Nat), s.hkc.main = true →
  (∀ i x t d gs, s.Arrives i x → x.what = .tile t (some d) → s.devCore x.job x.dst = some c →
    s.discards x.job t.inst c = false →
    (s.queuedBefore c (x.asked.getD s.nextId) = true → exec (.tileArrival i gs) s = .next (s.awaitSpace i))
    ∧ (s.queuedBefore c (x.asked.getD s.nextId) = false →
      (((s.withoutItem i).core c).makeAll s.clock x.job t.inst .pending d.asks gs = none →
        exec (.tileArrival i gs) s = .next (s.awaitSpace i))
      ∧ (∀ k1 made, ((s.withoutItem i).core c).makeAll s.clock x.job t.inst .pending d.asks gs = some (k1, made) →
        let t1 := { t with w2 := (k1.fillShipped d made).handle x.dst (made.headD 0), poison := t.poison || d.poison }
        (∀ u, ((s.withoutItem i).setCore c (k1.fillShipped d made)).letIn c t1 = (u, true) →
          exec (.tileArrival i gs) s = .next ((u.received x t.inst).progress x.job t.inst))
        ∧ (∀ u, ((s.withoutItem i).setCore c (k1.fillShipped d made)).letIn c t1 = (u, false) →
          exec (.tileArrival i gs) s = .next { ((s.withoutItem i).letIn c t1).1 with mesh := s.mesh }))))
  ∧ (∀ i x t d gs, s.Arrives i x → x.what = .tile t (some d) → s.devCore x.job x.dst = some c →
    s.discards x.job t.inst c = true → exec (.tileArrival i gs) s = .next ((s.withoutItem i).received x t.inst))
  ∧ (∀ i x t, s.Arrives i x → x.what = .tile t none → s.devCore x.job x.src = some c →
      ((s.core c).tile (handleIndex t.w2)).st ≠ .pending → t.dev.toNat = s.devnum →
      let tile := (s.core c).tile (handleIndex t.w2)
      let d := (s.core c).shipped (handleIndex t.w2)
      exec (.tileLastByteLeft i) s = .next { s.onCore c (fun k => (k.touchWith tile s.clock).releaseHandle x.src x.job t.w2) with
        mesh := setAt s.mesh i { x with what := .tile { t with poison := t.poison || d.poison } (some d) } })
  ∧ (∀ i, ((s.core c).tile i).st ≠ .freeing → exec (.tileFree c i) s = .next (s.onCore c Core.replaceBanks))
  ∧ (∀ i, ((s.core c).tile i).st = .freeing → s.tileIdle c i = true →
      exec (.tileFree c i) s = .next ((s.freeEntryNow c i).onCore c Core.replaceBanks))

/-- TILE_OP_START and TILE_OP_DONE: a request of the tile unit that may start touches its operands' banks and forms its result in the
tiles it is granted; one that has started answers, and releases its operands; a format that proof service has not poisons the
result. -/
def Obligations.TileUnitEvents : Prop := ∀ (s : State) (c rid : Nat) (q : TileReq), s.hkc.main = true →
  ((s.core c).tileReqs.find? (fun q => q.req.id == rid && !q.started) = some q → s.mayStart c q.req = true →
    let begun (k1 : Core) (made : List Nat) (value : W64) (poison : Bool) : State :=
      s.setCore c { k1 with tileReqs := k1.tileReqs.map (fun x =>
        if x.req.id = rid then { x with started := true, made := made, value := value, poison := poison } else x) }
    let rest (gs : List TileGrant) (t : State) : State := (t.startAdd c rid gs).startMemTile c rid gs
    (∀ w gs, q.req.instr = .tdesc w → exec (.tileOpStart c rid gs) s = .next (rest gs (begun (s.core c) [] q.value false)))
    ∧ (∀ w gs k1 made, q.req.instr = .talloc w →
      (s.core c).makeAll s.clock q.req.job q.req.inst .empty ((s.core c).asks q.req) gs = some (k1, made) →
      exec (.tileOpStart c rid gs) s = .next (rest gs (begun k1 made 0 false)))
    ∧ (∀ w g, q.req.instr = .tview w → g.index < 4096 → ((s.core c).tile g.index).st = .free →
        exec (.tileOpStart c rid [g]) s = .next (rest [g] (begun ((s.core c).makeView q.req g.index) [g.index] 0
          ((s.core c).spoils q.req.a))))
    ∧ (∀ gs k1 made, formsBytes q.req.instr = true →
        (s.core c).makeAll s.clock q.req.job q.req.inst .pending ((s.core c).asks q.req) gs = some (k1, made) →
        let touched := k1.touchOperands q.req s.clock
        exec (.tileOpStart c rid gs) s = .next (rest gs (begun (touched.performTile q.req made).1 made
          (touched.performTile q.req made).2.1 (touched.performTile q.req made).2.2))))
  ∧ (∀ rest u limited, takeFirst (fun q => q.req.id == rid && q.started) (s.core c).tileReqs = some (q, rest) →
    (s.setCore c { s.core c with tileReqs := rest }).serviceCheck c q.req = (u, limited) →
    (∀ w, q.req.instr = .tdesc w → exec (.tileOpDone c rid) s
      = .next (((u.onCore c (fun k => k.releaseOperands q.req [])).answer q.req 1 q.value limited).doneAdd c rid))
    ∧ (∀ w, q.req.instr = .tget w → exec (.tileOpDone c rid) s
        = .next (((u.onCore c (fun k => k.releaseOperands q.req [])).answer q.req q.req.scalarType q.value (q.poison || limited)).doneAdd c rid))
    ∧ ((∀ w, q.req.instr ≠ .tdesc w) → (∀ w, q.req.instr ≠ .tget w) → q.req.target = none →
        exec (.tileOpDone c rid) s = .next ((u.finishNew c q.req q.made limited).doneAdd c rid))
    ∧ (∀ h, (∀ w, q.req.instr ≠ .tdesc w) → (∀ w, q.req.instr ≠ .tget w) → q.req.target = some h →
        let v := if limited then u.onCore c (fun k => k.onTile (handleIndex h) (fun t => { t with poison := true })) else u
        exec (.tileOpDone c rid) s = .next ((v.finishInPlace c q.req h (v.tileOf c h).poison).doneAdd c rid)))

/-- MMA_START and MMA_DONE: a matrix request that may start takes its tiles and touches its operands' banks; of those that have started the
one that started first writes the codes of its result, from where its accumulator last stood, poisoned where an operand was, a residue did
not agree, or proof service does not allow a format, and answers as the array's next answer (R164); neither happens for a halted job (R117). -/
def Obligations.MatrixEvents : Prop := ∀ (s : State) (c rid : Nat) (q : TileReq), s.hkc.main = true →
  (∀ gs k1 made, (s.core c).mmaReqs.find? (fun q => q.req.id == rid && !q.started) = some q →
    (s.job q.req.job).halted = false → s.mmaMayStart c q.req = true →
    (s.core c).makeAll s.clock q.req.job q.req.inst .pending ((s.core c).mmaAsks q.req) gs = some (k1, made) →
    exec (.mmaStart c rid gs) s = .next (({ s with nextId := s.nextId + 1 } : State).setCore c
      (let k2 := k1.touchOperands q.req s.clock
      { k2 with mmaReqs := k2.mmaReqs.map (fun x =>
          if x.req.id = rid then { x with started := true, made := made, turn := s.nextId } else x) })))
  ∧ (∀ rest h t0 u limited (ok : Bool), takeFirst (fun q => q.req.id == rid && q.started) (s.core c).mmaReqs = some (q, rest) →
    (s.job q.req.job).halted = false →
    (∀ x ∈ (s.core c).mmaReqs, x.started = true → x.turn < q.turn → (s.job x.req.job).halted = true) →
    h = q.req.target.getD ((s.core c).handle q.req.core (q.made.headD 0)) →
    t0 = ((s.setCore c { s.core c with mmaReqs := rest }).progress q.req.job q.req.inst).sparseMeta c q.req h →
    (if ok then t0 else t0.residueBad c).serviceCheck c q.req = (u, limited) →
    let poison := (s.core c).mmaPoison q.req || limited || !ok
    let t := u.onCore c (fun k => ((k.touchTile (k.opTile h) s.clock).putCodes (k.opTile h) ((s.core c).mmaFinish q)).onTile
      (handleIndex h) (fun t => { t with poison := poison }))
    exec (.mmaDone c rid ok) s = .next (if q.req.target.isSome then t.finishInPlace c q.req h poison arraySrc
      else t.finishNew c q.req q.made false arraySrc))
  ∧ (∀ gs, (s.core c).mmaReqs.find? (fun q => q.req.id == rid && !q.started) = some q → (s.job q.req.job).halted = true →
      exec (.mmaStart c rid gs) s = .next s)
  ∧ (∀ rest ok, takeFirst (fun q => q.req.id == rid && q.started) (s.core c).mmaReqs = some (q, rest) →
      ((s.job q.req.job).halted = true ∨
        ∃ x ∈ (s.core c).mmaReqs, x.started = true ∧ x.turn < q.turn ∧ (s.job x.req.job).halted = false) →
      exec (.mmaDone c rid ok) s = .next s)

/-- BANK_SAFELIGHT, BANK_WAKE and ECC_ERROR: a group of LIT banks without an access or an issue for 4,096 clocks sleeps, and one that a
request asks for wakes; a corrected error is counted, and an uncorrectable one is counted and marks what it struck. That a group's
banks pass their states together is R153. -/
def Obligations.BankAndErrorEvents : Prop := ∀ (s : State) (c : Nat), s.hkc.main = true →
  (∀ bank, (∀ b ∈ groupBanks bank, (Table.getD (s.core c).banks b {}).st = .lit
        ∧ (Table.getD (s.core c).banks b {}).last + 4096 ≤ s.clock) → (s.core c).lastIssue + 4096 ≤ s.clock →
      exec (.bankSafelight c bank) s = .next (s.setCore c { s.core c with
        banks := (groupBanks bank).foldl (fun m b => Table.put m b { Table.getD m b {} with st := .safelight }) (s.core c).banks }))
  ∧ (∀ bank, (Table.getD (s.core c).banks bank {}).st = .safelight → exec (.bankWake c bank) s
      = .next (s.onCore c (fun k => k.lightBanks (groupBanks bank) s.clock)))
  ∧ (∀ bank, (Table.getD (s.core c).banks bank {}).st ≠ .safelight → exec (.bankWake c bank) s = .next s)
  ∧ (∀ place, exec (.eccError c place true) s = .next (s.corrected c))
  ∧ (∀ n, exec (.eccError c (.frameSlot n) false) s
      = .next ((s.setCore c { s.core c with badSlots := n :: (s.core c).badSlots }).uncorrectable c true))
  ∧ (∀ b i, exec (.eccError c (.instructionWord b i) false) s
      = .next ((s.setCore c { s.core c with badWords := (b, i) :: (s.core c).badWords }).uncorrectable c true))
  ∧ (∀ u, ∃ k : Core, exec (.eccError c (.tileUnit u) false) s = .next ((s.setCore c k).uncorrectable c false)
      ∧ (bankAt (64 * u)).1 ∈ k.failing
      ∧ k.tiles = (((s.core c).tilesOver u).foldl (fun k i => k.onTile i (fun t => { t with poison := true })) (s.core c)).tiles)
  ∧ (∀ i, ((s.core c).tile i).st ≠ .free → exec (.eccError c (.tileEntry i) false) s
      = .next ((s.uncorrectable c false).cancelJob ((s.core c).tile i).job 5 2))
  ∧ (∀ j, exec (.eccError c (.counts j) false) s = .next ((s.uncorrectable c false).cancelJob j 5 2))
  ∧ (∀ p t, (s.core c).buffer[p]? = some t → exec (.eccError c (.tokenEntry p true) false) s
      = .next ((s.uncorrectable c false).cancelJob t.job.toNat 5 1))
  ∧ (∀ p t, (s.core c).buffer[p]? = some t → exec (.eccError c (.tokenEntry p false) false) s
      = .next ((s.uncorrectable c false).onCore c (fun k => { k with buffer := setAt k.buffer p { t with poison := true } })))

/-! ## Memory (chapters 04 and 08) -/

/-- MEMORY_PERFORM and HOST_RESPONSE: an element that its order lets go on is performed at its home: HBM is read and written at
once, a store to a write-combining page is taken by the combiner whatever its home, a WATCH arrives at its controller, and the host
and other devices are asked; an address that names nothing refuses it. The host's answer performs an access to its memory, at the
address that the translation gave when it was sent (R88). -/
def Obligations.ElementsPerformed : Prop := ∀ (s : State) (rid n c : Nat) (m : MemReq) (e : Elem) (p : TlbEntry),
  (s.Performs rid n c m e p → m.req.acc = .write → bits p.leaf 2 2 = 1 → ∀ ecc u taken,
      (∀ a, homeOf s.devnum (p.at e.va) = .hbm a ∨ homeOf s.devnum (p.at e.va) = .host a →
        s.combine c m.req (storageOf s.devnum (p.at e.va)) e.data = (u, taken) →
        exec (.memoryPerform rid n ecc) s = .next (if taken then u.elemDone c m.req.id n .done else u))
      ∧ (∀ dev a, homeOf s.devnum (p.at e.va) = .fabric dev a → a < hbmBytes →
        s.combine c m.req (storageOf s.devnum (p.at e.va)) e.data = (u, taken) →
        exec (.memoryPerform rid n ecc) s = .next (if taken then u.elemDone c m.req.id n .done else u)))
  ∧ (s.Performs rid n c m e p → (m.req.acc ≠ .write ∨ bits p.leaf 2 2 ≠ 1) →
    (∀ a u bs ecc, homeOf s.devnum (p.at e.va) = .hbm a → m.req.acc = .write → s.devWrite (some m.req.job) a e.data = (u, .data bs) →
        exec (.memoryPerform rid n ecc) s = .next (u.elemDone c m.req.id n .done))
    ∧ (∀ a u bs, homeOf s.devnum (p.at e.va) = .hbm a → m.req.acc = .read → (∀ w, m.req.instr ≠ .watch w) →
        s.devRead (some m.req.job) a e.len = (u, .data bs) →
        exec (.memoryPerform rid n .clean) s = .next (u.elemDone c m.req.id n (.bytes bs)))
    ∧ (∀ a w, homeOf s.devnum (p.at e.va) = .hbm a → m.req.acc = .read → m.req.instr = .watch w →
        exec (.memoryPerform rid n .clean) s = .next (s.watchAt c m.req.id (some m.req.job) a (some p)))
    ∧ (∀ a u g, homeOf s.devnum (p.at e.va) = .hbm a → m.req.acc = .atomic →
        s.atomicAt (some m.req.job) a m.req.bytes m.req.m.aop.toNat m.req.vty (operandIn m.req.vty m.req.b) (operandIn m.req.vty m.req.d) = (u, g) →
        exec (.memoryPerform rid n .clean) s = .next (u.elemDone c m.req.id n g))
    ∧ (∀ dev a ecc, homeOf s.devnum (p.at e.va) = .fabric dev a → exec (.memoryPerform rid n ecc) s
        = .next ((s.sendElem m.req.id n p).1.sendRec (dieOf c) 2 (m.req.record s dev a (s.sendElem m.req.id n p).2 e)))
    ∧ (∀ a ecc, homeOf s.devnum (p.at e.va) = .host a → s.spanPasses a e.len = true →
        exec (.memoryPerform rid n ecc) s = .next (s.sendElem m.req.id n p).1)
    ∧ (∀ ecc, homeOf s.devnum (p.at e.va) = .hole → exec (.memoryPerform rid n ecc) s
        = .next ((s.permFault (loadPort s c m.req) e.va m.req.acc (p.denies 6)).elemDone c m.req.id n .refused)))
  ∧ (∀ id a, s.hkc.main = true → s.memReqs.find? (fun m => m.req.id == rid) = some m → s.devCore m.req.job m.req.core = some c →
      m.elems[n]? = some e → e.st = .away id → e.page = some p → homeOf s.devnum (p.at e.va) = .host a → s.spanPasses a e.len = true →
      exec (.hostResponse rid n false) s = .next (s.elemDone c rid n .refused)
      ∧ (m.req.acc = .write → exec (.hostResponse rid n true) s = .next ((s.hostWrite a e.data).elemDone c rid n .done))
      ∧ (m.req.acc = .read → exec (.hostResponse rid n true) s = .next (s.elemDone c rid n (.bytes (s.hostRead a e.len))))
      ∧ (m.req.acc = .atomic →
        let old := leNat (s.hostRead a m.req.bytes)
        let new := atomicNew m.req.m.aop.toNat m.req.bytes m.req.vty old (operandIn m.req.vty m.req.b % 2 ^ (8 * m.req.bytes))
          (operandIn m.req.vty m.req.d % 2 ^ (8 * m.req.bytes))
        exec (.hostResponse rid n true) s
          = .next ((s.hostWrite a (natLe m.req.bytes new)).elemDone c rid n (.value old))))

/-- PAGE_WALK, WATCH_TIMEOUT and WC_ENTRY_WRITE: a walk reaches the rooms of its tables, and fills the translation buffers, freezes the
load slot of a page that is not present, or refuses the element; a WATCH whose time is over is performed as a load; an entry of the
combiner for HBM, or for the host where a port passes it, is written to its home and gone, and one for another device is asked for
there, in runs of neighbouring bytes, and stays marked as sent: the model's reading (log entry 53). -/
def Obligations.WalksAndTimeouts : Prop := ∀ (s : State) (rid n c : Nat) (m : MemReq) (e : Elem), s.hkc.main = true →
  (s.memReqs.find? (fun m => m.req.id == rid) = some m → s.devCore m.req.job m.req.core = some c →
    s.elemTurn c m n = some e → s.tlbFind c m.req.job e.va = none →
    let t := s.touchTables m.req.job e.va
    (∀ p, t.walk m.req.job e.va = .ok p → exec (.pageWalk rid n) s = .next (t.fillTlbs c p))
    ∧ (∀ f u id, t.walk m.req.job e.va = .error f → f.kind = 0 →
        t.absentFault (loadPort t c m.req) m.req.inst (.load rid n) e.va m.req.acc f = (u, id) →
        exec (.pageWalk rid n) s = .next (u.onElem rid n (fun x => { x with st := .frozen id })))
    ∧ (∀ f, t.walk m.req.job e.va = .error f → f.kind ≠ 0 → exec (.pageWalk rid n) s
        = .next ((t.permFault (loadPort t c m.req) e.va m.req.acc f).elemDone c m.req.id n .refused)))
  ∧ (∀ t w u bs, s.memReqs.find? (fun m => m.req.id == rid) = some m → m.since = some t → m.elems = [e] → m.req.instr = .watch w →
      m.req.d ≠ 0 → t + m.req.d.toNat ≤ s.time.toNat → s.devCore m.req.job m.req.core = some c →
      (m.begun = true → exec (.watchTimeout rid) s = .next (s.elemDone c rid 0 (.value m.val)))
      ∧ (m.begun = false → m.req.job < 4096 → s.devRead (some m.req.job) e.dest m.req.bytes = (u, .data bs) →
          exec (.watchTimeout rid) s = .next (u.elemDone c rid 0 (.value (leNat bs)))))
  ∧ (∀ die i x, (Table.getD s.wc die [])[i]? = some x →
    let gone (u : State) : State := { u with wc := Table.put u.wc die ((Table.getD u.wc die []).filter (· != x)) }
    (∀ a, homeOf s.devnum (x.unit * 64) = .hbm a → exec (.wcEntryWrite die i) s = .next (gone (s.writeUnit x a)))
    ∧ (∀ a, homeOf s.devnum (x.unit * 64) = .host a → s.spanPasses a 64 = true → exec (.wcEntryWrite die i) s
        = .next (gone (x.bytes.foldl (fun t b => t.hostWrite (a + b.1) [b.2]) s)))
    ∧ (∀ dev a, homeOf s.devnum (x.unit * 64) = .fabric dev a →
        (∀ y ∈ Table.getD s.wc die [], y.sent = true → y.job = x.job → y.unit ≠ x.unit) →
        exec (.wcEntryWrite die i) s = .next ((runsOf x.bytes).foldl (fun t run =>
          (t.askFabric (wcOwner die x.job x.unit) die x.job (x.unit * 64 + run.1) dev (a + run.1) run.2.length (some run.2) false).1)
          { s with wc := Table.put s.wc die ((Table.getD s.wc die []).map (fun y => if y == x then { y with sent := true } else y)) })))

/-- WALKER_ELEMENT, COPY_REQUEST and FAULT_RECORD_WRITE: the walker begins the WGO at the head of its queue, applies a WPAR, ends
an empty round, handles the next point of its shape, or performs units of its round and of its group table by themselves, and one that
WSTOP has stopped waits for its writes to other devices and is free; the copy engine performs the request at the head of its queue as
far as it goes, once the writes of earlier ones are performed, and while a PREF of its die waits, none; a buffered fault record is written to
its job's ring, and FAULT is raised, or it is lost and counted. -/
def Obligations.EngineEvents : Prop := ∀ (s : State) (c w : Nat) (gs : List TileGrant), s.hkc.main = true →
  (∀ x, (s.core c).walker w = x → s.engineRuns x.job = true → x.claimed = true → x.frozen = none → x.stopping = none →
    (∀ r rest m, x.running = false → x.queue = r :: rest → r.instr = .wgo m →
      exec (.walkerElement c w { grant := gs }) s = .next (s.beginRound c w r))
    ∧ (∀ r rest m, x.running = false → x.queue = r :: rest → r.instr = .wpar m →
        exec (.walkerElement c w { grant := gs }) s = .next ((s.onWalker c w (fun y => { y with queue := rest })).applyWpar c w r))
    ∧ (x.running = true → x.shape.total = 0 → exec (.walkerElement c w { grant := gs }) s = .next (s.emptyRound c w))
    ∧ (x.running = true → x.shape.total ≠ 0 → (x.shape.kind ≠ 2 ∨ x.entry ≠ [] ∨ x.entryBad = true) →
        exec (.walkerElement c w { grant := gs }) s = .next (if x.shape.store then s.storePoint c w else s.loadPoint c w gs))
    ∧ (∀ us es, (us ≠ [] ∨ es ≠ []) → x.running = true → x.shape.total ≠ 0 → x.shape.store = false →
        exec (.walkerElement c w { grant := gs, units := us, entries := es }) s
          = .next (us.foldl (fun t u => t.walkerEarly c w none u.1 u.2) (es.foldl (fun t u => t.entryEarly c w u.1 u.2) s))))
  ∧ (∀ x r, (s.core c).walker w = x → s.engineRuns x.job = true → x.claimed = true → x.stopping = some r →
    (s.walkerWrites c w = true → exec (.walkerElement c w { grant := gs }) s = .next s)
    ∧ (s.walkerWrites c w = false → exec (.walkerElement c w { grant := gs }) s = .next (s.finishStop c w x r)))
  ∧ (∀ die j q, s.engineRuns j = true → s.prefWaits die = true → ∀ us, exec (.copyRequest die j { queue := q, units := us }) s = .next s)
  ∧ (∀ die j q x b y t z, s.engineRuns j = true → s.prefWaits die = false →
      s.copies.find? (fun x => x.die == die && x.req.job == j && x.queue == q) = some x → x.frozen = none → x.bytes = some b →
      s.copyOut die j q = false →
      s.checkCopy x = .go s y → s.copyUnits y (y.nrow * y.units) = .go t z →
      exec (.copyRequest die j { queue := q }) s = .next (s.copyStep die j q)
      ∧ s.copyHead die j q = (t.markCopied z).stampCopy { z with marks := [] })
  ∧ (∀ die r rest, Table.getD s.faultBuf die [] = r :: rest → (s.job? r.job).isSome = true →
    let without (t : State) : State :=
      { t with faultBuf := Table.put t.faultBuf die ((Table.getD t.faultBuf die []).filter (fun q => q.id != r.id)) }
    (∀ t slot, s.putFault r = .written t slot →
      exec (.faultRecordWrite die) s = .next ((without t).faultEvent r.job r.id slot r.kind))
    ∧ (∀ t, s.putFault r = .lost t → exec (.faultRecordWrite die) s = .next ((without t).loseFault r.job r.id r.kind))
    ∧ (∀ t, rest = [] → s.putFault r = .waits t → exec (.faultRecordWrite die) s = .next t))

/-- FLOOR_LIT, BACKGROUND_ZERO, PATROL_SCRUB, ROOM_SAFELIGHT and ROOM_WAKE: a ZEROING floor of a LIT room becomes LIT, the floors of one
command in ascending order, and what waited for it goes on; a region of a LIT floor that has not been written is zeroed once; the
scrubber counts what it corrects, and counts and poisons the bad units of the floor that can have any; a LIT room that no running job
exposes and that has been idle for 100 µs sleeps, with its LIT floors, its bytes kept; a room that wakes is LIT, and the exposures
that waited for it are answered. Each leaves a floor or a room that is not in that state as it is. -/
def Obligations.FloorAndRoomEvents : Prop := ∀ (s : State) (room floor : Nat), s.hkc.main = true → room < 8 → floor < 16 →
  let f := 16 * room + floor
  ((s.floor f).st = .zeroing → (s.room room).lit = true →
    s.begunWhere (fun c => c.op == 0x0D && c.floors.contains f
      && c.floors.any (fun g => decide (g < f) && (s.floor g).st == .zeroing)) = [] →
    exec (.floorLit room floor) s = .next
      (({ s with floors := Table.modify s.floors f {} (fun x => { x with st := .lit }) } : State).finishAllocs).releaseDark)
  ∧ ((s.floor f).st ≠ .zeroing → exec (.floorLit room floor) s = .next s)
  ∧ (∀ region, (s.floor f).st = .lit → region < 65536 → (s.floor f).cleared.contains region = false →
      exec (.backgroundZero room floor region) s = .next { s with floors := Table.put s.floors f { s.floor f with
        cleared := (s.floor f).cleared ++ [region] } })
  ∧ (∀ region, ((s.floor f).st ≠ .lit ∨ 65536 ≤ region ∨ (s.floor f).cleared.contains region = true) →
      exec (.backgroundZero room floor region) s = .next s)
  ∧ (∀ corrected bad, (s.floor f).st.open = true →
      let us := (bad.filter (fun u => floorOf (64 * u) == f && !s.cleanRegion (64 * u))).eraseDups
      ∃ t, t = s.onEcnt (80 + room) (fun e => { e with corr := (e.corr + corrected) % 2 ^ 32, uncorr := min (e.uncorr + us.length) 0xFFFF })
        ∧ exec (.patrolScrub room floor corrected bad) s = .next { t with
            poison := t.poison ++ us.filter (fun u => !t.poison.contains u)
            hkc := { t.hkc with defects := { t.hkc.defects with
              rows := t.hkc.defects.rows ++ us.filter (fun u => !t.hkc.defects.rows.contains u) } } })
  ∧ (∀ corrected bad, (s.floor f).st.open = false → exec (.patrolScrub room floor corrected bad) s = .next s)
  ∧ ((s.room room).lit = true → s.covered room = false → (s.room room).last + s.idleClocks ≤ s.clock →
      (∀ q < 16, (s.queue q).cur = none) → exec (.roomSafelight room) s = .next { s with
        rooms := Table.put s.rooms room { s.room room with lit := false }
        floors := s.floors.map (fun (k, g) => if k / 16 = room && g.st == .lit then (k, { g with st := .safelight }) else (k, g)) })
  ∧ (((s.room room).lit = false ∨ s.covered room = true ∨ s.clock < (s.room room).last + s.idleClocks) →
      exec (.roomSafelight room) s = .next s)
  ∧ ((s.room room).waking = true → exec (.roomWake room) s = .next ((s.lightRoom room).answerExpos))
  ∧ ((s.room room).waking = false → exec (.roomWake room) s = .next s.answerExpos)

/-- CXL_MEM_READ and CXL_MEM_WRITE: the port that decodes the room serves the 64-byte unit of a read; a write stores its bytes
within one unit, and its completion carries no data. -/
def Obligations.HostAccesses : Prop := ∀ (s : State) (pa : Nat), s.hkc.main = true → pa < hbmBytes → s.portServes (roomOf pa) = true →
  (∀ u bs, s.devRead none (pa / 64 * 64) 64 = (u, .data bs) →
    exec (.cxlMemRead pa .clean) s = .next (u.answerHost { pa := pa / 64 * 64, data := bs, poison := false }))
  ∧ (∀ u, s.devRead none (pa / 64 * 64) 64 = (u, .poison) → ∃ t data, exec (.cxlMemRead pa .clean) s
      = .next (t.answerHost { pa := pa / 64 * 64, data := data, poison := true }) ∧ t = (u.drawMany 64).1 ∧ data.length = 64)
  ∧ (∀ data, data ≠ [] → pa % 64 + data.length ≤ 64 → exec (.cxlMemWrite pa data .clean) s
      = .next ((s.devWrite none pa data).1.answerHost { pa := pa, data := [], poison := false }))

/-- READ_REQUEST, WRITE_REQUEST, ATOMIC_REQUEST, WATCH_REQUEST and RESPONSE: a request that names no memory is answered with status
2; one to a DARK or ZEROING floor, whose room it reaches all the same, or whose units are poisoned, with status 1; any other with status 0 and its data, a write that
carries POISON marking its units, and a WATCH once it is performed. A response reaches the element, or the agent, that asked. The
order of a remote minimum or maximum is free (log entry 54). -/
def Obligations.RemoteAccesses : Prop := ∀ (s : State) (i : Nat) (r : LinkRec),
  let pa := recNat r.body 0 8
  let u := s.withoutRec i
  (∀ t, (s.targetAt pa = .error ∧ t = u.replyTo r pa 2 [] ∨ s.targetAt pa = .dark ∧ t = (u.touchRoom none (roomOf pa) 0).replyTo r pa 1 []) →
    (s.Delivers i 2 r → exec (.readRequest i) s = .next t) ∧ (s.Delivers i 3 r → exec (.writeRequest i) s = .next t)
    ∧ (s.Delivers i 4 r → exec (.atomicRequest i) s = .next t) ∧ (s.Delivers i 5 r → exec (.watchRequest i) s = .next t))
  ∧ (s.Delivers i 2 r → s.targetAt pa = .memory → ∀ t g, u.hbmRead none pa (recNat r.body 8 4) = (t, g) →
    (∀ bs, g = .data bs → exec (.readRequest i) s = .next (t.replyTo r pa 0 bs))
    ∧ ((∀ bs, g ≠ .data bs) → exec (.readRequest i) s = .next (t.replyTo r pa 1 [])))
  ∧ (s.Delivers i 3 r → s.targetAt pa = .memory → r.poison = false →
    ∀ t g, u.hbmWrite none pa ((r.body.drop 16).take (recNat r.body 8 4)) = (t, g) →
    (∀ bs, g = .data bs → exec (.writeRequest i) s = .next (t.replyTo r pa 0 []))
    ∧ ((∀ bs, g ≠ .data bs) → exec (.writeRequest i) s = .next (t.replyTo r pa 1 [])))
  ∧ (s.Delivers i 3 r → s.targetAt pa = .memory → r.poison = true →
    let t := (u.touchRoom none (roomOf pa) (recNat r.body 8 4)).clearRegions none pa (recNat r.body 8 4)
    exec (.writeRequest i) s = .next (({ t with
      poison := t.poison ++ (unitsOf pa (recNat r.body 8 4)).filter (fun x => !t.poison.contains x) } : State).replyTo r pa 0 []))
  ∧ (s.Delivers i 4 r → s.targetAt pa = .memory → ∀ t g, u.atomicAt none pa (2 ^ recNat r.body 8 1) (recNat r.body 9 1)
      (if Config.freeSigned r.rid r.src then .s64 else .z64) (recNat r.body 16 8) (recNat r.body 24 8) = (t, g) →
    (∀ old, g = .value old → exec (.atomicRequest i) s = .next (t.replyTo r pa 0 (natLe (2 ^ recNat r.body 8 1) old)))
    ∧ ((∀ old, g ≠ .value old) → exec (.atomicRequest i) s = .next (t.replyTo r pa 1 [])))
  ∧ (s.Delivers i 5 r → s.targetAt pa = .memory → exec (.watchRequest i) s
      = .next (({ u with nextId := s.nextId + 1, memReqs := s.memReqs ++ [r.watchReq s.nextId] } : State).watchAt 0 s.nextId
          none pa none))
  ∧ (s.Delivers i 6 r →
    (∀ m n, s.awayElem r.rid = some (m, n) → exec (.response i) s
      = .next (u.elemResponse m n r.rid r.src (recNat r.body 0 1) (r.body.drop 8)))
    ∧ (s.awayElem r.rid = none → exec (.response i) s
        = .next ((u.fabricAnswer r.rid (recNat r.body 0 1) (r.body.drop 8)).answered r)))

/-! ## Records of the routing engines and of the scheduler (chapters 05 and 07) -/

/-- SELECTION_RECORD, END_MARK, SLOT_RETURN, COUNTS, ROW, ROW_ACKNOWLEDGEMENT, FINAL_MARK, OUTPUT_ROW_READ, OUTPUT_ROW_DATA,
RELEASE_MARK and TILE_TRANSFER: each record of a job that is here is handed to the work that its kind feeds, and the engines go on;
one of a job that is not is discarded; a tile enters the mesh. That the engine of compute die 0 serves OUTPUT_ROW_READ is the model's reading
(log entry 45). -/
def Obligations.RoutingRecords : Prop := ∀ (s : State) (i : Nat) (r : LinkRec),
  let u := s.withoutRec i
  (∀ x, s.job? r.job = some x → x.ended = false →
    (s.Delivers i 7 r → exec (.selectionRecord i) s = .next ((u.pushRoute (u.recordDie r) r.job (some r.rid) (.record r)).routeRun))
    ∧ (s.Delivers i 8 r → exec (.endMark i) s = .next ((u.pushRoute (u.recordDie r) r.job (some r.rid) (.record r)).routeRun))
    ∧ (s.Delivers i 9 r → exec (.slotReturn i) s = .next ((u.takeReturn r).routeRun))
    ∧ (s.Delivers i 0xA r → exec (.counts i) s = .next ((u.takeCounts r).routeRun))
    ∧ (s.Delivers i 0xB r → exec (.row i) s = .next ((u.pushRoute (u.recordDie r) r.job (some r.rid) (.record r)).routeRun))
    ∧ (s.Delivers i 0xC r → exec (.rowAcknowledgement i) s = .next ((u.takeAck r).routeRun))
    ∧ (s.Delivers i 0xD r → exec (.finalMark i) s = .next ((u.takeFinal r).routeRun))
    ∧ (s.Delivers i 0xE r → exec (.outputRowRead i) s = .next ((u.pushRoute 0 r.job none (.record r)).routeRun))
    ∧ (s.Delivers i 0xF r → exec (.outputRowData i) s
        = .next ((u.fabricAnswer r.rid (recNat r.body 0 1) (r.body.drop 8)).routeRun))
    ∧ (s.Delivers i 0x10 r → exec (.releaseMark i) s = .next ((u.takeRelease r).routeRun)))
  ∧ (s.job? r.job = none →
    (s.Delivers i 7 r → exec (.selectionRecord i) s = .next u) ∧ (s.Delivers i 8 r → exec (.endMark i) s = .next u)
    ∧ (s.Delivers i 9 r → exec (.slotReturn i) s = .next u) ∧ (s.Delivers i 0xA r → exec (.counts i) s = .next u)
    ∧ (s.Delivers i 0xB r → exec (.row i) s = .next u) ∧ (s.Delivers i 0xC r → exec (.rowAcknowledgement i) s = .next u)
    ∧ (s.Delivers i 0xD r → exec (.finalMark i) s = .next u) ∧ (s.Delivers i 0xE r → exec (.outputRowRead i) s = .next u)
    ∧ (s.Delivers i 0xF r → exec (.outputRowData i) s = .next u) ∧ (s.Delivers i 0x10 r → exec (.releaseMark i) s = .next u))
  ∧ (s.Delivers i 1 r → exec (.tileTransfer i) s = .next (u.enterFrom r.io r.shipment.1 (.tile r.shipment.1 (some r.shipment.2))))

/-- READY_MARK, COUNT_TOTALS, CANCEL_MARK and CURTAIN: a peer's slot and its totals are kept with the part, a part's new first
collection discards its own second one and that of this device, which is the model's reading (log entry 70), a cancel mark cancels the part; a curtain of the halt under way is counted once, and an
I/O die that has counted all that are due to it passes one on over its links. -/
def Obligations.MarksAndCurtains : Prop := ∀ (s : State) (i : Nat),
  (∀ r n v, s.Marks i 0x11 r n v → exec (.readyMark i) s = .next ((s.withoutRec i).onInst r.job n (fun v =>
    { v with ready := Table.put v.ready r.src (recNat r.body 4 1) })))
  ∧ (∀ r n v, s.Marks i 0x12 r n v →
    (recNat r.body 4 1 = 1 → exec (.countTotals i) s = .next ((s.withoutRec i).onInst r.job n (fun v => { v with
      totals := Table.put (Table.del (Table.del v.totals (totalsKey r.src 2)) (totalsKey s.devnum 2)) (totalsKey r.src 1)
        (recNat r.body 8 8, recNat r.body 16 4, recNat r.body 20 4) })))
    ∧ (recNat r.body 4 1 ≠ 1 → exec (.countTotals i) s = .next ((s.withoutRec i).onInst r.job n (fun v => { v with
        totals := Table.put v.totals (totalsKey r.src (recNat r.body 4 1)) (recNat r.body 8 8, recNat r.body 16 4, recNat r.body 20 4) }))))
  ∧ (∀ r n v, s.Marks i 0x13 r n v → exec (.cancelMark i) s = .next (((s.withoutRec i).cancelInst r.job n).settle r.job settleBound))
  ∧ (∀ x t, s.Arrives i x → x.what = .curtain t →
    let u := s.withoutItem i
    let y := s.job x.job
    let counts : Prop := y.st = .preempting ∧ t.tag = y.halt ∧ y.curtains.contains (t.curtainKey x.dst) = false
    let counted := u.onJob x.job (fun y => { y with curtains := y.curtains ++ [t.curtainKey x.dst] })
    (¬counts → exec (.curtain i) s = .next u)
    ∧ (counts → x.dst ≠ 64 → x.dst ≠ 65 → x.dst ≠ 128 → x.dst ≠ 129 → exec (.curtain i) s = .next counted)
    ∧ (counts → (x.dst = 64 ∨ x.dst = 65 ∨ x.dst = 128 ∨ x.dst = 129) →
      exec (.curtain i) s = .next (counted.passCurtains x.job (x.dst % 64) (t.curtainKey x.dst).2.2.1)))

/-- INSTANCE_COMPLETE_CHECK, PRIMED_TOKENS_PLACE, TICK_EDGE and QUIESCENCE_TIMEOUT: an instance that holds nothing and whose sent
and received counts agree has the stores that its job's combiner entries hold flushed, and ends once none is left; its primed tokens
are placed in their order; an edge of the tick sequence releases or finds unfinished the open ticked phase; a live instance
that has made no progress for 2^QWIN clocks is reported once. One collection stands for R98's two (log entry 84), and an edge is met by any
TICK_EDGE from its time on (log entry 69): the model's reading. -/
def Obligations.SchedulerEvents : Prop := ∀ (s : State) (j i : Nat) (x : Job), s.hkc.main = true → s.job? j = some x →
  (∀ v n, s.inst? j i = some v → x.halted = false → v.st = .live → v.marks = [] → x.fabricOf v = none → s.collect j i = (0, n, n) →
    let mine := fun (e : WcEntry) => e.job == j
    exec (.instanceCompleteCheck j i) s = .next (
      if (s.flushWhere mine).wcHolds mine then s.flushWhere mine
      else ((s.flushWhere mine).endInst j i v.endStatus).settle j settleBound))
  ∧ (∀ v h a b, s.inst? j i = some v → x.fabricOf v = none → s.collect j i = (h, a, b) → (h ≠ 0 ∨ a ≠ b) →
      exec (.instanceCompleteCheck j i) s = .next s)
  ∧ (∀ v w g, s.inst? j i = some v → x.running = true → v.st = .live → v.primes ≠ [] → (s.giveRoots j i).inst? j i = some w →
      Table.find x.graphs v.graph = some g → g.fabric = none → (∀ r ∈ w.roots, r.base.isSome = true) →
      exec (.primedTokensPlace j i) s = .next ((w.primes.foldl (fun t p => t.placePrime j i x g w p) (s.giveRoots j i)).onInst j i
        (fun u => { u with primes := [] })))
  ∧ (x.period ≠ 0 → x.nextEdge ≤ s.time.toNat →
    let y := { x with nextEdge := x.nextEdge + x.period }
    (x.st ≠ .preempting → x.st ≠ .preempted → exec (.tickEdge j) s = .next ((s.setJob j y).applyEdge j x.nextEdge))
    ∧ (x.st = .preempting → exec (.tickEdge j) s = .next (s.setJob j { y with heldEdges := x.heldEdges ++ [x.nextEdge] }))
    ∧ (x.st = .preempted → exec (.tickEdge j) s = .next (s.setJob j { y with
        edgePassed := some x.nextEdge, ticks := x.ticks.map (tickPast x.nextEdge) })))
  ∧ ((x.period = 0 ∨ s.time.toNat < x.nextEdge) → exec (.tickEdge j) s = .next s)
  ∧ (∀ v, s.inst? j i = some v → v.st = .live → ((s.collect j i).1 ≠ 0 ∨ (s.collect j i).2.1 ≠ (s.collect j i).2.2) →
      s.timerStands j i x v = false → max v.progress v.reported + 2 ^ x.qwin ≤ s.clock →
      let va := x.reportVa + 32768 * (x.reportHalf % 2)
      let reported := (s.onJob j (fun y => { y with reportHalf := y.reportHalf + 1 })).onInst j i (fun w => { w with reported := s.clock })
      exec (.quiescenceTimeout j i) s = .next (reported.post j (s.report j i v)
        (some (va, natLe 4 (v.id i) ++ natLe 8 va ++ natLe 4 (s.report j i v).length))))
  ∧ (∀ v, s.inst? j i = some v → (s.timerStands j i x v = true ∨ s.clock < max v.progress v.reported + 2 ^ x.qwin) →
      exec (.quiescenceTimeout j i) s = .next s)

/-! ## Links (chapter 01) -/

/-- DATA_FLIT, IDLE_FLIT, RETRY_REQUEST, TIME_MARK and TIME_MARK_SEND: on a link that is up, a flit in sequence is delivered,
one that was delivered is discarded, a bad one and one after a gap ask for a replay, and from then on every flit is discarded
until the data flit comes that the replay begins with; `ACK` frees the replay buffer; the sender replays; the time master
sends marks, and others move their time to within 50 ns of the mark (log entry 12: where in that bound is free).
YILYEL_LANE_FAIL, LINK_UP and LANE_MAP: a lane in use that fails is replaced by the spare, or the link narrows to four
lanes, or it goes down; one that fails while the link is down is left out of the training; a link trains at the width its
lanes allow, with free initial credits (log entry 11); the peer's lane map is kept. -/
def Obligations.LinkEvents : Prop :=
  (∀ (s : State) (link : Nat) (bs : List Byte), s.hkc.main = true →
    (s.yilyel = true → link < 16 → (s.link link).up = true →
      (flitOf bs = none → ∀ i ∈ [Instr.dataFlit link bs, .idleFlit link bs, .retryRequest link bs, .timeMark link bs],
        exec i s = .next (s.flitError link))
      ∧ (∀ x, flitOf bs = some x →
        (x.ftype = 0 → x.seq = (s.link link).rxSeq → exec (.dataFlit link bs) s = .next (s.deliverFlit link x))
        ∧ (x.ftype = 0 → x.seq ≠ (s.link link).rxSeq → ((s.link link).rxSeq - x.seq).toNat ≤ 1024 → exec (.dataFlit link bs) s = .next s)
        ∧ (x.ftype = 0 → x.seq ≠ (s.link link).rxSeq → (s.link link).retrying = false → 1024 < ((s.link link).rxSeq - x.seq).toNat →
            exec (.dataFlit link bs) s = .next (s.flitError link))
        ∧ (x.ftype = 0 → x.seq ≠ (s.link link).rxSeq → (s.link link).retrying = true → exec (.dataFlit link bs) s = .next s)
        ∧ (∀ p ∈ [(1, Instr.idleFlit link bs), (2, .retryRequest link bs), (3, .timeMark link bs)],
            (x.ftype ≠ p.1 → exec p.2 s = .next s)
            ∧ (x.ftype = p.1 → (s.link link).retrying = true → exec p.2 s = .next s)
            ∧ (x.ftype = p.1 → (s.link link).retrying = false → x.plain = false → exec p.2 s = .next (s.flitError link)))
        ∧ ((s.link link).retrying = false → x.plain = true →
            (x.ftype = 1 → exec (.idleFlit link bs) s = .next (s.onLink link (fun l => l.acked x)))
            ∧ (x.ftype = 2 → exec (.retryRequest link bs) s = .next (s.onLink link (fun l => { l.acked x with
                wire := (l.acked x).wire ++ (l.acked x).replayFrom (BitVec.ofNat 12 (recNat x.payload 0 2)) })))
            ∧ (x.ftype = 3 → s.host.tmaster = true → exec (.timeMark link bs) s = .next (s.onLink link (fun l => l.acked x)))
            ∧ (x.ftype = 3 → s.host.tmaster = false → ∃ late f : Nat, late ≤ 50 ∧ f ≤ 50 ∧ exec (.timeMark link bs) s
                = .next { (s.onLink link (fun l => l.acked x)) with
                    time := BitVec.ofNat 64 (recNat x.payload 0 8 + Config.markTransit link (recNat x.payload 8 2) + 2 ^ 64 - late + f)
                    draws := s.draws + 1 }))))
    ∧ (s.yilyel = true → s.host.tmaster = true → exec .timeMarkSend s = .next { s with
        links := s.links.map (fun p => (p.1, if p.2.up then p.2.emit 3 6 0 (natLe 8 s.time.toNat ++ natLe 2 s.devnum) else p.2)) })
    ∧ ((s.yilyel = false ∨ s.host.tmaster = false) → exec .timeMarkSend s = .next s))
  ∧ (∀ (s : State) (link : Nat), s.hkc.main = true → s.yilyel = true → link < 16 →
    (∀ lane (trained : Bool) width, (s.link link).up = true → lane < 9 → (s.link link).failed.contains lane = false →
      (s.link link).lanes.contains lane = true → width = (if trained then min (s.link link).width (Link.widest ((s.link link).failed ++ [lane])) else 0) →
      let l : Link := { s.link link with
        failed := (s.link link).failed ++ [lane], width := width, retrains := (s.link link).retrains + 1, up := width != 0 }
      (width = 0 → exec (.yilyelLaneFail link lane trained) s = .next ((s.onLink link (fun _ => l)).linkEvent link 2 l.status))
      ∧ (width = 8 → exec (.yilyelLaneFail link lane trained) s
          = .next (((s.onLink link (fun _ => l)).linkEvent link 0 l.status).sendLaneMap link))
      ∧ (width = 4 → exec (.yilyelLaneFail link lane trained) s
          = .next (((s.onLink link (fun _ => l)).linkEvent link 1 l.status).sendLaneMap link)))
    ∧ (∀ lane trained, (s.link link).up = true → lane < 9 → (s.link link).failed.contains lane = false →
        (s.link link).lanes.contains lane = false →
        exec (.yilyelLaneFail link lane trained) s = .next (s.onLink link (fun l => { l with failed := (s.link link).failed ++ [lane] })))
    ∧ (∀ lane trained, (s.link link).up = false → lane < 9 → (s.link link).failed.contains lane = false →
        let l : Link := { s.link link with failed := (s.link link).failed ++ [lane], retrains := (s.link link).retrains + 1 }
        exec (.yilyelLaneFail link lane trained) s = .next ((s.onLink link (fun _ => l)).linkEvent link
          (if Link.widest l.failed = 8 then 0 else if Link.widest l.failed = 4 then 1 else 2) l.status))
    ∧ ((s.link link).up = false → Link.widest (s.link link).failed ≠ 0 → ∃ (u : State) (owed : Table Nat) (l : Link), u = (s.drawMany 7).1
        ∧ l = { s.link link with up := true, width := Link.widest (s.link link).failed, owed := owed }
        ∧ exec (.linkUp link) s = .next ((u.onLink link (fun _ => l.pump l.waiting.length)).linkEvent link 3 l.status))
    ∧ (∀ i r, s.Delivers i 0x15 r → exec (.laneMap i) s = .next ((s.withoutRec i).onLink (recNat r.body 0 1 % 16)
        (fun l => { l with peerLanes := BitVec.ofNat 16 (recNat r.body 1 2) }))))

/-- R99: an instance's end status is CANCELLED (2) if it was cancelled, else FAULT (3) if a firing of it trapped under POISON,
else POISONED (1) if its poison count is not zero, else DONE (0); its phase takes that status as it ends, and PHASE_END carries
the first of them that any instance of the phase holds, which is DONE without instances. -/
def Obligations.EndStatuses : Prop :=
  (∀ v : Instance,
    (v.cancelled = true → v.endStatus = 2)
    ∧ (v.cancelled = false → v.faulted = true → v.endStatus = 3)
    ∧ (v.cancelled = false → v.faulted = false → v.poison ≠ 0 → v.endStatus = 1)
    ∧ (v.cancelled = false → v.faulted = false → v.poison = 0 → v.endStatus = 0))
  ∧ (∀ (s : State) (j i st : Nat) (v : Instance), s.inst? j i = some v → v.st ≠ .ended → ∃ (u : State) (x : Job),
      s.endInst j i st = u.event 0x0001 j (natLe 4 (v.id i) ++ natLe 1 st ++ natLe 4 v.poison) ∧ u.job? j = some x
      ∧ ∀ p ∈ (s.job j).phases, p.id = v.phase → p.ended = false → { p with statuses := st :: p.statuses } ∈ x.phases)
  ∧ (∀ (s : State) (j : Nat) (x : Job) (p : Phase) (rest : List Phase), s.job? j = some x → x.ended = false → x.st ≠ .preempting →
      x.insts.find? (fun q => q.2.st == .waiting && q.2.preds.isEmpty) = none → x.open_ = p :: rest →
      p.cancelled = false → p.released = true → p.closed = true → x.phaseIdle p.id = true → (∀ st ∈ p.statuses, st < 4) →
      ∃ st, s.settleOnce j
          = some ((s.setJob j (x.onPhase p.id (fun q => { q with ended := true }))).event 0x0002 j (natLe 2 p.id ++ natLe 1 st))
        ∧ (2 ∈ p.statuses → st = 2) ∧ (2 ∉ p.statuses → 3 ∈ p.statuses → st = 3)
        ∧ (2 ∉ p.statuses → 3 ∉ p.statuses → 1 ∈ p.statuses → st = 1)
        ∧ (2 ∉ p.statuses → 3 ∉ p.statuses → 1 ∉ p.statuses → st = 0))

/-! ## Reset, memory and the step -/

/-- What reset leaves where the spec gives a value (R7, R36, R41, R43, R54, R64, R70, R80, R214, R316, and their tables): the
service level, the repair map, the power cap and the error threshold, the queue and ring registers, every floor DARK, every bank
DARK, every kernel slot EMPTY, the sticky flags clear, and every job FREE. -/
def Obligations.ResetState : Prop :=
  let s := State.reset
  s.hkc.level = .rom ∧ s.hkc.failCode = 0 ∧ s.hkc.skip = [4, 4, 4, 4] ∧ s.hkc.meshValid = false
  ∧ s.hkc.pwrCap = 0x898 ∧ s.hkc.pwrAvg = 0 ∧ s.hkc.pwrPeak = 0 ∧ s.hkc.cethr = 64 ∧ s.hkc.coresOk = 0 ∧ s.hkc.coresSus = 0
  ∧ s.host.devnum = 0 ∧ s.host.tmaster = false
  ∧ (∀ q < 16, (s.queue q).en = false ∧ (s.queue q).qerr = false ∧ (s.queue q).vec = 0 ∧ (s.queue q).qlog = 4
      ∧ (s.queue q).prod = 0 ∧ (s.queue q).cons = 0 ∧ (s.queue q).cprod = 0 ∧ (s.queue q).ccons = 0
      ∧ (s.queue q).qbase = 0 ∧ (s.queue q).cbase = 0)
  ∧ s.host.events.en = false ∧ s.host.events.elog = 6 ∧ s.host.events.prod = 0 ∧ s.host.events.cons = 0 ∧ s.host.events.lost = 0
  ∧ s.host.events.base = 0 ∧ s.host.events.vec = 0
  ∧ (∀ f, (s.floor f).st = .dark) ∧ (∀ j, s.job? j = none)
  ∧ (∀ c b, (Table.getD (s.core c).banks b {}).st = .dark) ∧ (∀ c j, Table.getD (s.core c).xflags j 0 = 0)
  ∧ (∀ c n, Table.find (s.core c).kernels n = none)

/-- A step runs the word that the issuing group of the chosen job stands at; without a group it ends the issue; with none chosen
it lets the clocks of the next input pass, applies what the host wrote into its memory, and runs that input's event; and it
changes nothing where no input is left. That the outside brings its inputs as an agenda is the model's choice (log entry 3). -/
def Obligations.StepFetches : Prop := ∀ s : State,
  (∀ c j g x b w i, s.Issues c j g x → (s.core c).blockOf j x.block = some b → b.code[x.pc]? = some w → decode w = .ok i →
    step s = exec i s)
  ∧ (∀ c j, s.issue = some (c, j) → (s.core c).issuing j = none → step s = .next { s with issue := none })
  ∧ (∀ x rest, s.issue = none → s.agenda = x :: rest →
      step s = exec x.event ((({ s with agenda := rest, enginesRest := x.rest } : State).tick x.clocks).hostWrites x.host))
  ∧ (s.issue = none → s.agenda = [] → step s = .next s)

/-- No event ends a run: every step that no word's issue begins answers a next state. That an event whose conditions do not hold answers the
unchanged state is the model's choice (log entry 1). -/
def Obligations.EventsNeverStop : Prop := ∀ (i : Instr) (s : State), encode i = none → ∃ t, exec i s = .next t

/-- The memory that reset leaves lists nothing, and every list of bytes in it is in canonical form. -/
def Obligations.MemoryAtReset : Prop := State.reset.memoryWf = true ∧ State.reset.mem = [] ∧ State.reset.memOk

/-- Every step keeps device memory and the host's memory in canonical form: addresses strictly rise, and no byte is listed that
an unlisted address reads as. -/
def Obligations.MemoryKept : Prop := ∀ s t : State, s.memOk → step s = .next t → t.memOk

/-- R36: the counter of the fused security version never decreases. In every step, reset and the loss of power included, each
blown fuse stays blown, and the revocation fuses stay as they are. -/
def Obligations.FusesNeverFall : Prop := ∀ s t : State, step s = .next t →
  (∀ i, s.hkc.svnFuses.getLsbD i = true → t.hkc.svnFuses.getLsbD i = true) ∧ t.hkc.revoked = s.hkc.revoked

/-! ## Encoding (chapter 10) -/

/-- A well-formed instruction word decodes from its encoding, with every operand as it was. -/
def Obligations.DecodeEncode : Prop := ∀ (fsize : Nat) (i : Instr) (w : W64), isWellFormed fsize i = true → encode i = some w →
  decode w = .ok i ∧ decodeBytes (natLe 8 w.toNat) = some i

/-- A word that decodes is the encoding of what it decodes to: no two words mean one instruction, and a word with a reserved bit
set or a reserved code decodes to nothing. -/
def Obligations.EncodeDecode : Prop := ∀ (w : W64) (i : Instr), decode w = .ok i → encode i = some w

/-- Words that the spec's worked examples write out decode to what they stand for (10_instruction_encoding.md, the example of
R256 to R260; chapters 11 and 12), and so does MOVI of −1 into T3 by Table 10.2 and R256; a MATCH word, an opcode that no table
assigns and a reserved bit are refused by name. -/
def Obligations.DecodeWords : Prop :=
  decode 0x6100408241C00000 = .ok (.fmul ⟨⟨false, false, 0⟩, .temp 2, .temp 1, .temp 1, .zero, .f32, 0, .ctrl⟩)
  ∧ decode 0xE0C1000404430007
      = .ok (.st ⟨⟨true, false, 0⟩, .zero, .temp 0, .temp 2, 1, .l, 2, .relaxed, .dev, 0, 7⟩)
  ∧ decode 0x02A8611206210038
      = .ok (.steer ⟨⟨false, true, 1⟩, .temp 3, .temp 2, .frame, 0x31, 4, .l, .outgoing, .outgoing, .f32⟩)
  ∧ decode 0xD8000084140C3008
      = .ok (.mma ⟨⟨false, false, 0⟩, .temp 0, .temp 1, .temp 2, 5, .l, 3, 3, 0, false, false, true, 0⟩)
  ∧ decode 0x30006410FFFFFFFF = .ok (.movi ⟨⟨false, false, 0⟩, .temp 3, .zero, .zero, 0xFFFFFFFF⟩)
  ∧ decode 0x0081041000B39400 = .error .matchWord
  ∧ decode 0xFF80000000000000 = .error .unassigned
  ∧ decode 0x6100408241C00001 = .error .reservedBit
end

