-- ==== Sys2Proof/Laws/Encoding.lean ====
section
/-! SUPPORT. The fields of an encoded word: each format's reader gives back what its writer took, and the other way round. -/

namespace Sys2Proof

/-! ## Codes -/

theorem bits_eq (x lo w : Nat) : bits x lo w = x / 2 ^ lo % 2 ^ w := by rw [bits, Nat.shiftRight_eq_div_pow]

theorem bitAt_eq (x i : Nat) : bitAt x i = decide (x / 2 ^ i % 2 = 1) := by
  rw [bitAt, Nat.testBit_eq_decide_div_mod_eq]

theorem b2n_lt (b : Bool) : b2n b < 2 := by cases b <;> decide

theorem decide_b2n (b : Bool) : decide (b2n b = 1) = b := by cases b <;> rfl

theorem b2n_decide_mod (n : Nat) : b2n (decide (n % 2 = 1)) = n % 2 := by
  rcases Nat.mod_two_eq_zero_or_one n with h | h <;> simp [b2n, h]

theorem Spec.code_lt (s : Spec) : s.code < 64 := by
  cases s with
  | temp i => have := i.isLt; simp only [Spec.code]; omega
  | lit i => have := i.isLt; simp only [Spec.code]; omega
  | slot i => have := i.isLt; simp only [Spec.code]; omega
  | _ => decide

@[simp] theorem Spec.ofCode_code (s : Spec) : Spec.ofCode s.code = s := by
  cases s with
  | temp i => revert i; decide
  | lit i => revert i; decide
  | slot i => revert i; decide
  | _ => rfl

theorem Spec.code_ofCode (n : Nat) (h : n < 64) : (Spec.ofCode n).code = n := by
  revert n; decide

theorem ScalarTy.code_lt (t : ScalarTy) : t.code < 16 := by cases t <;> decide

@[simp] theorem typeOf_code (t : ScalarTy) : typeOf t.code = .ok t := by cases t <;> rfl

theorem code_typeOf (n : Nat) (t : ScalarTy) (hn : n < 32) (h : typeOf n = .ok t) : t.code = n := by
  have key : ∀ n < 32, ∀ t, ScalarTy.ofCode n = some t → t.code = n := by decide
  unfold typeOf at h
  split at h
  · rename_i u hu
    cases h
    exact key n hn _ hu
  · cases h

theorem Port.code_lt (p : Port) : p.code < 3 := by cases p <;> decide

@[simp] theorem portOf_code (p : Port) : portOf p.code = .ok p := by cases p <;> rfl

theorem code_portOf (n : Nat) (p : Port) (h : portOf n = .ok p) : p.code = n := by
  unfold portOf at h
  split at h <;> cases h <;> rfl

theorem TagPolicy.code_lt (p : TagPolicy) : p.code < 3 := by cases p <;> decide

@[simp] theorem tagPolicyOf_code (p : TagPolicy) : tagPolicyOf p.code = .ok p := by cases p <;> rfl

theorem code_tagPolicyOf (n : Nat) (p : TagPolicy) (h : tagPolicyOf n = .ok p) : p.code = n := by
  unfold tagPolicyOf at h
  split at h <;> cases h <;> rfl

theorem DimPolicy.code_lt (p : DimPolicy) : p.code < 3 := by cases p <;> decide

@[simp] theorem dimPolicyOf_code (p : DimPolicy) : dimPolicyOf p.code = .ok p := by cases p <;> rfl

theorem code_dimPolicyOf (n : Nat) (p : DimPolicy) (h : dimPolicyOf n = .ok p) : p.code = n := by
  unfold dimPolicyOf at h
  split at h <;> cases h <;> rfl

theorem MemOrder.code_lt (o : MemOrder) : o.code < 4 := by cases o <;> decide

@[simp] theorem orderOf_code (o : MemOrder) : orderOf o.code = o := by cases o <;> rfl

theorem code_orderOf (n : Nat) (h : n < 4) : (orderOf n).code = n := by revert n; decide

theorem Scope.code_lt (o : Scope) : o.code < 6 := by cases o <;> decide

@[simp] theorem scopeOf_code (o : Scope) : scopeOf o.code = .ok o := by cases o <;> rfl

theorem code_scopeOf (n : Nat) (o : Scope) (h : scopeOf n = .ok o) : o.code = n := by
  unfold scopeOf at h
  split at h <;> cases h <;> rfl

/-! ## Reading what was written -/

/-- The fields that every word has, over the bits below them. -/
theorem writeCommon_fields (op : Nat) (h : Hdr) (d a b : Spec) (x : Nat) (ho : op < 512) (hx : x < 2 ^ 33) :
    writeCommon op h d a b + x < 2 ^ 64 ∧ bits (writeCommon op h d a b + x) 55 9 = op ∧ hdrOf (writeCommon op h d a b + x) = h
      ∧ bits (writeCommon op h d a b + x) 45 6 = d.code ∧ bits (writeCommon op h d a b + x) 39 6 = a.code
      ∧ bits (writeCommon op h d a b + x) 33 6 = b.code ∧ (writeCommon op h d a b + x) % 2 ^ 33 = x := by
  have h1 := d.code_lt
  have h2 := a.code_lt
  have h3 := b.code_lt
  obtain ⟨l, p, i⟩ := h
  have hi := i.isLt
  have hl := b2n_lt l
  have hp := b2n_lt p
  generalize hn : writeCommon op ⟨l, p, i⟩ d a b + x = n
  simp only [writeCommon] at hn
  refine ⟨by omega, ?_, ?_, ?_, ?_, ?_, by omega⟩
  · rw [bits_eq]; omega
  · simp only [hdrOf, bitAt_eq, bits_eq]
    have e1 : n / 2 ^ 54 % 2 = b2n l := by omega
    have e2 : n / 2 ^ 53 % 2 = b2n p := by omega
    have e3 : n / 2 ^ 51 % 2 ^ 2 = i.val := by omega
    have f3 : Fin.ofNat 4 i.val = i := by ext; simp [Fin.ofNat]
    rw [e1, e2, e3, decide_b2n, decide_b2n, f3]
  all_goals rw [bits_eq]; omega

/-- Bits of the low 33 are those of what stands there. -/
theorem bits_low {n x : Nat} (h : n % 2 ^ 33 = x) (lo w : Nat) (hw : lo + w ≤ 33) : bits n lo w = bits x lo w := by
  subst h
  apply Nat.eq_of_testBit_eq
  intro i
  simp only [bits, Nat.testBit_mod_two_pow, Nat.testBit_shiftRight]
  by_cases hi : i < w
  · have : lo + i < 33 := by omega
    simp [hi, this]
  · simp [hi]

theorem bitAt_low {n x : Nat} (h : n % 2 ^ 33 = x) (i : Nat) (hi : i < 33) : bitAt n i = bitAt x i := by
  subst h
  simp only [bitAt, Nat.testBit_mod_two_pow, hi, decide_true, Bool.true_and]

@[simp] theorem ofNat_toNat (n : Nat) (v : BitVec n) : BitVec.ofNat n v.toNat = v := by simp

theorem readR_writeR (op : Nat) (w : RWord) (ho : op < 512) :
    writeR op w < 2 ^ 64 ∧ bits (writeR op w) 55 9 = op ∧ readR (writeR op w) = .ok w := by
  have h1 := w.c.code_lt
  have h2 := w.ty.code_lt
  have h3 := w.ty2.code_lt
  have h4 := w.mod.isLt
  generalize hx : w.c.code * 2 ^ 27 + w.ty.code * 2 ^ 22 + w.mod.toNat * 2 ^ 14 + w.ty2.code * 2 ^ 9 = x
  have e : writeR op w = writeCommon op w.hdr w.d w.a w.b + x := by simp only [writeR]; omega
  obtain ⟨a0, a1, a2, a3, a4, a5, a6⟩ := writeCommon_fields op w.hdr w.d w.a w.b x ho (by omega)
  rw [e]
  refine ⟨a0, a1, ?_⟩
  have b0 : bits x 0 9 = 0 := by rw [bits_eq]; omega
  have b1 : bits x 22 5 = w.ty.code := by rw [bits_eq]; omega
  have b2 : bits x 9 5 = w.ty2.code := by rw [bits_eq]; omega
  have b3 : bits x 27 6 = w.c.code := by rw [bits_eq]; omega
  have b4 : bits x 14 8 = w.mod.toNat := by rw [bits_eq]; omega
  simp only [readR, reserved, bits_low a6 0 9 (by omega), bits_low a6 22 5 (by omega), bits_low a6 9 5 (by omega),
    bits_low a6 27 6 (by omega), bits_low a6 14 8 (by omega), a2, a3, a4, a5, b0, b1, b2, b3, b4, typeOf_code,
    Spec.ofCode_code, ofNat_toNat]
  rfl

theorem readI_writeI (op : Nat) (w : IWord) (ho : op < 512) :
    writeI op w < 2 ^ 64 ∧ bits (writeI op w) 55 9 = op ∧ readI (writeI op w) = .ok w := by
  have h4 := w.imm.isLt
  obtain ⟨a0, a1, a2, a3, a4, a5, a6⟩ := writeCommon_fields op w.hdr w.d w.a w.b w.imm.toNat ho (by omega)
  refine ⟨a0, a1, ?_⟩
  have b0 : bits w.imm.toNat 32 1 = 0 := by rw [bits_eq]; omega
  have b1 : bits w.imm.toNat 0 32 = w.imm.toNat := by rw [bits_eq]; omega
  simp only [readI, writeI, reserved, bits_low a6 32 1 (by omega), bits_low a6 0 32 (by omega), a2, a3, a4, a5, b0, b1,
    Spec.ofCode_code, ofNat_toNat]
  rfl

theorem readS_writeS (op : Nat) (w : SWord) (ho : op < 512) :
    writeS op w < 2 ^ 64 ∧ bits (writeS op w) 55 9 = op ∧ readS (writeS op w) = .ok w := by
  have h1 := w.tport.code_lt
  have h2 := w.tpol.code_lt
  have h3 := w.dpol.code_lt
  have h4 := w.sty.code_lt
  have h5 := w.tblk.isLt
  have h6 := w.tent.isLt
  generalize hx : w.tblk.toNat * 2 ^ 21 + w.tent.toNat * 2 ^ 14 + w.tport.code * 2 ^ 12 + w.tpol.code * 2 ^ 10
    + w.dpol.code * 2 ^ 8 + w.sty.code * 2 ^ 3 = x
  have e : writeS op w = writeCommon op w.hdr w.d w.a w.b + x := by simp only [writeS]; omega
  obtain ⟨a0, a1, a2, a3, a4, a5, a6⟩ := writeCommon_fields op w.hdr w.d w.a w.b x ho (by omega)
  rw [e]
  refine ⟨a0, a1, ?_⟩
  have b0 : bits x 0 3 = 0 := by rw [bits_eq]; omega
  have b1 : bits x 12 2 = w.tport.code := by rw [bits_eq]; omega
  have b2 : bits x 10 2 = w.tpol.code := by rw [bits_eq]; omega
  have b3 : bits x 8 2 = w.dpol.code := by rw [bits_eq]; omega
  have b4 : bits x 3 5 = w.sty.code := by rw [bits_eq]; omega
  have b5 : bits x 21 12 = w.tblk.toNat := by rw [bits_eq]; omega
  have b6 : bits x 14 7 = w.tent.toNat := by rw [bits_eq]; omega
  simp only [readS, reserved, bits_low a6 0 3 (by omega), bits_low a6 12 2 (by omega), bits_low a6 10 2 (by omega),
    bits_low a6 8 2 (by omega), bits_low a6 3 5 (by omega), bits_low a6 21 12 (by omega), bits_low a6 14 7 (by omega),
    a2, a3, a4, a5, b0, b1, b2, b3, b4, b5, b6, portOf_code, tagPolicyOf_code, dimPolicyOf_code, typeOf_code,
    Spec.ofCode_code, ofNat_toNat]
  rfl

theorem readM_writeM (op : Nat) (w : MWord) (ho : op < 512) :
    writeM op w < 2 ^ 64 ∧ bits (writeM op w) 55 9 = op ∧ readM (writeM op w) = .ok w := by
  have h1 := w.cport.code_lt
  have h2 := w.ord.code_lt
  have h3 := w.scope.code_lt
  have h4 := w.cent.isLt
  have h5 := w.wid.isLt
  have h6 := w.aop.isLt
  have h7 := w.mflg.isLt
  generalize hx : w.cent.toNat * 2 ^ 26 + w.cport.code * 2 ^ 24 + w.wid.toNat * 2 ^ 21 + w.ord.code * 2 ^ 19
    + w.scope.code * 2 ^ 16 + w.aop.toNat * 2 ^ 11 + w.mflg.toNat = x
  have e : writeM op w = writeCommon op w.hdr w.d w.a w.b + x := by simp only [writeM]; omega
  obtain ⟨a0, a1, a2, a3, a4, a5, a6⟩ := writeCommon_fields op w.hdr w.d w.a w.b x ho (by omega)
  rw [e]
  refine ⟨a0, a1, ?_⟩
  have b1 : bits x 24 2 = w.cport.code := by rw [bits_eq]; omega
  have b2 : bits x 16 3 = w.scope.code := by rw [bits_eq]; omega
  have b3 : bits x 26 7 = w.cent.toNat := by rw [bits_eq]; omega
  have b4 : bits x 21 3 = w.wid.toNat := by rw [bits_eq]; omega
  have b5 : bits x 19 2 = w.ord.code := by rw [bits_eq]; omega
  have b6 : bits x 11 5 = w.aop.toNat := by rw [bits_eq]; omega
  have b7 : bits x 0 11 = w.mflg.toNat := by rw [bits_eq]; omega
  simp only [readM, bits_low a6 24 2 (by omega), bits_low a6 16 3 (by omega), bits_low a6 26 7 (by omega),
    bits_low a6 21 3 (by omega), bits_low a6 19 2 (by omega), bits_low a6 11 5 (by omega), bits_low a6 0 11 (by omega),
    a2, a3, a4, a5, b1, b2, b3, b4, b5, b6, b7, portOf_code, scopeOf_code, orderOf_code, Spec.ofCode_code, ofNat_toNat]
  rfl

theorem readT_writeT (op : Nat) (w : TWord) (ho : op < 512) :
    writeT op w < 2 ^ 64 ∧ bits (writeT op w) 55 9 = op ∧ readT (writeT op w) = .ok w := by
  have h1 := w.cport.code_lt
  have h2 := w.fa.isLt
  have h3 := w.fb.isLt
  have h4 := w.fc.isLt
  have h5 := w.cent.isLt
  have h6 := w.tmod.isLt
  have h7 := b2n_lt w.tra
  have h8 := b2n_lt w.trb
  have h9 := b2n_lt w.acc
  generalize hx : w.cent.toNat * 2 ^ 26 + w.cport.code * 2 ^ 24 + w.fa.toNat * 2 ^ 18 + w.fb.toNat * 2 ^ 12
    + w.fc.toNat * 2 ^ 6 + b2n w.tra * 2 ^ 5 + b2n w.trb * 2 ^ 4 + b2n w.acc * 2 ^ 3 + w.tmod.toNat = x
  have e : writeT op w = writeCommon op w.hdr w.d w.a w.b + x := by simp only [writeT]; omega
  obtain ⟨a0, a1, a2, a3, a4, a5, a6⟩ := writeCommon_fields op w.hdr w.d w.a w.b x ho (by omega)
  rw [e]
  refine ⟨a0, a1, ?_⟩
  have b1 : bits x 24 2 = w.cport.code := by rw [bits_eq]; omega
  have b2 : bits x 26 7 = w.cent.toNat := by rw [bits_eq]; omega
  have b3 : bits x 18 6 = w.fa.toNat := by rw [bits_eq]; omega
  have b4 : bits x 12 6 = w.fb.toNat := by rw [bits_eq]; omega
  have b5 : bits x 6 6 = w.fc.toNat := by rw [bits_eq]; omega
  have b6 : bits x 0 3 = w.tmod.toNat := by rw [bits_eq]; omega
  have c5 : x / 2 ^ 5 % 2 = b2n w.tra := by omega
  have c4 : x / 2 ^ 4 % 2 = b2n w.trb := by omega
  have c3 : x / 2 ^ 3 % 2 = b2n w.acc := by omega
  simp only [readT, bits_low a6 24 2 (by omega), bits_low a6 26 7 (by omega), bits_low a6 18 6 (by omega),
    bits_low a6 12 6 (by omega), bits_low a6 6 6 (by omega), bits_low a6 0 3 (by omega), bitAt_low a6 5 (by omega),
    bitAt_low a6 4 (by omega), bitAt_low a6 3 (by omega), bitAt_eq, c5, c4, c3, decide_b2n,
    a2, a3, a4, a5, b1, b2, b3, b4, b5, b6, portOf_code, Spec.ofCode_code, ofNat_toNat]
  rfl

/-! ## Decoding -/

theorem decode_of {n op : Nat} (hn : n < 2 ^ 64) (ho : bits n 55 9 = op) (h1 : op ≠ 1) :
    decode (BitVec.ofNat 64 n) = decodeForm op n := by
  have e : (BitVec.ofNat 64 n).toNat = n := by rw [BitVec.toNat_ofNat, Nat.mod_eq_of_lt hn]
  unfold decode
  rw [e]
  dsimp only
  rw [ho, if_neg h1]

/-- What an instruction's word is. -/
theorem encode_form {i : Instr} {op : Nat} {b : Body} {v : W64} (hf : i.form = some (op, b)) (he : encode i = some v) :
    v = BitVec.ofNat 64 (b.write op) := by
  unfold encode at he
  rw [hf] at he
  exact (Option.some.inj he).symm

theorem decode_encode_r {i : Instr} {op : Nat} {w : RWord} {mk : RWord → Instr} {v : W64} (hf : i.form = some (op, .r w))
    (he : encode i = some v) (hop : op < 512) (h1 : op ≠ 1)
    (hr : rForms.lookup op = some mk) : decode v = .ok (mk w) := by
  obtain ⟨a, b, c⟩ := readR_writeR op w hop
  rw [encode_form hf he]
  refine (decode_of a b h1).trans ?_
  unfold decodeForm readForm
  rw [hr, c]
  rfl

theorem decode_encode_m {i : Instr} {op : Nat} {w : MWord} {mk : MWord → Instr} {v : W64} (hf : i.form = some (op, .m w))
    (he : encode i = some v) (hop : op < 512) (h1 : op ≠ 1) (hr : rForms.lookup op = none)
    (hm : mForms.lookup op = some mk) : decode v = .ok (mk w) := by
  obtain ⟨a, b, c⟩ := readM_writeM op w hop
  rw [encode_form hf he]
  refine (decode_of a b h1).trans ?_
  unfold decodeForm readForm
  rw [hr, hm, c]
  rfl

theorem decode_encode_t {i : Instr} {op : Nat} {w : TWord} {mk : TWord → Instr} {v : W64} (hf : i.form = some (op, .t w))
    (he : encode i = some v) (hop : op < 512) (h1 : op ≠ 1) (hr : rForms.lookup op = none) (hm : mForms.lookup op = none)
    (ht : tForms.lookup op = some mk) : decode v = .ok (mk w) := by
  obtain ⟨a, b, c⟩ := readT_writeT op w hop
  rw [encode_form hf he]
  refine (decode_of a b h1).trans ?_
  unfold decodeForm readForm
  rw [hr, hm, ht, c]
  rfl

theorem decode_encode_s {i : Instr} {op : Nat} {w : SWord} {mk : SWord → Instr} {v : W64} (hf : i.form = some (op, .s w))
    (he : encode i = some v) (hop : op < 512) (h1 : op ≠ 1) (hr : rForms.lookup op = none) (hm : mForms.lookup op = none) (ht : tForms.lookup op = none)
    (hs : sForms.lookup op = some mk) : decode v = .ok (mk w) := by
  obtain ⟨a, b, c⟩ := readS_writeS op w hop
  rw [encode_form hf he]
  refine (decode_of a b h1).trans ?_
  unfold decodeForm readForm
  rw [hr, hm, ht, hs, c]
  rfl

theorem decode_encode_i {i : Instr} {op : Nat} {w : IWord} {mk : IWord → Instr} {v : W64} (hf : i.form = some (op, .i w))
    (he : encode i = some v) (hop : op < 512) (h1 : op ≠ 1) (hr : rForms.lookup op = none) (hm : mForms.lookup op = none) (ht : tForms.lookup op = none) (hs : sForms.lookup op = none)
    (hi : iForms.lookup op = some mk) : decode v = .ok (mk w) := by
  obtain ⟨a, b, c⟩ := readI_writeI op w hop
  rw [encode_form hf he]
  refine (decode_of a b h1).trans ?_
  unfold decodeForm readForm
  rw [hr, hm, ht, hs, hi, c]
  rfl

/-! ## Writing what was read -/

/-- A field and the bits below it. -/
theorem bits_join (n lo w : Nat) : n % 2 ^ (lo + w) = bits n lo w * 2 ^ lo + n % 2 ^ lo := by
  rw [bits_eq, Nat.pow_add, Nat.mod_mul, Nat.mul_comm, Nat.add_comm]

/-- The fields that every word has, and the 33 bits below them, make up the word. -/
theorem writeCommon_read (n : Nat) (hn : n < 2 ^ 64) :
    writeCommon (bits n 55 9) (hdrOf n) (Spec.ofCode (bits n 45 6)) (Spec.ofCode (bits n 39 6)) (Spec.ofCode (bits n 33 6))
      = n / 2 ^ 33 * 2 ^ 33 := by
  have h1 : bits n 45 6 < 64 := by rw [bits_eq]; omega
  have h2 : bits n 39 6 < 64 := by rw [bits_eq]; omega
  have h3 : bits n 33 6 < 64 := by rw [bits_eq]; omega
  simp only [writeCommon, Spec.code_ofCode _ h1, Spec.code_ofCode _ h2, Spec.code_ofCode _ h3, hdrOf, bitAt_eq, b2n_decide_mod,
    Fin.ofNat]
  simp only [bits_eq]
  omega

/-- A check of reserved bits that passes. -/
theorem reserved_ok {n lo w : Nat} (h : reserved n lo w = .ok ()) : bits n lo w = 0 := by
  unfold reserved at h
  split at h
  · assumption
  · cases h

theorem bind_ok {ε α β : Type} {x : Except ε α} {f : α → Except ε β} {r : β} (h : (x >>= f) = .ok r) :
    ∃ a, x = .ok a ∧ f a = .ok r := by
  cases x with
  | error e => cases h
  | ok a => exact ⟨a, rfl, h⟩

@[simp] theorem toNat_ofNat_bits (n w x lo : Nat) (h : w ≤ n) : (BitVec.ofNat n (bits x lo w)).toNat = bits x lo w := by
  rw [BitVec.toNat_ofNat, Nat.mod_eq_of_lt]
  exact Nat.lt_of_lt_of_le (Nat.mod_lt _ (Nat.two_pow_pos w)) (Nat.pow_le_pow_right (by omega) h)

theorem writeR_readR {n : Nat} {w : RWord} (hn : n < 2 ^ 64) (h : readR n = .ok w) : writeR (bits n 55 9) w = n := by
  obtain ⟨⟨⟩, h0, h⟩ := bind_ok h
  obtain ⟨ty, h1, h⟩ := bind_ok h
  obtain ⟨ty2, h2, h⟩ := bind_ok h
  cases h
  have r := reserved_ok h0
  have c1 := code_typeOf _ _ (by rw [bits_eq]; omega) h1
  have c2 := code_typeOf _ _ (by rw [bits_eq]; omega) h2
  have c3 : bits n 27 6 < 64 := by rw [bits_eq]; omega
  have j1 := bits_join n 27 6
  have j2 := bits_join n 22 5
  have j3 := bits_join n 14 8
  have j4 := bits_join n 9 5
  have j5 := bits_join n 0 9
  simp only [writeR, writeCommon_read n hn, c1, c2, Spec.code_ofCode _ c3, toNat_ofNat_bits 8 8 _ _ (by omega)]
  omega

theorem writeI_readI {n : Nat} {w : IWord} (hn : n < 2 ^ 64) (h : readI n = .ok w) : writeI (bits n 55 9) w = n := by
  obtain ⟨⟨⟩, h0, h⟩ := bind_ok h
  cases h
  have r := reserved_ok h0
  have j1 := bits_join n 32 1
  have j2 := bits_join n 0 32
  simp only [writeI, writeCommon_read n hn, toNat_ofNat_bits 32 32 _ _ (by omega)]
  omega

theorem writeS_readS {n : Nat} {w : SWord} (hn : n < 2 ^ 64) (h : readS n = .ok w) : writeS (bits n 55 9) w = n := by
  obtain ⟨⟨⟩, h0, h⟩ := bind_ok h
  obtain ⟨p, h1, h⟩ := bind_ok h
  obtain ⟨tp, h2, h⟩ := bind_ok h
  obtain ⟨dp, h3, h⟩ := bind_ok h
  obtain ⟨ty, h4, h⟩ := bind_ok h
  cases h
  have r := reserved_ok h0
  have c1 := code_portOf _ _ h1
  have c2 := code_tagPolicyOf _ _ h2
  have c3 := code_dimPolicyOf _ _ h3
  have c4 := code_typeOf _ _ (by rw [bits_eq]; omega) h4
  have j1 := bits_join n 21 12
  have j2 := bits_join n 14 7
  have j3 := bits_join n 12 2
  have j4 := bits_join n 10 2
  have j5 := bits_join n 8 2
  have j6 := bits_join n 3 5
  have j7 := bits_join n 0 3
  simp only [writeS, writeCommon_read n hn, c1, c2, c3, c4, toNat_ofNat_bits 12 12 _ _ (by omega),
    toNat_ofNat_bits 7 7 _ _ (by omega)]
  omega

theorem writeM_readM {n : Nat} {w : MWord} (hn : n < 2 ^ 64) (h : readM n = .ok w) : writeM (bits n 55 9) w = n := by
  obtain ⟨p, h1, h⟩ := bind_ok h
  obtain ⟨sc, h2, h⟩ := bind_ok h
  cases h
  have c1 := code_portOf _ _ h1
  have c2 := code_scopeOf _ _ h2
  have c3 : (orderOf (bits n 19 2)).code = bits n 19 2 := code_orderOf _ (by rw [bits_eq]; omega)
  have j1 := bits_join n 26 7
  have j2 := bits_join n 24 2
  have j3 := bits_join n 21 3
  have j4 := bits_join n 19 2
  have j5 := bits_join n 16 3
  have j6 := bits_join n 11 5
  have j7 := bits_join n 0 11
  simp only [writeM, writeCommon_read n hn, c1, c2, c3, toNat_ofNat_bits 7 7 _ _ (by omega), toNat_ofNat_bits 3 3 _ _ (by omega),
    toNat_ofNat_bits 5 5 _ _ (by omega), toNat_ofNat_bits 11 11 _ _ (by omega)]
  omega

theorem writeT_readT {n : Nat} {w : TWord} (hn : n < 2 ^ 64) (h : readT n = .ok w) : writeT (bits n 55 9) w = n := by
  obtain ⟨p, h1, h⟩ := bind_ok h
  cases h
  have c1 := code_portOf _ _ h1
  have j1 := bits_join n 26 7
  have j2 := bits_join n 24 2
  have j3 := bits_join n 18 6
  have j4 := bits_join n 12 6
  have j5 := bits_join n 6 6
  have j6 : n % 2 ^ 6 = n / 2 ^ 5 % 2 * 2 ^ 5 + n / 2 ^ 4 % 2 * 2 ^ 4 + n / 2 ^ 3 % 2 * 2 ^ 3 + bits n 0 3 := by
    rw [bits_eq]; omega
  simp only [writeT, writeCommon_read n hn, c1, toNat_ofNat_bits 7 7 _ _ (by omega), toNat_ofNat_bits 6 6 _ _ (by omega),
    toNat_ofNat_bits 3 3 _ _ (by omega), bitAt_eq, b2n_decide_mod]
  omega

end Sys2Proof
end

