-- ==== Sys2Proof/Laws/Tables.lean ====
section
/-! SUPPORT. Laws of the plain helpers: sparse tables, lists by position, bit fields and little-endian bytes. -/

namespace Sys2Proof

variable {α : Type}

/-! ## Sparse tables -/

@[simp] theorem Table.find_nil (x : Nat) : Table.find ([] : Table α) x = none := rfl

@[simp] theorem Table.getD_nil (x : Nat) (d : α) : Table.getD ([] : Table α) x d = d := rfl

@[simp] theorem Table.find_put_same (t : Table α) (x : Nat) (v : α) : Table.find (Table.put t x v) x = some v := by
  induction t with
  | nil => simp [Table.put, Table.find]
  | cons p t ih =>
    obtain ⟨k, w⟩ := p
    by_cases h : x < k
    · simp [Table.put, Table.find, h]
    · by_cases e : k = x
      · simp [Table.put, Table.find, e]
      · simp [Table.put, Table.find, h, e, ih]

theorem Table.find_put_ne (t : Table α) (x y : Nat) (v : α) (h : y ≠ x) : Table.find (Table.put t x v) y = Table.find t y := by
  induction t with
  | nil => simp [Table.put, Table.find, h.symm]
  | cons p t ih =>
    obtain ⟨k, w⟩ := p
    by_cases hk : x < k
    · simp [Table.put, Table.find, hk, h.symm]
    · by_cases e : k = x
      · subst e; simp [Table.put, Table.find, h.symm]
      · simp [Table.put, Table.find, hk, e, ih]

theorem Table.find_put (t : Table α) (x y : Nat) (v : α) :
    Table.find (Table.put t x v) y = if y = x then some v else Table.find t y := by
  by_cases h : y = x
  · simp [h]
  · simp [h, Table.find_put_ne t x y v h]

@[simp] theorem Table.getD_put_same (t : Table α) (x : Nat) (v d : α) : Table.getD (Table.put t x v) x d = v := by
  simp [Table.getD]

theorem Table.getD_put_ne (t : Table α) (x y : Nat) (v d : α) (h : y ≠ x) : Table.getD (Table.put t x v) y d = Table.getD t y d := by
  simp [Table.getD, Table.find_put_ne t x y v h]

theorem Table.getD_put (t : Table α) (x y : Nat) (v d : α) :
    Table.getD (Table.put t x v) y d = if y = x then v else Table.getD t y d := by
  by_cases h : y = x
  · simp [h]
  · simp [h, Table.getD_put_ne t x y v d h]

theorem Table.getD_of_find {t : Table α} {x : Nat} {v : α} (d : α) (h : Table.find t x = some v) : Table.getD t x d = v := by
  simp [Table.getD, h]

@[simp] theorem Table.getD_modify_same (t : Table α) (x : Nat) (d : α) (f : α → α) :
    Table.getD (Table.modify t x d f) x d = f (Table.getD t x d) := by simp [Table.modify]

theorem Table.getD_modify_ne (t : Table α) (x y : Nat) (d e : α) (f : α → α) (h : y ≠ x) :
    Table.getD (Table.modify t x d f) y e = Table.getD t y e := by simp [Table.modify, Table.getD_put_ne, h]

/-- Putting keeps the keys rising: what stands before stays below a key that it stood below, and below the one put. -/
theorem Table.sorted_put (t : Table α) (x : Nat) (v : α) (h : Table.sorted t = true) : Table.sorted (Table.put t x v) = true := by
  induction t with
  | nil => rfl
  | cons p t ih =>
    obtain ⟨k, w⟩ := p
    by_cases hk : x < k
    · simp [Table.put, hk, Table.sorted, h]
    · by_cases e : k = x
      · subst e
        cases t with
        | nil => simp [Table.put, Table.sorted]
        | cons q t =>
          obtain ⟨b, u⟩ := q
          simpa [Table.put, Table.sorted] using h
      · have hx : k < x := by omega
        cases t with
        | nil => simp [Table.put, hk, e, Table.sorted, hx]
        | cons q t =>
          obtain ⟨b, u⟩ := q
          simp only [Table.sorted, Bool.and_eq_true, decide_eq_true_eq] at h
          have ih' := ih h.2
          by_cases hb : x < b
          · simp only [Table.put, hk, e, hb, if_true, if_false, Table.sorted, Bool.and_eq_true, decide_eq_true_eq]
            exact ⟨hx, trivial, h.2⟩
          · by_cases eb : b = x
            · subst eb
              simp only [Table.put, hb, if_true, if_false] at ih' ⊢
              simp only [hk, e, if_false, Table.sorted, Bool.and_eq_true, decide_eq_true_eq]
              exact ⟨hx, ih'⟩
            · simp only [Table.put, hb, eb, hk, e, if_false] at ih' ⊢
              simp only [Table.sorted, Bool.and_eq_true, decide_eq_true_eq]
              exact ⟨h.1, ih'⟩

/-! ## Lists by position -/

@[simp] theorem length_setAt (xs : List α) (i : Nat) (v : α) : (setAt xs i v).length = xs.length := by
  induction xs generalizing i with
  | nil => rfl
  | cons x xs ih => cases i <;> simp [setAt, ih]

theorem getElem?_setAt (xs : List α) (i n : Nat) (v : α) :
    (setAt xs i v)[n]? = if n = i ∧ n < xs.length then some v else xs[n]? := by
  induction xs generalizing i n with
  | nil => simp [setAt]
  | cons x xs ih =>
    cases i with
    | zero => cases n <;> simp [setAt]
    | succ i => cases n <;> simp [setAt, ih]

theorem getElem?_setAt_same (xs : List α) (i : Nat) (v : α) (h : i < xs.length) : (setAt xs i v)[i]? = some v := by
  rw [getElem?_setAt, if_pos ⟨rfl, h⟩]

theorem getElem?_setAt_ne (xs : List α) (i n : Nat) (v : α) (h : n ≠ i) : (setAt xs i v)[n]? = xs[n]? := by
  rw [getElem?_setAt, if_neg (fun e => h e.1)]

@[simp] theorem setAt_setAt (xs : List α) (i : Nat) (v w : α) : setAt (setAt xs i v) i w = setAt xs i w := by
  induction xs generalizing i with
  | nil => rfl
  | cons x xs ih => cases i <;> simp [setAt, ih]

theorem setAt_self (xs : List α) (i : Nat) (v : α) (h : xs[i]? = some v) : setAt xs i v = xs := by
  induction xs generalizing i with
  | nil => rfl
  | cons x xs ih =>
    cases i with
    | zero => simp at h; simp [setAt, h]
    | succ i => simp at h; simp [setAt, ih i h]

theorem getD_setAt_same (xs : List α) (i : Nat) (v d : α) (h : i < xs.length) : (setAt xs i v).getD i d = v := by
  simp [List.getD, getElem?_setAt_same xs i v h]

theorem getD_setAt_ne (xs : List α) (i n : Nat) (v d : α) (h : n ≠ i) : (setAt xs i v).getD n d = xs.getD n d := by
  simp [List.getD, getElem?_setAt_ne xs i n v h]

/-! ## Bytes and fields -/

@[simp] theorem length_natLe (n x : Nat) : (natLe n x).length = n := by
  induction n generalizing x with
  | zero => rfl
  | succ n ih => simp [natLe, ih]

theorem leNat_natLe (n x : Nat) : leNat (natLe n x) = x % 2 ^ (8 * n) := by
  induction n generalizing x with
  | zero => simp [natLe, leNat, Nat.mod_one]
  | succ n ih =>
    have e : 2 ^ (8 * (n + 1)) = 256 * 2 ^ (8 * n) := by rw [show 8 * (n + 1) = 8 + 8 * n by omega, Nat.pow_add]
    rw [natLe, leNat, ih, e, Nat.mod_mul, BitVec.toNat_ofNat, show (2 : Nat) ^ 8 = 256 from rfl]

theorem leNat_lt (bs : List Byte) : leNat bs < 2 ^ (8 * bs.length) := by
  induction bs with
  | nil => simp [leNat]
  | cons b bs ih =>
    have e : 2 ^ (8 * (bs.length + 1)) = 256 * 2 ^ (8 * bs.length) := by
      rw [show 8 * (bs.length + 1) = 8 + 8 * bs.length by omega, Nat.pow_add]
    have hb := b.isLt
    simp only [leNat, List.length_cons, e]
    omega

theorem bits_lt (x lo w : Nat) : bits x lo w < 2 ^ w := Nat.mod_lt _ (Nat.two_pow_pos w)

end Sys2Proof
end

