-- ==== Sys2Proof/Laws/State.lean ====
section
/-! SUPPORT. What each update of the state leaves unchanged, field by field, and what it makes of the field that it is for. -/

namespace Sys2Proof.Machine

/-! ## Cores -/

@[simp] theorem State.core_setCore_same (s : State) (c : Nat) (k : Core) : (s.setCore c k).core c = k := by
  simp [State.core, State.setCore]

theorem State.core_setCore_ne (s : State) (c d : Nat) (k : Core) (h : d ≠ c) : (s.setCore c k).core d = s.core d := by
  simp [State.core, State.setCore, Table.getD_put_ne _ _ _ _ _ h]

@[simp] theorem State.core_onCore_same (s : State) (c : Nat) (f : Core → Core) : (s.onCore c f).core c = f (s.core c) := by
  simp [State.onCore]

theorem State.core_onCore_ne (s : State) (c d : Nat) (f : Core → Core) (h : d ≠ c) : (s.onCore c f).core d = s.core d := by
  simp [State.onCore, State.core_setCore_ne _ _ _ _ h]

@[simp] theorem State.core_issue (s : State) (i : Option (Nat × Nat)) (c : Nat) : ({ s with issue := i } : State).core c = s.core c := rfl

@[simp] theorem State.setCore_hkc (s : State) (c : Nat) (k : Core) : (s.setCore c k).hkc = s.hkc := rfl
@[simp] theorem State.setCore_host (s : State) (c : Nat) (k : Core) : (s.setCore c k).host = s.host := rfl
@[simp] theorem State.setCore_time (s : State) (c : Nat) (k : Core) : (s.setCore c k).time = s.time := rfl
@[simp] theorem State.setCore_clock (s : State) (c : Nat) (k : Core) : (s.setCore c k).clock = s.clock := rfl
@[simp] theorem State.setCore_clockRem (s : State) (c : Nat) (k : Core) : (s.setCore c k).clockRem = s.clockRem := rfl
@[simp] theorem State.setCore_mem (s : State) (c : Nat) (k : Core) : (s.setCore c k).mem = s.mem := rfl
@[simp] theorem State.setCore_poison (s : State) (c : Nat) (k : Core) : (s.setCore c k).poison = s.poison := rfl
@[simp] theorem State.setCore_floors (s : State) (c : Nat) (k : Core) : (s.setCore c k).floors = s.floors := rfl
@[simp] theorem State.setCore_rooms (s : State) (c : Nat) (k : Core) : (s.setCore c k).rooms = s.rooms := rfl
@[simp] theorem State.setCore_hostMem (s : State) (c : Nat) (k : Core) : (s.setCore c k).hostMem = s.hostMem := rfl
@[simp] theorem State.setCore_attics (s : State) (c : Nat) (k : Core) : (s.setCore c k).attics = s.attics := rfl
@[simp] theorem State.setCore_tlbs (s : State) (c : Nat) (k : Core) : (s.setCore c k).tlbs = s.tlbs := rfl
@[simp] theorem State.setCore_faults (s : State) (c : Nat) (k : Core) : (s.setCore c k).faults = s.faults := rfl
@[simp] theorem State.setCore_faultBuf (s : State) (c : Nat) (k : Core) : (s.setCore c k).faultBuf = s.faultBuf := rfl
@[simp] theorem State.setCore_faultSeq (s : State) (c : Nat) (k : Core) : (s.setCore c k).faultSeq = s.faultSeq := rfl
@[simp] theorem State.setCore_memReqs (s : State) (c : Nat) (k : Core) : (s.setCore c k).memReqs = s.memReqs := rfl
@[simp] theorem State.setCore_wc (s : State) (c : Nat) (k : Core) : (s.setCore c k).wc = s.wc := rfl
@[simp] theorem State.setCore_fabric (s : State) (c : Nat) (k : Core) : (s.setCore c k).fabric = s.fabric := rfl
@[simp] theorem State.setCore_posts (s : State) (c : Nat) (k : Core) : (s.setCore c k).posts = s.posts := rfl
@[simp] theorem State.setCore_mesh (s : State) (c : Nat) (k : Core) : (s.setCore c k).mesh = s.mesh := rfl
@[simp] theorem State.setCore_copies (s : State) (c : Nat) (k : Core) : (s.setCore c k).copies = s.copies := rfl
@[simp] theorem State.setCore_parts (s : State) (c : Nat) (k : Core) : (s.setCore c k).parts = s.parts := rfl
@[simp] theorem State.setCore_routeWork (s : State) (c : Nat) (k : Core) : (s.setCore c k).routeWork = s.routeWork := rfl
@[simp] theorem State.setCore_inbox (s : State) (c : Nat) (k : Core) : (s.setCore c k).inbox = s.inbox := rfl
@[simp] theorem State.setCore_links (s : State) (c : Nat) (k : Core) : (s.setCore c k).links = s.links := rfl
@[simp] theorem State.setCore_jobs (s : State) (c : Nat) (k : Core) : (s.setCore c k).jobs = s.jobs := rfl
@[simp] theorem State.setCore_endedParts (s : State) (c : Nat) (k : Core) : (s.setCore c k).endedParts = s.endedParts := rfl
@[simp] theorem State.setCore_nextId (s : State) (c : Nat) (k : Core) : (s.setCore c k).nextId = s.nextId := rfl
@[simp] theorem State.setCore_draws (s : State) (c : Nat) (k : Core) : (s.setCore c k).draws = s.draws := rfl
@[simp] theorem State.setCore_issue (s : State) (c : Nat) (k : Core) : (s.setCore c k).issue = s.issue := rfl
@[simp] theorem State.setCore_enginesRest (s : State) (c : Nat) (k : Core) : (s.setCore c k).enginesRest = s.enginesRest := rfl
@[simp] theorem State.setCore_agenda (s : State) (c : Nat) (k : Core) : (s.setCore c k).agenda = s.agenda := rfl

@[simp] theorem State.onCore_hkc (s : State) (c : Nat) (f : Core → Core) : (s.onCore c f).hkc = s.hkc := rfl
@[simp] theorem State.onCore_host (s : State) (c : Nat) (f : Core → Core) : (s.onCore c f).host = s.host := rfl
@[simp] theorem State.onCore_time (s : State) (c : Nat) (f : Core → Core) : (s.onCore c f).time = s.time := rfl
@[simp] theorem State.onCore_clock (s : State) (c : Nat) (f : Core → Core) : (s.onCore c f).clock = s.clock := rfl
@[simp] theorem State.onCore_clockRem (s : State) (c : Nat) (f : Core → Core) : (s.onCore c f).clockRem = s.clockRem := rfl
@[simp] theorem State.onCore_mem (s : State) (c : Nat) (f : Core → Core) : (s.onCore c f).mem = s.mem := rfl
@[simp] theorem State.onCore_poison (s : State) (c : Nat) (f : Core → Core) : (s.onCore c f).poison = s.poison := rfl
@[simp] theorem State.onCore_floors (s : State) (c : Nat) (f : Core → Core) : (s.onCore c f).floors = s.floors := rfl
@[simp] theorem State.onCore_rooms (s : State) (c : Nat) (f : Core → Core) : (s.onCore c f).rooms = s.rooms := rfl
@[simp] theorem State.onCore_hostMem (s : State) (c : Nat) (f : Core → Core) : (s.onCore c f).hostMem = s.hostMem := rfl
@[simp] theorem State.onCore_attics (s : State) (c : Nat) (f : Core → Core) : (s.onCore c f).attics = s.attics := rfl
@[simp] theorem State.onCore_tlbs (s : State) (c : Nat) (f : Core → Core) : (s.onCore c f).tlbs = s.tlbs := rfl
@[simp] theorem State.onCore_faults (s : State) (c : Nat) (f : Core → Core) : (s.onCore c f).faults = s.faults := rfl
@[simp] theorem State.onCore_faultBuf (s : State) (c : Nat) (f : Core → Core) : (s.onCore c f).faultBuf = s.faultBuf := rfl
@[simp] theorem State.onCore_faultSeq (s : State) (c : Nat) (f : Core → Core) : (s.onCore c f).faultSeq = s.faultSeq := rfl
@[simp] theorem State.onCore_memReqs (s : State) (c : Nat) (f : Core → Core) : (s.onCore c f).memReqs = s.memReqs := rfl
@[simp] theorem State.onCore_wc (s : State) (c : Nat) (f : Core → Core) : (s.onCore c f).wc = s.wc := rfl
@[simp] theorem State.onCore_fabric (s : State) (c : Nat) (f : Core → Core) : (s.onCore c f).fabric = s.fabric := rfl
@[simp] theorem State.onCore_posts (s : State) (c : Nat) (f : Core → Core) : (s.onCore c f).posts = s.posts := rfl
@[simp] theorem State.onCore_mesh (s : State) (c : Nat) (f : Core → Core) : (s.onCore c f).mesh = s.mesh := rfl
@[simp] theorem State.onCore_copies (s : State) (c : Nat) (f : Core → Core) : (s.onCore c f).copies = s.copies := rfl
@[simp] theorem State.onCore_parts (s : State) (c : Nat) (f : Core → Core) : (s.onCore c f).parts = s.parts := rfl
@[simp] theorem State.onCore_routeWork (s : State) (c : Nat) (f : Core → Core) : (s.onCore c f).routeWork = s.routeWork := rfl
@[simp] theorem State.onCore_inbox (s : State) (c : Nat) (f : Core → Core) : (s.onCore c f).inbox = s.inbox := rfl
@[simp] theorem State.onCore_links (s : State) (c : Nat) (f : Core → Core) : (s.onCore c f).links = s.links := rfl
@[simp] theorem State.onCore_jobs (s : State) (c : Nat) (f : Core → Core) : (s.onCore c f).jobs = s.jobs := rfl
@[simp] theorem State.onCore_endedParts (s : State) (c : Nat) (f : Core → Core) : (s.onCore c f).endedParts = s.endedParts := rfl
@[simp] theorem State.onCore_nextId (s : State) (c : Nat) (f : Core → Core) : (s.onCore c f).nextId = s.nextId := rfl
@[simp] theorem State.onCore_draws (s : State) (c : Nat) (f : Core → Core) : (s.onCore c f).draws = s.draws := rfl
@[simp] theorem State.onCore_issue (s : State) (c : Nat) (f : Core → Core) : (s.onCore c f).issue = s.issue := rfl
@[simp] theorem State.onCore_enginesRest (s : State) (c : Nat) (f : Core → Core) : (s.onCore c f).enginesRest = s.enginesRest := rfl
@[simp] theorem State.onCore_agenda (s : State) (c : Nat) (f : Core → Core) : (s.onCore c f).agenda = s.agenda := rfl

@[simp] theorem State.job_setCore (s : State) (c : Nat) (k : Core) (j : Nat) : (s.setCore c k).job j = s.job j := rfl
@[simp] theorem State.job_onCore (s : State) (c : Nat) (f : Core → Core) (j : Nat) : (s.onCore c f).job j = s.job j := rfl

/-! ## Jobs and instances -/

@[simp] theorem State.job_setJob_same (s : State) (j : Nat) (x : Job) : (s.setJob j x).job j = x := by simp [State.job, State.setJob]

@[simp] theorem State.job?_setJob_same (s : State) (j : Nat) (x : Job) : (s.setJob j x).job? j = some x := by
  simp [State.job?, State.setJob]

theorem State.job_setJob_ne (s : State) (j i : Nat) (x : Job) (h : i ≠ j) : (s.setJob j x).job i = s.job i := by
  simp [State.job, State.setJob, Table.getD_put_ne _ _ _ _ _ h]

theorem State.job?_onJob_same (s : State) (j : Nat) (f : Job → Job) : (s.onJob j f).job? j = (s.job? j).map f := by
  unfold State.onJob
  split <;> rename_i h <;> simp [h]

@[simp] theorem State.core_setJob (s : State) (j : Nat) (x : Job) (c : Nat) : (s.setJob j x).core c = s.core c := rfl

@[simp] theorem State.core_onJob (s : State) (j : Nat) (f : Job → Job) (c : Nat) : (s.onJob j f).core c = s.core c := by
  unfold State.onJob; split <;> rfl

@[simp] theorem State.core_onInst (s : State) (j i : Nat) (f : Instance → Instance) (c : Nat) :
    (s.onInst j i f).core c = s.core c := State.core_onJob ..

@[simp] theorem State.setJob_hkc (s : State) (j : Nat) (x : Job) : (s.setJob j x).hkc = s.hkc := rfl
@[simp] theorem State.setJob_host (s : State) (j : Nat) (x : Job) : (s.setJob j x).host = s.host := rfl
@[simp] theorem State.setJob_time (s : State) (j : Nat) (x : Job) : (s.setJob j x).time = s.time := rfl
@[simp] theorem State.setJob_clock (s : State) (j : Nat) (x : Job) : (s.setJob j x).clock = s.clock := rfl
@[simp] theorem State.setJob_clockRem (s : State) (j : Nat) (x : Job) : (s.setJob j x).clockRem = s.clockRem := rfl
@[simp] theorem State.setJob_mem (s : State) (j : Nat) (x : Job) : (s.setJob j x).mem = s.mem := rfl
@[simp] theorem State.setJob_poison (s : State) (j : Nat) (x : Job) : (s.setJob j x).poison = s.poison := rfl
@[simp] theorem State.setJob_floors (s : State) (j : Nat) (x : Job) : (s.setJob j x).floors = s.floors := rfl
@[simp] theorem State.setJob_rooms (s : State) (j : Nat) (x : Job) : (s.setJob j x).rooms = s.rooms := rfl
@[simp] theorem State.setJob_hostMem (s : State) (j : Nat) (x : Job) : (s.setJob j x).hostMem = s.hostMem := rfl
@[simp] theorem State.setJob_attics (s : State) (j : Nat) (x : Job) : (s.setJob j x).attics = s.attics := rfl
@[simp] theorem State.setJob_tlbs (s : State) (j : Nat) (x : Job) : (s.setJob j x).tlbs = s.tlbs := rfl
@[simp] theorem State.setJob_faults (s : State) (j : Nat) (x : Job) : (s.setJob j x).faults = s.faults := rfl
@[simp] theorem State.setJob_faultBuf (s : State) (j : Nat) (x : Job) : (s.setJob j x).faultBuf = s.faultBuf := rfl
@[simp] theorem State.setJob_faultSeq (s : State) (j : Nat) (x : Job) : (s.setJob j x).faultSeq = s.faultSeq := rfl
@[simp] theorem State.setJob_memReqs (s : State) (j : Nat) (x : Job) : (s.setJob j x).memReqs = s.memReqs := rfl
@[simp] theorem State.setJob_wc (s : State) (j : Nat) (x : Job) : (s.setJob j x).wc = s.wc := rfl
@[simp] theorem State.setJob_fabric (s : State) (j : Nat) (x : Job) : (s.setJob j x).fabric = s.fabric := rfl
@[simp] theorem State.setJob_posts (s : State) (j : Nat) (x : Job) : (s.setJob j x).posts = s.posts := rfl
@[simp] theorem State.setJob_cores (s : State) (j : Nat) (x : Job) : (s.setJob j x).cores = s.cores := rfl
@[simp] theorem State.setJob_mesh (s : State) (j : Nat) (x : Job) : (s.setJob j x).mesh = s.mesh := rfl
@[simp] theorem State.setJob_copies (s : State) (j : Nat) (x : Job) : (s.setJob j x).copies = s.copies := rfl
@[simp] theorem State.setJob_parts (s : State) (j : Nat) (x : Job) : (s.setJob j x).parts = s.parts := rfl
@[simp] theorem State.setJob_routeWork (s : State) (j : Nat) (x : Job) : (s.setJob j x).routeWork = s.routeWork := rfl
@[simp] theorem State.setJob_inbox (s : State) (j : Nat) (x : Job) : (s.setJob j x).inbox = s.inbox := rfl
@[simp] theorem State.setJob_links (s : State) (j : Nat) (x : Job) : (s.setJob j x).links = s.links := rfl
@[simp] theorem State.setJob_endedParts (s : State) (j : Nat) (x : Job) : (s.setJob j x).endedParts = s.endedParts := rfl
@[simp] theorem State.setJob_nextId (s : State) (j : Nat) (x : Job) : (s.setJob j x).nextId = s.nextId := rfl
@[simp] theorem State.setJob_draws (s : State) (j : Nat) (x : Job) : (s.setJob j x).draws = s.draws := rfl
@[simp] theorem State.setJob_issue (s : State) (j : Nat) (x : Job) : (s.setJob j x).issue = s.issue := rfl
@[simp] theorem State.setJob_enginesRest (s : State) (j : Nat) (x : Job) : (s.setJob j x).enginesRest = s.enginesRest := rfl
@[simp] theorem State.setJob_agenda (s : State) (j : Nat) (x : Job) : (s.setJob j x).agenda = s.agenda := rfl

@[simp] theorem State.onJob_hkc (s : State) (j : Nat) (f : Job → Job) : (s.onJob j f).hkc = s.hkc := by unfold State.onJob; split <;> rfl
@[simp] theorem State.onJob_host (s : State) (j : Nat) (f : Job → Job) : (s.onJob j f).host = s.host := by unfold State.onJob; split <;> rfl
@[simp] theorem State.onJob_time (s : State) (j : Nat) (f : Job → Job) : (s.onJob j f).time = s.time := by unfold State.onJob; split <;> rfl
@[simp] theorem State.onJob_clock (s : State) (j : Nat) (f : Job → Job) : (s.onJob j f).clock = s.clock := by unfold State.onJob; split <;> rfl
@[simp] theorem State.onJob_clockRem (s : State) (j : Nat) (f : Job → Job) : (s.onJob j f).clockRem = s.clockRem := by unfold State.onJob; split <;> rfl
@[simp] theorem State.onJob_mem (s : State) (j : Nat) (f : Job → Job) : (s.onJob j f).mem = s.mem := by unfold State.onJob; split <;> rfl
@[simp] theorem State.onJob_poison (s : State) (j : Nat) (f : Job → Job) : (s.onJob j f).poison = s.poison := by unfold State.onJob; split <;> rfl
@[simp] theorem State.onJob_floors (s : State) (j : Nat) (f : Job → Job) : (s.onJob j f).floors = s.floors := by unfold State.onJob; split <;> rfl
@[simp] theorem State.onJob_rooms (s : State) (j : Nat) (f : Job → Job) : (s.onJob j f).rooms = s.rooms := by unfold State.onJob; split <;> rfl
@[simp] theorem State.onJob_hostMem (s : State) (j : Nat) (f : Job → Job) : (s.onJob j f).hostMem = s.hostMem := by unfold State.onJob; split <;> rfl
@[simp] theorem State.onJob_attics (s : State) (j : Nat) (f : Job → Job) : (s.onJob j f).attics = s.attics := by unfold State.onJob; split <;> rfl
@[simp] theorem State.onJob_tlbs (s : State) (j : Nat) (f : Job → Job) : (s.onJob j f).tlbs = s.tlbs := by unfold State.onJob; split <;> rfl
@[simp] theorem State.onJob_faults (s : State) (j : Nat) (f : Job → Job) : (s.onJob j f).faults = s.faults := by unfold State.onJob; split <;> rfl
@[simp] theorem State.onJob_faultBuf (s : State) (j : Nat) (f : Job → Job) : (s.onJob j f).faultBuf = s.faultBuf := by unfold State.onJob; split <;> rfl
@[simp] theorem State.onJob_faultSeq (s : State) (j : Nat) (f : Job → Job) : (s.onJob j f).faultSeq = s.faultSeq := by unfold State.onJob; split <;> rfl
@[simp] theorem State.onJob_memReqs (s : State) (j : Nat) (f : Job → Job) : (s.onJob j f).memReqs = s.memReqs := by unfold State.onJob; split <;> rfl
@[simp] theorem State.onJob_wc (s : State) (j : Nat) (f : Job → Job) : (s.onJob j f).wc = s.wc := by unfold State.onJob; split <;> rfl
@[simp] theorem State.onJob_fabric (s : State) (j : Nat) (f : Job → Job) : (s.onJob j f).fabric = s.fabric := by unfold State.onJob; split <;> rfl
@[simp] theorem State.onJob_posts (s : State) (j : Nat) (f : Job → Job) : (s.onJob j f).posts = s.posts := by unfold State.onJob; split <;> rfl
@[simp] theorem State.onJob_cores (s : State) (j : Nat) (f : Job → Job) : (s.onJob j f).cores = s.cores := by unfold State.onJob; split <;> rfl
@[simp] theorem State.onJob_mesh (s : State) (j : Nat) (f : Job → Job) : (s.onJob j f).mesh = s.mesh := by unfold State.onJob; split <;> rfl
@[simp] theorem State.onJob_copies (s : State) (j : Nat) (f : Job → Job) : (s.onJob j f).copies = s.copies := by unfold State.onJob; split <;> rfl
@[simp] theorem State.onJob_parts (s : State) (j : Nat) (f : Job → Job) : (s.onJob j f).parts = s.parts := by unfold State.onJob; split <;> rfl
@[simp] theorem State.onJob_routeWork (s : State) (j : Nat) (f : Job → Job) : (s.onJob j f).routeWork = s.routeWork := by unfold State.onJob; split <;> rfl
@[simp] theorem State.onJob_inbox (s : State) (j : Nat) (f : Job → Job) : (s.onJob j f).inbox = s.inbox := by unfold State.onJob; split <;> rfl
@[simp] theorem State.onJob_links (s : State) (j : Nat) (f : Job → Job) : (s.onJob j f).links = s.links := by unfold State.onJob; split <;> rfl
@[simp] theorem State.onJob_endedParts (s : State) (j : Nat) (f : Job → Job) : (s.onJob j f).endedParts = s.endedParts := by unfold State.onJob; split <;> rfl
@[simp] theorem State.onJob_nextId (s : State) (j : Nat) (f : Job → Job) : (s.onJob j f).nextId = s.nextId := by unfold State.onJob; split <;> rfl
@[simp] theorem State.onJob_draws (s : State) (j : Nat) (f : Job → Job) : (s.onJob j f).draws = s.draws := by unfold State.onJob; split <;> rfl
@[simp] theorem State.onJob_issue (s : State) (j : Nat) (f : Job → Job) : (s.onJob j f).issue = s.issue := by unfold State.onJob; split <;> rfl
@[simp] theorem State.onJob_enginesRest (s : State) (j : Nat) (f : Job → Job) : (s.onJob j f).enginesRest = s.enginesRest := by unfold State.onJob; split <;> rfl
@[simp] theorem State.onJob_agenda (s : State) (j : Nat) (f : Job → Job) : (s.onJob j f).agenda = s.agenda := by unfold State.onJob; split <;> rfl

@[simp] theorem State.onInst_hkc (s : State) (j i : Nat) (f : Instance → Instance) : (s.onInst j i f).hkc = s.hkc := State.onJob_hkc ..
@[simp] theorem State.onInst_host (s : State) (j i : Nat) (f : Instance → Instance) : (s.onInst j i f).host = s.host := State.onJob_host ..
@[simp] theorem State.onInst_time (s : State) (j i : Nat) (f : Instance → Instance) : (s.onInst j i f).time = s.time := State.onJob_time ..
@[simp] theorem State.onInst_clock (s : State) (j i : Nat) (f : Instance → Instance) : (s.onInst j i f).clock = s.clock := State.onJob_clock ..
@[simp] theorem State.onInst_clockRem (s : State) (j i : Nat) (f : Instance → Instance) : (s.onInst j i f).clockRem = s.clockRem := State.onJob_clockRem ..
@[simp] theorem State.onInst_mem (s : State) (j i : Nat) (f : Instance → Instance) : (s.onInst j i f).mem = s.mem := State.onJob_mem ..
@[simp] theorem State.onInst_poison (s : State) (j i : Nat) (f : Instance → Instance) : (s.onInst j i f).poison = s.poison := State.onJob_poison ..
@[simp] theorem State.onInst_floors (s : State) (j i : Nat) (f : Instance → Instance) : (s.onInst j i f).floors = s.floors := State.onJob_floors ..
@[simp] theorem State.onInst_rooms (s : State) (j i : Nat) (f : Instance → Instance) : (s.onInst j i f).rooms = s.rooms := State.onJob_rooms ..
@[simp] theorem State.onInst_hostMem (s : State) (j i : Nat) (f : Instance → Instance) : (s.onInst j i f).hostMem = s.hostMem := State.onJob_hostMem ..
@[simp] theorem State.onInst_attics (s : State) (j i : Nat) (f : Instance → Instance) : (s.onInst j i f).attics = s.attics := State.onJob_attics ..
@[simp] theorem State.onInst_tlbs (s : State) (j i : Nat) (f : Instance → Instance) : (s.onInst j i f).tlbs = s.tlbs := State.onJob_tlbs ..
@[simp] theorem State.onInst_faults (s : State) (j i : Nat) (f : Instance → Instance) : (s.onInst j i f).faults = s.faults := State.onJob_faults ..
@[simp] theorem State.onInst_faultBuf (s : State) (j i : Nat) (f : Instance → Instance) : (s.onInst j i f).faultBuf = s.faultBuf := State.onJob_faultBuf ..
@[simp] theorem State.onInst_faultSeq (s : State) (j i : Nat) (f : Instance → Instance) : (s.onInst j i f).faultSeq = s.faultSeq := State.onJob_faultSeq ..
@[simp] theorem State.onInst_memReqs (s : State) (j i : Nat) (f : Instance → Instance) : (s.onInst j i f).memReqs = s.memReqs := State.onJob_memReqs ..
@[simp] theorem State.onInst_wc (s : State) (j i : Nat) (f : Instance → Instance) : (s.onInst j i f).wc = s.wc := State.onJob_wc ..
@[simp] theorem State.onInst_fabric (s : State) (j i : Nat) (f : Instance → Instance) : (s.onInst j i f).fabric = s.fabric := State.onJob_fabric ..
@[simp] theorem State.onInst_posts (s : State) (j i : Nat) (f : Instance → Instance) : (s.onInst j i f).posts = s.posts := State.onJob_posts ..
@[simp] theorem State.onInst_cores (s : State) (j i : Nat) (f : Instance → Instance) : (s.onInst j i f).cores = s.cores := State.onJob_cores ..
@[simp] theorem State.onInst_mesh (s : State) (j i : Nat) (f : Instance → Instance) : (s.onInst j i f).mesh = s.mesh := State.onJob_mesh ..
@[simp] theorem State.onInst_copies (s : State) (j i : Nat) (f : Instance → Instance) : (s.onInst j i f).copies = s.copies := State.onJob_copies ..
@[simp] theorem State.onInst_parts (s : State) (j i : Nat) (f : Instance → Instance) : (s.onInst j i f).parts = s.parts := State.onJob_parts ..
@[simp] theorem State.onInst_routeWork (s : State) (j i : Nat) (f : Instance → Instance) : (s.onInst j i f).routeWork = s.routeWork := State.onJob_routeWork ..
@[simp] theorem State.onInst_inbox (s : State) (j i : Nat) (f : Instance → Instance) : (s.onInst j i f).inbox = s.inbox := State.onJob_inbox ..
@[simp] theorem State.onInst_links (s : State) (j i : Nat) (f : Instance → Instance) : (s.onInst j i f).links = s.links := State.onJob_links ..
@[simp] theorem State.onInst_endedParts (s : State) (j i : Nat) (f : Instance → Instance) : (s.onInst j i f).endedParts = s.endedParts := State.onJob_endedParts ..
@[simp] theorem State.onInst_nextId (s : State) (j i : Nat) (f : Instance → Instance) : (s.onInst j i f).nextId = s.nextId := State.onJob_nextId ..
@[simp] theorem State.onInst_draws (s : State) (j i : Nat) (f : Instance → Instance) : (s.onInst j i f).draws = s.draws := State.onJob_draws ..
@[simp] theorem State.onInst_issue (s : State) (j i : Nat) (f : Instance → Instance) : (s.onInst j i f).issue = s.issue := State.onJob_issue ..
@[simp] theorem State.onInst_enginesRest (s : State) (j i : Nat) (f : Instance → Instance) : (s.onInst j i f).enginesRest = s.enginesRest := State.onJob_enginesRest ..
@[simp] theorem State.onInst_agenda (s : State) (j i : Nat) (f : Instance → Instance) : (s.onInst j i f).agenda = s.agenda := State.onJob_agenda ..

/-! ## The host interface, the housekeeping controller, links, draws and ids -/

@[simp] theorem State.queue_setQueue_same (s : State) (q : Nat) (x : Queue) : (s.setQueue q x).queue q = x := by
  simp [State.queue, State.setQueue]

@[simp] theorem State.setQueue_hkc (s : State) (q : Nat) (x : Queue) : (s.setQueue q x).hkc = s.hkc := rfl
@[simp] theorem State.setQueue_time (s : State) (q : Nat) (x : Queue) : (s.setQueue q x).time = s.time := rfl
@[simp] theorem State.setQueue_clock (s : State) (q : Nat) (x : Queue) : (s.setQueue q x).clock = s.clock := rfl
@[simp] theorem State.setQueue_clockRem (s : State) (q : Nat) (x : Queue) : (s.setQueue q x).clockRem = s.clockRem := rfl
@[simp] theorem State.setQueue_mem (s : State) (q : Nat) (x : Queue) : (s.setQueue q x).mem = s.mem := rfl
@[simp] theorem State.setQueue_poison (s : State) (q : Nat) (x : Queue) : (s.setQueue q x).poison = s.poison := rfl
@[simp] theorem State.setQueue_floors (s : State) (q : Nat) (x : Queue) : (s.setQueue q x).floors = s.floors := rfl
@[simp] theorem State.setQueue_rooms (s : State) (q : Nat) (x : Queue) : (s.setQueue q x).rooms = s.rooms := rfl
@[simp] theorem State.setQueue_hostMem (s : State) (q : Nat) (x : Queue) : (s.setQueue q x).hostMem = s.hostMem := rfl
@[simp] theorem State.setQueue_attics (s : State) (q : Nat) (x : Queue) : (s.setQueue q x).attics = s.attics := rfl
@[simp] theorem State.setQueue_tlbs (s : State) (q : Nat) (x : Queue) : (s.setQueue q x).tlbs = s.tlbs := rfl
@[simp] theorem State.setQueue_faults (s : State) (q : Nat) (x : Queue) : (s.setQueue q x).faults = s.faults := rfl
@[simp] theorem State.setQueue_faultBuf (s : State) (q : Nat) (x : Queue) : (s.setQueue q x).faultBuf = s.faultBuf := rfl
@[simp] theorem State.setQueue_faultSeq (s : State) (q : Nat) (x : Queue) : (s.setQueue q x).faultSeq = s.faultSeq := rfl
@[simp] theorem State.setQueue_memReqs (s : State) (q : Nat) (x : Queue) : (s.setQueue q x).memReqs = s.memReqs := rfl
@[simp] theorem State.setQueue_wc (s : State) (q : Nat) (x : Queue) : (s.setQueue q x).wc = s.wc := rfl
@[simp] theorem State.setQueue_fabric (s : State) (q : Nat) (x : Queue) : (s.setQueue q x).fabric = s.fabric := rfl
@[simp] theorem State.setQueue_posts (s : State) (q : Nat) (x : Queue) : (s.setQueue q x).posts = s.posts := rfl
@[simp] theorem State.setQueue_cores (s : State) (q : Nat) (x : Queue) : (s.setQueue q x).cores = s.cores := rfl
@[simp] theorem State.setQueue_mesh (s : State) (q : Nat) (x : Queue) : (s.setQueue q x).mesh = s.mesh := rfl
@[simp] theorem State.setQueue_copies (s : State) (q : Nat) (x : Queue) : (s.setQueue q x).copies = s.copies := rfl
@[simp] theorem State.setQueue_parts (s : State) (q : Nat) (x : Queue) : (s.setQueue q x).parts = s.parts := rfl
@[simp] theorem State.setQueue_routeWork (s : State) (q : Nat) (x : Queue) : (s.setQueue q x).routeWork = s.routeWork := rfl
@[simp] theorem State.setQueue_inbox (s : State) (q : Nat) (x : Queue) : (s.setQueue q x).inbox = s.inbox := rfl
@[simp] theorem State.setQueue_links (s : State) (q : Nat) (x : Queue) : (s.setQueue q x).links = s.links := rfl
@[simp] theorem State.setQueue_jobs (s : State) (q : Nat) (x : Queue) : (s.setQueue q x).jobs = s.jobs := rfl
@[simp] theorem State.setQueue_endedParts (s : State) (q : Nat) (x : Queue) : (s.setQueue q x).endedParts = s.endedParts := rfl
@[simp] theorem State.setQueue_nextId (s : State) (q : Nat) (x : Queue) : (s.setQueue q x).nextId = s.nextId := rfl
@[simp] theorem State.setQueue_draws (s : State) (q : Nat) (x : Queue) : (s.setQueue q x).draws = s.draws := rfl
@[simp] theorem State.setQueue_issue (s : State) (q : Nat) (x : Queue) : (s.setQueue q x).issue = s.issue := rfl
@[simp] theorem State.setQueue_enginesRest (s : State) (q : Nat) (x : Queue) : (s.setQueue q x).enginesRest = s.enginesRest := rfl
@[simp] theorem State.setQueue_agenda (s : State) (q : Nat) (x : Queue) : (s.setQueue q x).agenda = s.agenda := rfl

@[simp] theorem State.onRing_hkc (s : State) (f : EventRing → EventRing) : (s.onRing f).hkc = s.hkc := rfl
@[simp] theorem State.onRing_time (s : State) (f : EventRing → EventRing) : (s.onRing f).time = s.time := rfl
@[simp] theorem State.onRing_clock (s : State) (f : EventRing → EventRing) : (s.onRing f).clock = s.clock := rfl
@[simp] theorem State.onRing_clockRem (s : State) (f : EventRing → EventRing) : (s.onRing f).clockRem = s.clockRem := rfl
@[simp] theorem State.onRing_mem (s : State) (f : EventRing → EventRing) : (s.onRing f).mem = s.mem := rfl
@[simp] theorem State.onRing_poison (s : State) (f : EventRing → EventRing) : (s.onRing f).poison = s.poison := rfl
@[simp] theorem State.onRing_floors (s : State) (f : EventRing → EventRing) : (s.onRing f).floors = s.floors := rfl
@[simp] theorem State.onRing_rooms (s : State) (f : EventRing → EventRing) : (s.onRing f).rooms = s.rooms := rfl
@[simp] theorem State.onRing_hostMem (s : State) (f : EventRing → EventRing) : (s.onRing f).hostMem = s.hostMem := rfl
@[simp] theorem State.onRing_attics (s : State) (f : EventRing → EventRing) : (s.onRing f).attics = s.attics := rfl
@[simp] theorem State.onRing_tlbs (s : State) (f : EventRing → EventRing) : (s.onRing f).tlbs = s.tlbs := rfl
@[simp] theorem State.onRing_faults (s : State) (f : EventRing → EventRing) : (s.onRing f).faults = s.faults := rfl
@[simp] theorem State.onRing_faultBuf (s : State) (f : EventRing → EventRing) : (s.onRing f).faultBuf = s.faultBuf := rfl
@[simp] theorem State.onRing_faultSeq (s : State) (f : EventRing → EventRing) : (s.onRing f).faultSeq = s.faultSeq := rfl
@[simp] theorem State.onRing_memReqs (s : State) (f : EventRing → EventRing) : (s.onRing f).memReqs = s.memReqs := rfl
@[simp] theorem State.onRing_wc (s : State) (f : EventRing → EventRing) : (s.onRing f).wc = s.wc := rfl
@[simp] theorem State.onRing_fabric (s : State) (f : EventRing → EventRing) : (s.onRing f).fabric = s.fabric := rfl
@[simp] theorem State.onRing_posts (s : State) (f : EventRing → EventRing) : (s.onRing f).posts = s.posts := rfl
@[simp] theorem State.onRing_cores (s : State) (f : EventRing → EventRing) : (s.onRing f).cores = s.cores := rfl
@[simp] theorem State.onRing_mesh (s : State) (f : EventRing → EventRing) : (s.onRing f).mesh = s.mesh := rfl
@[simp] theorem State.onRing_copies (s : State) (f : EventRing → EventRing) : (s.onRing f).copies = s.copies := rfl
@[simp] theorem State.onRing_parts (s : State) (f : EventRing → EventRing) : (s.onRing f).parts = s.parts := rfl
@[simp] theorem State.onRing_routeWork (s : State) (f : EventRing → EventRing) : (s.onRing f).routeWork = s.routeWork := rfl
@[simp] theorem State.onRing_inbox (s : State) (f : EventRing → EventRing) : (s.onRing f).inbox = s.inbox := rfl
@[simp] theorem State.onRing_links (s : State) (f : EventRing → EventRing) : (s.onRing f).links = s.links := rfl
@[simp] theorem State.onRing_jobs (s : State) (f : EventRing → EventRing) : (s.onRing f).jobs = s.jobs := rfl
@[simp] theorem State.onRing_endedParts (s : State) (f : EventRing → EventRing) : (s.onRing f).endedParts = s.endedParts := rfl
@[simp] theorem State.onRing_nextId (s : State) (f : EventRing → EventRing) : (s.onRing f).nextId = s.nextId := rfl
@[simp] theorem State.onRing_draws (s : State) (f : EventRing → EventRing) : (s.onRing f).draws = s.draws := rfl
@[simp] theorem State.onRing_issue (s : State) (f : EventRing → EventRing) : (s.onRing f).issue = s.issue := rfl
@[simp] theorem State.onRing_enginesRest (s : State) (f : EventRing → EventRing) : (s.onRing f).enginesRest = s.enginesRest := rfl
@[simp] theorem State.onRing_agenda (s : State) (f : EventRing → EventRing) : (s.onRing f).agenda = s.agenda := rfl

@[simp] theorem State.setPort_hkc (s : State) (n : Nat) (p : CxlPort) : (s.setPort n p).hkc = s.hkc := rfl
@[simp] theorem State.setPort_time (s : State) (n : Nat) (p : CxlPort) : (s.setPort n p).time = s.time := rfl
@[simp] theorem State.setPort_clock (s : State) (n : Nat) (p : CxlPort) : (s.setPort n p).clock = s.clock := rfl
@[simp] theorem State.setPort_clockRem (s : State) (n : Nat) (p : CxlPort) : (s.setPort n p).clockRem = s.clockRem := rfl
@[simp] theorem State.setPort_mem (s : State) (n : Nat) (p : CxlPort) : (s.setPort n p).mem = s.mem := rfl
@[simp] theorem State.setPort_poison (s : State) (n : Nat) (p : CxlPort) : (s.setPort n p).poison = s.poison := rfl
@[simp] theorem State.setPort_floors (s : State) (n : Nat) (p : CxlPort) : (s.setPort n p).floors = s.floors := rfl
@[simp] theorem State.setPort_rooms (s : State) (n : Nat) (p : CxlPort) : (s.setPort n p).rooms = s.rooms := rfl
@[simp] theorem State.setPort_hostMem (s : State) (n : Nat) (p : CxlPort) : (s.setPort n p).hostMem = s.hostMem := rfl
@[simp] theorem State.setPort_attics (s : State) (n : Nat) (p : CxlPort) : (s.setPort n p).attics = s.attics := rfl
@[simp] theorem State.setPort_tlbs (s : State) (n : Nat) (p : CxlPort) : (s.setPort n p).tlbs = s.tlbs := rfl
@[simp] theorem State.setPort_faults (s : State) (n : Nat) (p : CxlPort) : (s.setPort n p).faults = s.faults := rfl
@[simp] theorem State.setPort_faultBuf (s : State) (n : Nat) (p : CxlPort) : (s.setPort n p).faultBuf = s.faultBuf := rfl
@[simp] theorem State.setPort_faultSeq (s : State) (n : Nat) (p : CxlPort) : (s.setPort n p).faultSeq = s.faultSeq := rfl
@[simp] theorem State.setPort_memReqs (s : State) (n : Nat) (p : CxlPort) : (s.setPort n p).memReqs = s.memReqs := rfl
@[simp] theorem State.setPort_wc (s : State) (n : Nat) (p : CxlPort) : (s.setPort n p).wc = s.wc := rfl
@[simp] theorem State.setPort_fabric (s : State) (n : Nat) (p : CxlPort) : (s.setPort n p).fabric = s.fabric := rfl
@[simp] theorem State.setPort_posts (s : State) (n : Nat) (p : CxlPort) : (s.setPort n p).posts = s.posts := rfl
@[simp] theorem State.setPort_cores (s : State) (n : Nat) (p : CxlPort) : (s.setPort n p).cores = s.cores := rfl
@[simp] theorem State.setPort_mesh (s : State) (n : Nat) (p : CxlPort) : (s.setPort n p).mesh = s.mesh := rfl
@[simp] theorem State.setPort_copies (s : State) (n : Nat) (p : CxlPort) : (s.setPort n p).copies = s.copies := rfl
@[simp] theorem State.setPort_parts (s : State) (n : Nat) (p : CxlPort) : (s.setPort n p).parts = s.parts := rfl
@[simp] theorem State.setPort_routeWork (s : State) (n : Nat) (p : CxlPort) : (s.setPort n p).routeWork = s.routeWork := rfl
@[simp] theorem State.setPort_inbox (s : State) (n : Nat) (p : CxlPort) : (s.setPort n p).inbox = s.inbox := rfl
@[simp] theorem State.setPort_links (s : State) (n : Nat) (p : CxlPort) : (s.setPort n p).links = s.links := rfl
@[simp] theorem State.setPort_jobs (s : State) (n : Nat) (p : CxlPort) : (s.setPort n p).jobs = s.jobs := rfl
@[simp] theorem State.setPort_endedParts (s : State) (n : Nat) (p : CxlPort) : (s.setPort n p).endedParts = s.endedParts := rfl
@[simp] theorem State.setPort_nextId (s : State) (n : Nat) (p : CxlPort) : (s.setPort n p).nextId = s.nextId := rfl
@[simp] theorem State.setPort_draws (s : State) (n : Nat) (p : CxlPort) : (s.setPort n p).draws = s.draws := rfl
@[simp] theorem State.setPort_issue (s : State) (n : Nat) (p : CxlPort) : (s.setPort n p).issue = s.issue := rfl
@[simp] theorem State.setPort_enginesRest (s : State) (n : Nat) (p : CxlPort) : (s.setPort n p).enginesRest = s.enginesRest := rfl
@[simp] theorem State.setPort_agenda (s : State) (n : Nat) (p : CxlPort) : (s.setPort n p).agenda = s.agenda := rfl

@[simp] theorem State.onHkc_hkc (s : State) (f : Hkc → Hkc) : (s.onHkc f).hkc = f s.hkc := rfl
@[simp] theorem State.onHkc_host (s : State) (f : Hkc → Hkc) : (s.onHkc f).host = s.host := rfl
@[simp] theorem State.onHkc_time (s : State) (f : Hkc → Hkc) : (s.onHkc f).time = s.time := rfl
@[simp] theorem State.onHkc_clock (s : State) (f : Hkc → Hkc) : (s.onHkc f).clock = s.clock := rfl
@[simp] theorem State.onHkc_clockRem (s : State) (f : Hkc → Hkc) : (s.onHkc f).clockRem = s.clockRem := rfl
@[simp] theorem State.onHkc_mem (s : State) (f : Hkc → Hkc) : (s.onHkc f).mem = s.mem := rfl
@[simp] theorem State.onHkc_poison (s : State) (f : Hkc → Hkc) : (s.onHkc f).poison = s.poison := rfl
@[simp] theorem State.onHkc_floors (s : State) (f : Hkc → Hkc) : (s.onHkc f).floors = s.floors := rfl
@[simp] theorem State.onHkc_rooms (s : State) (f : Hkc → Hkc) : (s.onHkc f).rooms = s.rooms := rfl
@[simp] theorem State.onHkc_hostMem (s : State) (f : Hkc → Hkc) : (s.onHkc f).hostMem = s.hostMem := rfl
@[simp] theorem State.onHkc_attics (s : State) (f : Hkc → Hkc) : (s.onHkc f).attics = s.attics := rfl
@[simp] theorem State.onHkc_tlbs (s : State) (f : Hkc → Hkc) : (s.onHkc f).tlbs = s.tlbs := rfl
@[simp] theorem State.onHkc_faults (s : State) (f : Hkc → Hkc) : (s.onHkc f).faults = s.faults := rfl
@[simp] theorem State.onHkc_faultBuf (s : State) (f : Hkc → Hkc) : (s.onHkc f).faultBuf = s.faultBuf := rfl
@[simp] theorem State.onHkc_faultSeq (s : State) (f : Hkc → Hkc) : (s.onHkc f).faultSeq = s.faultSeq := rfl
@[simp] theorem State.onHkc_memReqs (s : State) (f : Hkc → Hkc) : (s.onHkc f).memReqs = s.memReqs := rfl
@[simp] theorem State.onHkc_wc (s : State) (f : Hkc → Hkc) : (s.onHkc f).wc = s.wc := rfl
@[simp] theorem State.onHkc_fabric (s : State) (f : Hkc → Hkc) : (s.onHkc f).fabric = s.fabric := rfl
@[simp] theorem State.onHkc_posts (s : State) (f : Hkc → Hkc) : (s.onHkc f).posts = s.posts := rfl
@[simp] theorem State.onHkc_cores (s : State) (f : Hkc → Hkc) : (s.onHkc f).cores = s.cores := rfl
@[simp] theorem State.onHkc_mesh (s : State) (f : Hkc → Hkc) : (s.onHkc f).mesh = s.mesh := rfl
@[simp] theorem State.onHkc_copies (s : State) (f : Hkc → Hkc) : (s.onHkc f).copies = s.copies := rfl
@[simp] theorem State.onHkc_parts (s : State) (f : Hkc → Hkc) : (s.onHkc f).parts = s.parts := rfl
@[simp] theorem State.onHkc_routeWork (s : State) (f : Hkc → Hkc) : (s.onHkc f).routeWork = s.routeWork := rfl
@[simp] theorem State.onHkc_inbox (s : State) (f : Hkc → Hkc) : (s.onHkc f).inbox = s.inbox := rfl
@[simp] theorem State.onHkc_links (s : State) (f : Hkc → Hkc) : (s.onHkc f).links = s.links := rfl
@[simp] theorem State.onHkc_jobs (s : State) (f : Hkc → Hkc) : (s.onHkc f).jobs = s.jobs := rfl
@[simp] theorem State.onHkc_endedParts (s : State) (f : Hkc → Hkc) : (s.onHkc f).endedParts = s.endedParts := rfl
@[simp] theorem State.onHkc_nextId (s : State) (f : Hkc → Hkc) : (s.onHkc f).nextId = s.nextId := rfl
@[simp] theorem State.onHkc_draws (s : State) (f : Hkc → Hkc) : (s.onHkc f).draws = s.draws := rfl
@[simp] theorem State.onHkc_issue (s : State) (f : Hkc → Hkc) : (s.onHkc f).issue = s.issue := rfl
@[simp] theorem State.onHkc_enginesRest (s : State) (f : Hkc → Hkc) : (s.onHkc f).enginesRest = s.enginesRest := rfl
@[simp] theorem State.onHkc_agenda (s : State) (f : Hkc → Hkc) : (s.onHkc f).agenda = s.agenda := rfl

@[simp] theorem State.link_onLink_same (s : State) (n : Nat) (f : Link → Link) : (s.onLink n f).link n = f (s.link n) := by
  simp [State.link, State.onLink]

@[simp] theorem State.onLink_hkc (s : State) (n : Nat) (f : Link → Link) : (s.onLink n f).hkc = s.hkc := rfl
@[simp] theorem State.onLink_host (s : State) (n : Nat) (f : Link → Link) : (s.onLink n f).host = s.host := rfl
@[simp] theorem State.onLink_time (s : State) (n : Nat) (f : Link → Link) : (s.onLink n f).time = s.time := rfl
@[simp] theorem State.onLink_clock (s : State) (n : Nat) (f : Link → Link) : (s.onLink n f).clock = s.clock := rfl
@[simp] theorem State.onLink_clockRem (s : State) (n : Nat) (f : Link → Link) : (s.onLink n f).clockRem = s.clockRem := rfl
@[simp] theorem State.onLink_mem (s : State) (n : Nat) (f : Link → Link) : (s.onLink n f).mem = s.mem := rfl
@[simp] theorem State.onLink_poison (s : State) (n : Nat) (f : Link → Link) : (s.onLink n f).poison = s.poison := rfl
@[simp] theorem State.onLink_floors (s : State) (n : Nat) (f : Link → Link) : (s.onLink n f).floors = s.floors := rfl
@[simp] theorem State.onLink_rooms (s : State) (n : Nat) (f : Link → Link) : (s.onLink n f).rooms = s.rooms := rfl
@[simp] theorem State.onLink_hostMem (s : State) (n : Nat) (f : Link → Link) : (s.onLink n f).hostMem = s.hostMem := rfl
@[simp] theorem State.onLink_attics (s : State) (n : Nat) (f : Link → Link) : (s.onLink n f).attics = s.attics := rfl
@[simp] theorem State.onLink_tlbs (s : State) (n : Nat) (f : Link → Link) : (s.onLink n f).tlbs = s.tlbs := rfl
@[simp] theorem State.onLink_faults (s : State) (n : Nat) (f : Link → Link) : (s.onLink n f).faults = s.faults := rfl
@[simp] theorem State.onLink_faultBuf (s : State) (n : Nat) (f : Link → Link) : (s.onLink n f).faultBuf = s.faultBuf := rfl
@[simp] theorem State.onLink_faultSeq (s : State) (n : Nat) (f : Link → Link) : (s.onLink n f).faultSeq = s.faultSeq := rfl
@[simp] theorem State.onLink_memReqs (s : State) (n : Nat) (f : Link → Link) : (s.onLink n f).memReqs = s.memReqs := rfl
@[simp] theorem State.onLink_wc (s : State) (n : Nat) (f : Link → Link) : (s.onLink n f).wc = s.wc := rfl
@[simp] theorem State.onLink_fabric (s : State) (n : Nat) (f : Link → Link) : (s.onLink n f).fabric = s.fabric := rfl
@[simp] theorem State.onLink_posts (s : State) (n : Nat) (f : Link → Link) : (s.onLink n f).posts = s.posts := rfl
@[simp] theorem State.onLink_cores (s : State) (n : Nat) (f : Link → Link) : (s.onLink n f).cores = s.cores := rfl
@[simp] theorem State.onLink_mesh (s : State) (n : Nat) (f : Link → Link) : (s.onLink n f).mesh = s.mesh := rfl
@[simp] theorem State.onLink_copies (s : State) (n : Nat) (f : Link → Link) : (s.onLink n f).copies = s.copies := rfl
@[simp] theorem State.onLink_parts (s : State) (n : Nat) (f : Link → Link) : (s.onLink n f).parts = s.parts := rfl
@[simp] theorem State.onLink_routeWork (s : State) (n : Nat) (f : Link → Link) : (s.onLink n f).routeWork = s.routeWork := rfl
@[simp] theorem State.onLink_inbox (s : State) (n : Nat) (f : Link → Link) : (s.onLink n f).inbox = s.inbox := rfl
@[simp] theorem State.onLink_jobs (s : State) (n : Nat) (f : Link → Link) : (s.onLink n f).jobs = s.jobs := rfl
@[simp] theorem State.onLink_endedParts (s : State) (n : Nat) (f : Link → Link) : (s.onLink n f).endedParts = s.endedParts := rfl
@[simp] theorem State.onLink_nextId (s : State) (n : Nat) (f : Link → Link) : (s.onLink n f).nextId = s.nextId := rfl
@[simp] theorem State.onLink_draws (s : State) (n : Nat) (f : Link → Link) : (s.onLink n f).draws = s.draws := rfl
@[simp] theorem State.onLink_issue (s : State) (n : Nat) (f : Link → Link) : (s.onLink n f).issue = s.issue := rfl
@[simp] theorem State.onLink_enginesRest (s : State) (n : Nat) (f : Link → Link) : (s.onLink n f).enginesRest = s.enginesRest := rfl
@[simp] theorem State.onLink_agenda (s : State) (n : Nat) (f : Link → Link) : (s.onLink n f).agenda = s.agenda := rfl

@[simp] theorem State.draw_draws (s : State) : s.draw.1.draws = s.draws + 1 := rfl
@[simp] theorem State.draw_hkc (s : State)  : (s.draw.1).hkc = s.hkc := rfl
@[simp] theorem State.draw_host (s : State)  : (s.draw.1).host = s.host := rfl
@[simp] theorem State.draw_time (s : State)  : (s.draw.1).time = s.time := rfl
@[simp] theorem State.draw_clock (s : State)  : (s.draw.1).clock = s.clock := rfl
@[simp] theorem State.draw_clockRem (s : State)  : (s.draw.1).clockRem = s.clockRem := rfl
@[simp] theorem State.draw_mem (s : State)  : (s.draw.1).mem = s.mem := rfl
@[simp] theorem State.draw_poison (s : State)  : (s.draw.1).poison = s.poison := rfl
@[simp] theorem State.draw_floors (s : State)  : (s.draw.1).floors = s.floors := rfl
@[simp] theorem State.draw_rooms (s : State)  : (s.draw.1).rooms = s.rooms := rfl
@[simp] theorem State.draw_hostMem (s : State)  : (s.draw.1).hostMem = s.hostMem := rfl
@[simp] theorem State.draw_attics (s : State)  : (s.draw.1).attics = s.attics := rfl
@[simp] theorem State.draw_tlbs (s : State)  : (s.draw.1).tlbs = s.tlbs := rfl
@[simp] theorem State.draw_faults (s : State)  : (s.draw.1).faults = s.faults := rfl
@[simp] theorem State.draw_faultBuf (s : State)  : (s.draw.1).faultBuf = s.faultBuf := rfl
@[simp] theorem State.draw_faultSeq (s : State)  : (s.draw.1).faultSeq = s.faultSeq := rfl
@[simp] theorem State.draw_memReqs (s : State)  : (s.draw.1).memReqs = s.memReqs := rfl
@[simp] theorem State.draw_wc (s : State)  : (s.draw.1).wc = s.wc := rfl
@[simp] theorem State.draw_fabric (s : State)  : (s.draw.1).fabric = s.fabric := rfl
@[simp] theorem State.draw_posts (s : State)  : (s.draw.1).posts = s.posts := rfl
@[simp] theorem State.draw_cores (s : State)  : (s.draw.1).cores = s.cores := rfl
@[simp] theorem State.draw_mesh (s : State)  : (s.draw.1).mesh = s.mesh := rfl
@[simp] theorem State.draw_copies (s : State)  : (s.draw.1).copies = s.copies := rfl
@[simp] theorem State.draw_parts (s : State)  : (s.draw.1).parts = s.parts := rfl
@[simp] theorem State.draw_routeWork (s : State)  : (s.draw.1).routeWork = s.routeWork := rfl
@[simp] theorem State.draw_inbox (s : State)  : (s.draw.1).inbox = s.inbox := rfl
@[simp] theorem State.draw_links (s : State)  : (s.draw.1).links = s.links := rfl
@[simp] theorem State.draw_jobs (s : State)  : (s.draw.1).jobs = s.jobs := rfl
@[simp] theorem State.draw_endedParts (s : State)  : (s.draw.1).endedParts = s.endedParts := rfl
@[simp] theorem State.draw_nextId (s : State)  : (s.draw.1).nextId = s.nextId := rfl
@[simp] theorem State.draw_issue (s : State)  : (s.draw.1).issue = s.issue := rfl
@[simp] theorem State.draw_enginesRest (s : State)  : (s.draw.1).enginesRest = s.enginesRest := rfl
@[simp] theorem State.draw_agenda (s : State)  : (s.draw.1).agenda = s.agenda := rfl

@[simp] theorem State.fresh_nextId (s : State) : s.fresh.1.nextId = s.nextId + 1 := rfl
@[simp] theorem State.fresh_hkc (s : State)  : (s.fresh.1).hkc = s.hkc := rfl
@[simp] theorem State.fresh_host (s : State)  : (s.fresh.1).host = s.host := rfl
@[simp] theorem State.fresh_time (s : State)  : (s.fresh.1).time = s.time := rfl
@[simp] theorem State.fresh_clock (s : State)  : (s.fresh.1).clock = s.clock := rfl
@[simp] theorem State.fresh_clockRem (s : State)  : (s.fresh.1).clockRem = s.clockRem := rfl
@[simp] theorem State.fresh_mem (s : State)  : (s.fresh.1).mem = s.mem := rfl
@[simp] theorem State.fresh_poison (s : State)  : (s.fresh.1).poison = s.poison := rfl
@[simp] theorem State.fresh_floors (s : State)  : (s.fresh.1).floors = s.floors := rfl
@[simp] theorem State.fresh_rooms (s : State)  : (s.fresh.1).rooms = s.rooms := rfl
@[simp] theorem State.fresh_hostMem (s : State)  : (s.fresh.1).hostMem = s.hostMem := rfl
@[simp] theorem State.fresh_attics (s : State)  : (s.fresh.1).attics = s.attics := rfl
@[simp] theorem State.fresh_tlbs (s : State)  : (s.fresh.1).tlbs = s.tlbs := rfl
@[simp] theorem State.fresh_faults (s : State)  : (s.fresh.1).faults = s.faults := rfl
@[simp] theorem State.fresh_faultBuf (s : State)  : (s.fresh.1).faultBuf = s.faultBuf := rfl
@[simp] theorem State.fresh_faultSeq (s : State)  : (s.fresh.1).faultSeq = s.faultSeq := rfl
@[simp] theorem State.fresh_memReqs (s : State)  : (s.fresh.1).memReqs = s.memReqs := rfl
@[simp] theorem State.fresh_wc (s : State)  : (s.fresh.1).wc = s.wc := rfl
@[simp] theorem State.fresh_fabric (s : State)  : (s.fresh.1).fabric = s.fabric := rfl
@[simp] theorem State.fresh_posts (s : State)  : (s.fresh.1).posts = s.posts := rfl
@[simp] theorem State.fresh_cores (s : State)  : (s.fresh.1).cores = s.cores := rfl
@[simp] theorem State.fresh_mesh (s : State)  : (s.fresh.1).mesh = s.mesh := rfl
@[simp] theorem State.fresh_copies (s : State)  : (s.fresh.1).copies = s.copies := rfl
@[simp] theorem State.fresh_parts (s : State)  : (s.fresh.1).parts = s.parts := rfl
@[simp] theorem State.fresh_routeWork (s : State)  : (s.fresh.1).routeWork = s.routeWork := rfl
@[simp] theorem State.fresh_inbox (s : State)  : (s.fresh.1).inbox = s.inbox := rfl
@[simp] theorem State.fresh_links (s : State)  : (s.fresh.1).links = s.links := rfl
@[simp] theorem State.fresh_jobs (s : State)  : (s.fresh.1).jobs = s.jobs := rfl
@[simp] theorem State.fresh_endedParts (s : State)  : (s.fresh.1).endedParts = s.endedParts := rfl
@[simp] theorem State.fresh_draws (s : State)  : (s.fresh.1).draws = s.draws := rfl
@[simp] theorem State.fresh_issue (s : State)  : (s.fresh.1).issue = s.issue := rfl
@[simp] theorem State.fresh_enginesRest (s : State)  : (s.fresh.1).enginesRest = s.enginesRest := rfl
@[simp] theorem State.fresh_agenda (s : State)  : (s.fresh.1).agenda = s.agenda := rfl

/-! ## Cores: counting, slots, lanes -/

@[simp] theorem Core.count_buffer (k : Core) (j i n : Nat) : (k.count j i n).buffer = k.buffer := rfl
@[simp] theorem Core.count_slots (k : Core) (j i n : Nat) : (k.count j i n).slots = k.slots := rfl
@[simp] theorem Core.count_frames (k : Core) (j i n : Nat) : (k.count j i n).frames = k.frames := rfl
@[simp] theorem Core.count_blocks (k : Core) (j i n : Nat) : (k.count j i n).blocks = k.blocks := rfl
@[simp] theorem Core.count_ready (k : Core) (j i n : Nat) : (k.count j i n).ready = k.ready := rfl
@[simp] theorem Core.count_groups (k : Core) (j i n : Nat) : (k.count j i n).groups = k.groups := rfl
@[simp] theorem Core.count_tiles (k : Core) (j i n : Nat) : (k.count j i n).tiles = k.tiles := rfl
@[simp] theorem Core.count_store (k : Core) (j i n : Nat) : (k.count j i n).store = k.store := rfl
@[simp] theorem Core.count_banks (k : Core) (j i n : Nat) : (k.count j i n).banks = k.banks := rfl
@[simp] theorem Core.count_spares (k : Core) (j i n : Nat) : (k.count j i n).spares = k.spares := rfl
@[simp] theorem Core.count_tileReqs (k : Core) (j i n : Nat) : (k.count j i n).tileReqs = k.tileReqs := rfl
@[simp] theorem Core.count_mmaReqs (k : Core) (j i n : Nat) : (k.count j i n).mmaReqs = k.mmaReqs := rfl
@[simp] theorem Core.count_fallocs (k : Core) (j i n : Nat) : (k.count j i n).fallocs = k.fallocs := rfl
@[simp] theorem Core.count_accs (k : Core) (j i n : Nat) : (k.count j i n).accs = k.accs := rfl
@[simp] theorem Core.count_walkers (k : Core) (j i n : Nat) : (k.count j i n).walkers = k.walkers := rfl
@[simp] theorem Core.count_mailbox (k : Core) (j i n : Nat) : (k.count j i n).mailbox = k.mailbox := rfl
@[simp] theorem Core.count_closed (k : Core) (j i n : Nat) : (k.count j i n).closed = k.closed := rfl
@[simp] theorem Core.count_kernels (k : Core) (j i n : Nat) : (k.count j i n).kernels = k.kernels := rfl
@[simp] theorem Core.count_xflags (k : Core) (j i n : Nat) : (k.count j i n).xflags = k.xflags := rfl
@[simp] theorem Core.count_window (k : Core) (j i n : Nat) : (k.count j i n).window = k.window := rfl
@[simp] theorem Core.count_windowAt (k : Core) (j i n : Nat) : (k.count j i n).windowAt = k.windowAt := rfl
@[simp] theorem Core.count_lastMatched (k : Core) (j i n : Nat) : (k.count j i n).lastMatched = k.lastMatched := rfl
@[simp] theorem Core.count_lastRefilled (k : Core) (j i n : Nat) : (k.count j i n).lastRefilled = k.lastRefilled := rfl
@[simp] theorem Core.count_tlb (k : Core) (j i n : Nat) : (k.count j i n).tlb = k.tlb := rfl
@[simp] theorem Core.count_slotTable (k : Core) (j i n : Nat) : (k.count j i n).slotTable = k.slotTable := rfl
@[simp] theorem Core.count_recovery (k : Core) (j i n : Nat) : (k.count j i n).recovery = k.recovery := rfl
@[simp] theorem Core.count_hkcLimit (k : Core) (j i n : Nat) : (k.count j i n).hkcLimit = k.hkcLimit := rfl
@[simp] theorem Core.count_lastIssue (k : Core) (j i n : Nat) : (k.count j i n).lastIssue = k.lastIssue := rfl
@[simp] theorem Core.count_badSlots (k : Core) (j i n : Nat) : (k.count j i n).badSlots = k.badSlots := rfl
@[simp] theorem Core.count_badWords (k : Core) (j i n : Nat) : (k.count j i n).badWords = k.badWords := rfl
@[simp] theorem Core.count_failing (k : Core) (j i n : Nat) : (k.count j i n).failing = k.failing := rfl

@[simp] theorem Core.setSlot_badSlots (k : Core) (i : Nat) (x : Slot) : (k.setSlot i x).badSlots = k.badSlots.filter (· != i) := rfl
@[simp] theorem Core.slot_setSlot_same (k : Core) (i : Nat) (x : Slot) : (k.setSlot i x).slot i = x := by simp [Core.slot, Core.setSlot]

@[simp] theorem Core.setSlot_buffer (k : Core) (i : Nat) (x : Slot) : (k.setSlot i x).buffer = k.buffer := rfl
@[simp] theorem Core.setSlot_frames (k : Core) (i : Nat) (x : Slot) : (k.setSlot i x).frames = k.frames := rfl
@[simp] theorem Core.setSlot_blocks (k : Core) (i : Nat) (x : Slot) : (k.setSlot i x).blocks = k.blocks := rfl
@[simp] theorem Core.setSlot_ready (k : Core) (i : Nat) (x : Slot) : (k.setSlot i x).ready = k.ready := rfl
@[simp] theorem Core.setSlot_groups (k : Core) (i : Nat) (x : Slot) : (k.setSlot i x).groups = k.groups := rfl
@[simp] theorem Core.setSlot_tiles (k : Core) (i : Nat) (x : Slot) : (k.setSlot i x).tiles = k.tiles := rfl
@[simp] theorem Core.setSlot_store (k : Core) (i : Nat) (x : Slot) : (k.setSlot i x).store = k.store := rfl
@[simp] theorem Core.setSlot_banks (k : Core) (i : Nat) (x : Slot) : (k.setSlot i x).banks = k.banks := rfl
@[simp] theorem Core.setSlot_spares (k : Core) (i : Nat) (x : Slot) : (k.setSlot i x).spares = k.spares := rfl
@[simp] theorem Core.setSlot_tileReqs (k : Core) (i : Nat) (x : Slot) : (k.setSlot i x).tileReqs = k.tileReqs := rfl
@[simp] theorem Core.setSlot_mmaReqs (k : Core) (i : Nat) (x : Slot) : (k.setSlot i x).mmaReqs = k.mmaReqs := rfl
@[simp] theorem Core.setSlot_fallocs (k : Core) (i : Nat) (x : Slot) : (k.setSlot i x).fallocs = k.fallocs := rfl
@[simp] theorem Core.setSlot_accs (k : Core) (i : Nat) (x : Slot) : (k.setSlot i x).accs = k.accs := rfl
@[simp] theorem Core.setSlot_walkers (k : Core) (i : Nat) (x : Slot) : (k.setSlot i x).walkers = k.walkers := rfl
@[simp] theorem Core.setSlot_mailbox (k : Core) (i : Nat) (x : Slot) : (k.setSlot i x).mailbox = k.mailbox := rfl
@[simp] theorem Core.setSlot_closed (k : Core) (i : Nat) (x : Slot) : (k.setSlot i x).closed = k.closed := rfl
@[simp] theorem Core.setSlot_kernels (k : Core) (i : Nat) (x : Slot) : (k.setSlot i x).kernels = k.kernels := rfl
@[simp] theorem Core.setSlot_xflags (k : Core) (i : Nat) (x : Slot) : (k.setSlot i x).xflags = k.xflags := rfl
@[simp] theorem Core.setSlot_perf (k : Core) (i : Nat) (x : Slot) : (k.setSlot i x).perf = k.perf := rfl
@[simp] theorem Core.setSlot_window (k : Core) (i : Nat) (x : Slot) : (k.setSlot i x).window = k.window := rfl
@[simp] theorem Core.setSlot_windowAt (k : Core) (i : Nat) (x : Slot) : (k.setSlot i x).windowAt = k.windowAt := rfl
@[simp] theorem Core.setSlot_lastMatched (k : Core) (i : Nat) (x : Slot) : (k.setSlot i x).lastMatched = k.lastMatched := rfl
@[simp] theorem Core.setSlot_lastRefilled (k : Core) (i : Nat) (x : Slot) : (k.setSlot i x).lastRefilled = k.lastRefilled := rfl
@[simp] theorem Core.setSlot_tlb (k : Core) (i : Nat) (x : Slot) : (k.setSlot i x).tlb = k.tlb := rfl
@[simp] theorem Core.setSlot_slotTable (k : Core) (i : Nat) (x : Slot) : (k.setSlot i x).slotTable = k.slotTable := rfl
@[simp] theorem Core.setSlot_recovery (k : Core) (i : Nat) (x : Slot) : (k.setSlot i x).recovery = k.recovery := rfl
@[simp] theorem Core.setSlot_hkcLimit (k : Core) (i : Nat) (x : Slot) : (k.setSlot i x).hkcLimit = k.hkcLimit := rfl
@[simp] theorem Core.setSlot_lastIssue (k : Core) (i : Nat) (x : Slot) : (k.setSlot i x).lastIssue = k.lastIssue := rfl
@[simp] theorem Core.setSlot_badWords (k : Core) (i : Nat) (x : Slot) : (k.setSlot i x).badWords = k.badWords := rfl
@[simp] theorem Core.setSlot_failing (k : Core) (i : Nat) (x : Slot) : (k.setSlot i x).failing = k.failing := rfl

@[simp] theorem Core.setLane_buffer (k : Core) (g n : Nat) (l : Firing) : (k.setLane g n l).buffer = k.buffer := by
  unfold Core.setLane; split <;> rfl
@[simp] theorem Core.setLane_slots (k : Core) (g n : Nat) (l : Firing) : (k.setLane g n l).slots = k.slots := by
  unfold Core.setLane; split <;> rfl
@[simp] theorem Core.setLane_frames (k : Core) (g n : Nat) (l : Firing) : (k.setLane g n l).frames = k.frames := by
  unfold Core.setLane; split <;> rfl
@[simp] theorem Core.setLane_blocks (k : Core) (g n : Nat) (l : Firing) : (k.setLane g n l).blocks = k.blocks := by
  unfold Core.setLane; split <;> rfl
@[simp] theorem Core.setLane_ready (k : Core) (g n : Nat) (l : Firing) : (k.setLane g n l).ready = k.ready := by
  unfold Core.setLane; split <;> rfl
@[simp] theorem Core.setLane_tiles (k : Core) (g n : Nat) (l : Firing) : (k.setLane g n l).tiles = k.tiles := by
  unfold Core.setLane; split <;> rfl
@[simp] theorem Core.setLane_store (k : Core) (g n : Nat) (l : Firing) : (k.setLane g n l).store = k.store := by
  unfold Core.setLane; split <;> rfl
@[simp] theorem Core.setLane_banks (k : Core) (g n : Nat) (l : Firing) : (k.setLane g n l).banks = k.banks := by
  unfold Core.setLane; split <;> rfl
@[simp] theorem Core.setLane_spares (k : Core) (g n : Nat) (l : Firing) : (k.setLane g n l).spares = k.spares := by
  unfold Core.setLane; split <;> rfl
@[simp] theorem Core.setLane_tileReqs (k : Core) (g n : Nat) (l : Firing) : (k.setLane g n l).tileReqs = k.tileReqs := by
  unfold Core.setLane; split <;> rfl
@[simp] theorem Core.setLane_mmaReqs (k : Core) (g n : Nat) (l : Firing) : (k.setLane g n l).mmaReqs = k.mmaReqs := by
  unfold Core.setLane; split <;> rfl
@[simp] theorem Core.setLane_fallocs (k : Core) (g n : Nat) (l : Firing) : (k.setLane g n l).fallocs = k.fallocs := by
  unfold Core.setLane; split <;> rfl
@[simp] theorem Core.setLane_accs (k : Core) (g n : Nat) (l : Firing) : (k.setLane g n l).accs = k.accs := by
  unfold Core.setLane; split <;> rfl
@[simp] theorem Core.setLane_walkers (k : Core) (g n : Nat) (l : Firing) : (k.setLane g n l).walkers = k.walkers := by
  unfold Core.setLane; split <;> rfl
@[simp] theorem Core.setLane_mailbox (k : Core) (g n : Nat) (l : Firing) : (k.setLane g n l).mailbox = k.mailbox := by
  unfold Core.setLane; split <;> rfl
@[simp] theorem Core.setLane_closed (k : Core) (g n : Nat) (l : Firing) : (k.setLane g n l).closed = k.closed := by
  unfold Core.setLane; split <;> rfl
@[simp] theorem Core.setLane_kernels (k : Core) (g n : Nat) (l : Firing) : (k.setLane g n l).kernels = k.kernels := by
  unfold Core.setLane; split <;> rfl
@[simp] theorem Core.setLane_xflags (k : Core) (g n : Nat) (l : Firing) : (k.setLane g n l).xflags = k.xflags := by
  unfold Core.setLane; split <;> rfl
@[simp] theorem Core.setLane_perf (k : Core) (g n : Nat) (l : Firing) : (k.setLane g n l).perf = k.perf := by
  unfold Core.setLane; split <;> rfl
@[simp] theorem Core.setLane_window (k : Core) (g n : Nat) (l : Firing) : (k.setLane g n l).window = k.window := by
  unfold Core.setLane; split <;> rfl
@[simp] theorem Core.setLane_windowAt (k : Core) (g n : Nat) (l : Firing) : (k.setLane g n l).windowAt = k.windowAt := by
  unfold Core.setLane; split <;> rfl
@[simp] theorem Core.setLane_lastMatched (k : Core) (g n : Nat) (l : Firing) : (k.setLane g n l).lastMatched = k.lastMatched := by
  unfold Core.setLane; split <;> rfl
@[simp] theorem Core.setLane_lastRefilled (k : Core) (g n : Nat) (l : Firing) : (k.setLane g n l).lastRefilled = k.lastRefilled := by
  unfold Core.setLane; split <;> rfl
@[simp] theorem Core.setLane_tlb (k : Core) (g n : Nat) (l : Firing) : (k.setLane g n l).tlb = k.tlb := by
  unfold Core.setLane; split <;> rfl
@[simp] theorem Core.setLane_slotTable (k : Core) (g n : Nat) (l : Firing) : (k.setLane g n l).slotTable = k.slotTable := by
  unfold Core.setLane; split <;> rfl
@[simp] theorem Core.setLane_recovery (k : Core) (g n : Nat) (l : Firing) : (k.setLane g n l).recovery = k.recovery := by
  unfold Core.setLane; split <;> rfl
@[simp] theorem Core.setLane_hkcLimit (k : Core) (g n : Nat) (l : Firing) : (k.setLane g n l).hkcLimit = k.hkcLimit := by
  unfold Core.setLane; split <;> rfl
@[simp] theorem Core.setLane_lastIssue (k : Core) (g n : Nat) (l : Firing) : (k.setLane g n l).lastIssue = k.lastIssue := by
  unfold Core.setLane; split <;> rfl
@[simp] theorem Core.setLane_badSlots (k : Core) (g n : Nat) (l : Firing) : (k.setLane g n l).badSlots = k.badSlots := by
  unfold Core.setLane; split <;> rfl
@[simp] theorem Core.setLane_badWords (k : Core) (g n : Nat) (l : Firing) : (k.setLane g n l).badWords = k.badWords := by
  unfold Core.setLane; split <;> rfl
@[simp] theorem Core.setLane_failing (k : Core) (g n : Nat) (l : Firing) : (k.setLane g n l).failing = k.failing := by
  unfold Core.setLane; split <;> rfl

end Sys2Proof.Machine
end

