-- ==== Sys2Proof/Laws/Events.lean ====
section
/-! SUPPORT. What the operations that the events share do when they take effect. -/

namespace Sys2Proof.Machine

/-- An event of the powered device. -/
theorem powered_main {s : State} (h : s.hkc.main = true) (f : State → State) : s.powered f = .next (f s) := by
  simp only [State.powered, h, if_true]

/-- An event of the device without its main supply. -/
theorem powered_off {s : State} (h : s.hkc.main = false) (f : State → State) : s.powered f = .next s := by
  simp [State.powered, h]

/-- A write of the host that reaches the registers. -/
theorem fromHost_reaches {s : State} (h : s.hostReaches = true) (f : State → State) : s.fromHost f = .next (f s) := by
  simp only [State.fromHost, h, if_true]

/-- The host reaches the registers of a powered device only. -/
theorem main_of_hostReaches {s : State} (h : s.hostReaches = true) : s.hkc.main = true := by
  simp only [State.hostReaches, Bool.and_eq_true] at h
  exact h.1

/-- A record of the kind that the event names is handled. -/
theorem onRec_taken {s u : State} {i kind : Nat} {r : LinkRec} (hm : s.hkc.main = true) (h : s.takeRec i kind = some (r, u))
    (f : State → LinkRec → State) : s.onRec i kind f = .next (f u r) := by
  simp only [State.onRec, powered_main hm, h]

/-- A record that nothing holds back, and before which no other of its way stands, is taken. -/
theorem takeRec_first {s : State} {i kind : Nat} {r : LinkRec} (hi : s.inbox[i]? = some r) (hk : r.kind = kind)
    (hw : s.recWaits r = false) (hb : s.recBehind i r = false) :
    s.takeRec i kind = some (r, { s with inbox := removeAt s.inbox i }) := by
  simp [State.takeRec, hi, hk, hw, hb]

/-- A mark of a fabric instance that has a part here is handled. -/
theorem onMark_taken {s u : State} {i kind n : Nat} {r : LinkRec} {v : Instance} (hm : s.hkc.main = true)
    (h : s.takeRec i kind = some (r, u)) (hv : (u.job r.job).fabricInst r.rid (recNat r.body 0 4) = some (n, v))
    (f : State → LinkRec → Nat → Instance → State) : s.onMark i kind f = .next (f u r n v) := by
  simp only [State.onMark, powered_main hm, h, hv]

/-- A command for a job that its turn has come for, and that the job's state lets run, takes effect. -/
theorem jobCommand_runs {s : State} {q op : Nat} {c : Cmd} {x : Job} (hm : s.hkc.main = true) (ht : s.turn q op = some c)
    (hj : s.job? c.job = some x) (hg : x.gate op = .run) (f : State → Cmd → Job → State) :
    s.jobCommand q op f = .next (f s c x) := by
  simp [State.jobCommand, powered_main hm, State.jobTurn, ht, hj, hg]

/-- A command for a job whose state answers it completes with that status. -/
theorem jobCommand_answers {s : State} {q op n : Nat} {c : Cmd} {x : Job} (hm : s.hkc.main = true) (ht : s.turn q op = some c)
    (hj : s.job? c.job = some x) (hg : x.gate op = .answer n) (f : State → Cmd → Job → State) :
    s.jobCommand q op f = .next (s.complete q (c.answerIn x n) 0 0) := by
  simp [State.jobCommand, powered_main hm, State.jobTurn, ht, hj, hg]

theorem State.CommandRuns.runs {s : State} {q op : Nat} {c : Cmd} {x : Job} (h : s.CommandRuns q op c x)
    (f : State → Cmd → Job → State) : s.jobCommand q op f = .next (f s c x) :=
  jobCommand_runs h.main h.turn h.job h.gate f

theorem State.CommandRuns.jobTurn {s : State} {q op : Nat} {c : Cmd} {x : Job} (h : s.CommandRuns q op c x)
    (f : State → Cmd → Job → State) : s.jobTurn q op f = f s c x := by
  simp [State.jobTurn, h.turn, h.job, h.gate]

theorem State.Delivers.takeRec {s : State} {i kind : Nat} {r : LinkRec} (h : s.Delivers i kind r) :
    s.takeRec i kind = some (r, s.withoutRec i) := takeRec_first h.record h.kind h.free h.first

theorem State.Delivers.onRec {s : State} {i kind : Nat} {r : LinkRec} (h : s.Delivers i kind r)
    (f : State → LinkRec → State) : s.onRec i kind f = .next (f (s.withoutRec i) r) := onRec_taken h.main h.takeRec f

theorem State.Marks.onMark {s : State} {i kind n : Nat} {r : LinkRec} {v : Instance} (h : s.Marks i kind r n v)
    (f : State → LinkRec → Nat → Instance → State) : s.onMark i kind f = .next (f (s.withoutRec i) r n v) :=
  onMark_taken h.main h.toDelivers.takeRec h.part f

theorem State.Arrives.takeMesh {s : State} {i : Nat} {x : MeshItem} (h : s.Arrives i x) :
    s.takeMesh i = some (x, s.withoutItem i) := by
  simp [State.takeMesh, h.item, h.first, State.withoutItem]

end Sys2Proof.Machine
end

