-- ==== Sys2Proof/Laws/Issue.lean ====
section
/-! SUPPORT. What issuing a word does: the lanes of the issuing group, one by one. -/

namespace Sys2Proof.Machine

theorem Core.issuing_group {k : Core} {j g : Nat} {x : Group} (h : k.issuing j = some (g, x)) :
    k.groups[g]? = some x ∧ x.job = j ∧ x.lanes.any Firing.going = true := by
  simp only [Core.issuing, Option.map_eq_some_iff, Prod.mk.injEq] at h
  obtain ⟨⟨y, n⟩, hf, rfl, rfl⟩ := h
  have hp := List.find?_some hf
  have hm := List.mem_of_find?_eq_some hf
  simp only [Bool.and_eq_true, beq_iff_eq] at hp
  exact ⟨(List.mk_mem_zipIdx_iff_getElem?.1 hm), hp.1, hp.2⟩

theorem State.core_counted (s : State) (c j : Nat) :
    (s.counted c j).core c = { (s.core c).count j 0 1 with lastIssue := s.clock } := by
  simp [State.counted]

theorem State.core_withLanes (s : State) (c g : Nat) (x : Group) (ls : List Firing) :
    (s.withLanes c g x ls).core c = { s.core c with groups := setAt (s.core c).groups g { x with lanes := ls } } := by
  simp [State.withLanes]

theorem Table.put_put {α : Type} (t : Table α) (i : Nat) (v w : α) : Table.put (Table.put t i v) i w = Table.put t i w := by
  induction t with
  | nil => simp [Table.put]
  | cons p t ih =>
    obtain ⟨k, u⟩ := p
    simp only [Table.put]
    split <;> rename_i h1
    · simp [Table.put]
    · split <;> rename_i h2
      · simp [Table.put]
      · simp [Table.put, h1, h2, ih]

/-- Groups that a core changes twice. -/
theorem State.setLane_withLanes (s : State) (c g n : Nat) (x : Group) (ls : List Firing) (l : Firing)
    (hg : (s.core c).groups[g]? = some x) :
    (s.withLanes c g x ls).setLane c g n l = s.withLanes c g x (setAt ls n l) := by
  have hlt : g < (s.core c).groups.length := (List.getElem?_eq_some_iff.1 hg).1
  simp only [State.setLane, State.onCore, State.core_withLanes, Core.setLane]
  rw [getElem?_setAt_same _ _ _ hlt]
  simp [State.withLanes, State.onCore, State.setCore, Table.put_put]

theorem State.laneAt_withLanes (s : State) (c g n : Nat) (x : Group) (ls : List Firing)
    (hg : (s.core c).groups[g]? = some x) :
    ((s.withLanes c g x ls).core c).laneAt g n = ls[n]? := by
  have hlt : g < (s.core c).groups.length := (List.getElem?_eq_some_iff.1 hg).1
  simp only [State.core_withLanes, Core.laneAt]
  rw [getElem?_setAt_same _ _ _ hlt]

theorem Firing.values_withLanes (s : State) (c g : Nat) (x : Group) (ls : List Firing) (l : Firing) (b : Body) :
    l.values (s.withLanes c g x ls) c b = l.values s c b := by
  have h (l : Firing) (sp : Spec) : l.peek (s.withLanes c g x ls) c sp = l.peek s c sp := by
    cases sp <;> simp [Firing.peek, Firing.read, Firing.readSlot, State.core_withLanes, Core.slot, Firing.named] <;> rfl
  simp [Firing.values, h]

/-- The lane function `F` gives this lane of a word of group `x`. -/
def laneAfter (s : State) (c j : Nat) (x : Group) (b : Body) (F : State → Nat → Firing → Except Trap Firing) (l : Firing) :
    Firing :=
  if l.dead || l.ended then l
  else if l.skipped then { l with pc := x.pc }
  else
    let l0 := l.atWord (s.core c) x
    if l0.executes b.hdr then
      match F (s.counted c j) c l0 with
      | .ok l1 => if l1.staged.length = l0.staged.length then l1
        else { l1 with seen := Table.put l1.seen x.pc (l0.values (s.counted c j) c b) }
      | .error _ => l
    else l0

/-- One lane of a word that only changes its lane. -/
theorem runLane_lane {s : State} {c j g : Nat} {x : Group} {b : Body} {F : State → Nat → Firing → Except Trap Firing}
    (word : W64) (hg : (s.core c).groups[g]? = some x)
    (hF : ∀ ls l, F ((s.counted c j).withLanes c g x ls) c l = F (s.counted c j) c l)
    (hok : everyLane s c x b.hdr (fun l => ∃ l1, F (s.counted c j) c l = .ok l1))
    (ls : List Firing) (n : Nat) (l : Firing) (hl : ls[n]? = some l) (hx : l ∈ x.lanes) :
    ((s.counted c j).withLanes c g x ls).runLane c g x.pc word b ((s.core c).badWords.contains (x.block, x.pc)) (lane F) n
      = (s.counted c j).withLanes c g x (setAt ls n (laneAfter s c j x b F l)) := by
  have hg' : ((s.counted c j).core c).groups[g]? = some x := by rw [State.core_counted]; exact hg
  unfold State.runLane
  rw [State.laneAt_withLanes _ _ _ _ _ _ hg', hl]
  simp only []
  unfold laneAfter
  by_cases hd : (l.dead || l.ended) = true
  · simp [hd, setAt_self _ _ _ hl]
  · by_cases hk : l.skipped = true
    · simp [hd, hk, State.setLane_withLanes _ _ _ _ _ _ _ hg']
    · rw [if_neg hd, if_neg hk, if_neg hd, if_neg hk]
      by_cases he : (l.atWord (s.core c) x).executes b.hdr = true
      · have hr : l.running = true := by
          simp only [Bool.or_eq_true, not_or, Bool.not_eq_true] at hd hk
          simp [Firing.running, hd, hk]
        obtain ⟨l1, h1⟩ := hok l hx hr he
        have h2 : Firing.executes { l with pc := x.pc, shadow := l.shadow || (s.core c).badWords.contains (x.block, x.pc) } b.hdr = true := he
        simp only [h2, he, lane, hF, Firing.values_withLanes]
        rw [show F (s.counted c j) c { l with pc := x.pc, shadow := l.shadow || (s.core c).badWords.contains (x.block, x.pc) } = .ok l1 from h1,
          show F (s.counted c j) c (l.atWord (s.core c) x) = .ok l1 from h1]
        simp only [Except.map, Bool.not_true, Bool.false_eq_true, if_false, if_true]
        rw [State.setLane_withLanes _ _ _ _ _ _ _ hg']
        rfl
      · have h2 : Firing.executes { l with pc := x.pc, shadow := l.shadow || (s.core c).badWords.contains (x.block, x.pc) } b.hdr = false := Bool.eq_false_iff.2 he
        simp only [h2]
        rw [if_neg he, if_pos (by rfl), State.setLane_withLanes _ _ _ _ _ _ _ hg']
        rfl

theorem setAt_append_cons {α : Type} (as bs : List α) (b v : α) :
    setAt (as ++ b :: bs) as.length v = as ++ v :: bs := by
  induction as with
  | nil => rfl
  | cons a as ih => simp [setAt, ih]

/-- Every lane of a word that only changes its lane. -/
theorem foldl_runLane {s : State} {c j g : Nat} {x : Group} {b : Body} {F : State → Nat → Firing → Except Trap Firing}
    (word : W64) (hg : (s.core c).groups[g]? = some x)
    (hF : ∀ ls l, F ((s.counted c j).withLanes c g x ls) c l = F (s.counted c j) c l)
    (hok : everyLane s c x b.hdr (fun l => ∃ l1, F (s.counted c j) c l = .ok l1)) (n : Nat) (hn : n ≤ x.lanes.length) :
    (List.range n).foldl (fun t n => t.runLane c g x.pc word b ((s.core c).badWords.contains (x.block, x.pc)) (lane F) n)
        (s.counted c j)
      = (s.counted c j).withLanes c g x ((x.lanes.take n).map (laneAfter s c j x b F) ++ x.lanes.drop n) := by
  have hg' : ((s.counted c j).core c).groups[g]? = some x := by rw [State.core_counted]; exact hg
  induction n with
  | zero =>
    simp only [List.range_zero, List.foldl_nil, List.take_zero, List.map_nil, List.nil_append, List.drop_zero]
    have h : (fun k : Core => { k with groups := setAt k.groups g { x with lanes := x.lanes } }) ((s.counted c j).core c)
        = (s.counted c j).core c := by
      show ({ (s.counted c j).core c with groups := setAt ((s.counted c j).core c).groups g x } : Core) = _
      rw [setAt_self _ _ _ hg']
    unfold State.withLanes State.onCore
    rw [h]
    simp only [State.core_counted]
    simp [State.counted, State.onCore, State.setCore, Table.put_put]
  | succ n ih =>
    have hlt : n < x.lanes.length := hn
    rw [List.range_succ, List.foldl_append, ih (Nat.le_of_lt hn), List.foldl_cons, List.foldl_nil]
    rw [List.drop_eq_getElem_cons hlt]
    rw [runLane_lane word hg hF hok _ n x.lanes[n] (by simp [List.getElem?_append_right, Nat.min_eq_left (Nat.le_of_lt hlt)])
      (List.getElem_mem hlt)]
    have hlen : ((x.lanes.take n).map (laneAfter s c j x b F)).length = n := by simp [Nat.min_eq_left (Nat.le_of_lt hlt)]
    congr 1
    rw [List.take_succ_eq_append_getElem hlt]
    have := setAt_append_cons ((x.lanes.take n).map (laneAfter s c j x b F)) (x.lanes.drop (n + 1)) x.lanes[n]
      (laneAfter s c j x b F x.lanes[n])
    rw [hlen] at this
    rw [this, List.map_append, List.map_cons, List.map_nil, List.append_assoc, List.cons_append, List.nil_append]

/-- What a word that only changes its lanes does, if it traps in none. -/
theorem issueWord_lanes {s : State} {c j g : Nat} {x : Group} {b : Body} {F : State → Nat → Firing → Except Trap Firing}
    (hs : s.Issues c j g x)
    (hF : ∀ ls l, F ((s.counted c j).withLanes c g x ls) c l = F (s.counted c j) c l)
    (hok : everyLane s c x b.hdr (fun l => ∃ l1, F (s.counted c j) c l = .ok l1)) :
    issueWord b (lane F) s
      = ((s.counted c j).withLanes c g x (x.lanes.map (laneAfter s c j x b F))).endWord c g b.hdr.last := by
  have hg := (Core.issuing_group hs.group).1
  have h := foldl_runLane ((s.core c).wordAt j x) hg hF hok
    x.lanes.length (Nat.le_refl _)
  rw [List.take_length, List.drop_length, List.append_nil] at h
  unfold issueWord
  rw [hs.issue]
  simp only [hs.group]
  exact congrArg (fun t => State.endWord t c g b.hdr.last) h

/-- An instruction that only changes its lanes gives each running one a lane as `R` says. -/
theorem word_gives {i : Instr} {s : State} {c j g : Nat} {x : Group} {b : Body}
    {F : State → Nat → Firing → Except Trap Firing} {R : Firing → Firing → Prop} (hs : s.Issues c j g x)
    (hi : exec i s = word b (lane F) s)
    (hF : ∀ ls l, F ((s.counted c j).withLanes c g x ls) c l = F (s.counted c j) c l)
    (hok : everyLane s c x b.hdr (fun l => ∃ l1, F (s.counted c j) c l = .ok l1))
    (hR : ∀ l l1, F (s.counted c j) c l = .ok l1 → R l l1) : wordGives i b.hdr s c j g x R := by
  refine ⟨x.lanes.map (laneAfter s c j x b F), ?_, by simp, ?_⟩
  · rw [hi]; exact congrArg Host.Outcome.next (issueWord_lanes hs hF hok)
  · intro n l l' h1 h2
    rw [List.getElem?_map, h1] at h2
    cases h2
    unfold laneBecomes laneAfter
    by_cases hd : (l.dead || l.ended) = true
    · simp [hd]
    · by_cases hk : l.skipped = true
      · simp [hd, hk]
      · rw [if_neg hd, if_neg hk, if_neg hd, if_neg hk]
        by_cases he : (l.atWord (s.core c) x).executes b.hdr = true
        · have hr : l.running = true := by
            simp only [Bool.or_eq_true, not_or, Bool.not_eq_true] at hd hk
            simp [Firing.running, hd, hk]
          obtain ⟨l1, h3⟩ := hok l (List.mem_of_getElem? h1) hr he
          simp only [he, if_true, h3]
          by_cases hq : l1.staged.length = (l.atWord (s.core c) x).staged.length
          · exact ⟨l1, l1.seen, hR _ _ h3, by simp [hq]⟩
          · exact ⟨l1, _, hR _ _ h3, by rw [if_neg hq]⟩
        · simp [he]

/-! ## One lane -/

/-- A lane in which a word runs without a trap. -/
theorem runLane_ok {t s1 : State} {c g index n : Nat} {word : W64} {b : Body} {bad : Bool} {f : LaneFn} {l l1 : Firing}
    (hl : (t.core c).laneAt g n = some l) (hr : l.running = true)
    (he : Firing.executes { l with pc := index, shadow := l.shadow || bad } b.hdr = true)
    (hf : f t c { l with pc := index, shadow := l.shadow || bad } = .ok (s1, l1)) :
    ∃ seen, t.runLane c g index word b bad f n = s1.setLane c g n { l1 with seen := seen } := by
  simp only [Firing.running, Bool.and_eq_true, Bool.not_eq_true'] at hr
  obtain ⟨⟨h1, h2⟩, h3⟩ := hr
  unfold State.runLane
  rw [hl]
  dsimp only
  rw [if_neg (by simp [h1, h2]), if_neg (by simp [h3]), if_neg (by simp [he]), hf]
  dsimp only
  by_cases hq : l1.staged.length = l.staged.length
  · exact ⟨l1.seen, by rw [if_pos hq]⟩
  · exact ⟨_, by rw [if_neg hq]⟩

/-- A lane in which a word traps. -/
theorem runLane_trap {t : State} {c g index n : Nat} {word : W64} {b : Body} {bad : Bool} {f : LaneFn} {l : Firing} {e : Trap}
    (hl : (t.core c).laneAt g n = some l) (hr : l.running = true)
    (he : Firing.executes { l with pc := index, shadow := l.shadow || bad } b.hdr = true)
    (hf : f t c { l with pc := index, shadow := l.shadow || bad } = .error e) :
    let m : Firing := { l with pc := index, shadow := l.shadow || bad }
    let v := m.values t c b
    t.runLane c g index word b bad f n
      = (t.takeTrap c m e { word := word, index := index, a := v.1, b := v.2.1, cd := v.2.2, input := some m.first }).setLane
        c g n { m with dead := true } := by
  simp only [Firing.running, Bool.and_eq_true, Bool.not_eq_true'] at hr
  obtain ⟨⟨h1, h2⟩, h3⟩ := hr
  unfold State.runLane
  rw [hl]
  dsimp only
  rw [if_neg (by simp [h1, h2]), if_neg (by simp [h3]), if_neg (by simp [he]), hf]

/-- A word in a group of one lane. -/
theorem issueWord_one {b : Body} {f : LaneFn} {s : State} {c j g : Nat} {x : Group} {l : Firing} (hs : s.Issues c j g x)
    (hx : x.lanes = [l]) :
    ((s.counted c j).core c).laneAt g 0 = some l ∧
    issueWord b f s = ((s.counted c j).runLane c g x.pc ((s.core c).wordAt j x) b ((s.core c).badWords.contains (x.block, x.pc)) f 0).endWord c g b.hdr.last := by
  have hg := (Core.issuing_group hs.group).1
  constructor
  · rw [State.core_counted]; simp [Core.laneAt, hg, hx]
  · unfold issueWord
    rw [hs.issue]
    simp only [hs.group, hx]
    rfl

/-! ## What lanes do not see -/

/-- `s` in which core `c` has other groups, counters and clock of the last issue. -/
def State.same (s : State) (c : Nat) (gs : List Group) (p : Table W64) (n : Nat) : State :=
  ({ s with issue := none } : State).setCore c { s.core c with groups := gs, perf := p, lastIssue := n }

theorem State.counted_same (s : State) (c j : Nat) :
    s.counted c j = s.same c (s.core c).groups ((s.core c).count j 0 1).perf s.clock := rfl

theorem State.withLanes_same (s : State) (c j g : Nat) (x : Group) (ls : List Firing) :
    (s.counted c j).withLanes c g x ls
      = s.same c (setAt (s.core c).groups g { x with lanes := ls }) ((s.core c).count j 0 1).perf s.clock := by
  rw [State.withLanes, State.onCore, State.core_counted]
  simp [State.counted, State.onCore, State.setCore, State.same, Table.put_put, State.core]

@[simp] theorem State.core_same (s : State) (c : Nat) (gs : List Group) (p : Table W64) (n : Nat) :
    (s.same c gs p n).core c = { s.core c with groups := gs, perf := p, lastIssue := n } := by simp [State.same]

@[simp] theorem State.job_same (s : State) (c : Nat) (gs : List Group) (p : Table W64) (n j : Nat) :
    (s.same c gs p n).job j = s.job j := rfl

@[simp] theorem State.job?_same (s : State) (c : Nat) (gs : List Group) (p : Table W64) (n j : Nat) :
    (s.same c gs p n).job? j = s.job? j := rfl

@[simp] theorem State.devnum_same (s : State) (c : Nat) (gs : List Group) (p : Table W64) (n : Nat) :
    (s.same c gs p n).devnum = s.devnum := rfl

@[simp] theorem State.coreFor_same (s : State) (c : Nat) (gs : List Group) (p : Table W64) (n d : Nat) (l : Firing) :
    (s.same c gs p n).coreFor d l = s.coreFor d l := rfl

@[simp] theorem State.devCore_same (s : State) (c : Nat) (gs : List Group) (p : Table W64) (n j jc : Nat) :
    (s.same c gs p n).devCore j jc = s.devCore j jc := rfl

@[simp] theorem Firing.read_same (s : State) (c : Nat) (gs : List Group) (p : Table W64) (n : Nat) (l : Firing) (sp : Spec) :
    l.read (s.same c gs p n) c sp = l.read s c sp := by
  cases sp <;> simp [Firing.read, Firing.readSlot, Core.slot]

@[simp] theorem Firing.handleOk_same (s : State) (c : Nat) (gs : List Group) (p : Table W64) (n : Nat) (l : Firing) (v : W64) :
    l.handleOk (s.same c gs p n) c v = l.handleOk s c v := by
  simp only [Firing.handleOk, State.core_same, State.coreFor_same]; rfl

@[simp] theorem State.tileOf_same (s : State) (c : Nat) (gs : List Group) (p : Table W64) (n : Nat) (v : W64) :
    (s.same c gs p n).tileOf c v = s.tileOf c v := by
  simp only [State.tileOf, State.core_same]; rfl

@[simp] theorem Firing.ask_same (s : State) (c : Nat) (gs : List Group) (p : Table W64) (n : Nat) (l : Firing) (i : Instr)
    (cent : BitVec 7) (cport : Port) (a b d : W64) : l.ask (s.same c gs p n) c i cent cport a b d = l.ask s c i cent cport a b d := rfl

@[simp] theorem Firing.sendValue_same (s : State) (c : Nat) (gs : List Group) (p : Table W64) (n : Nat) (l : Firing) (w : SWord)
    (sp : Spec) : l.sendValue (s.same c gs p n) c w sp = l.sendValue s c w sp := by
  simp [Firing.sendValue]

@[simp] theorem Firing.here_same (s : State) (c : Nat) (gs : List Group) (p : Table W64) (n : Nat) (l : Firing) (w : SWord)
    (f : Nat) : l.here (s.same c gs p n) c w f = l.here s c w f := rfl

/-- An instruction whose lanes see neither groups, counters nor the clock of the last issue gives each running lane a lane
as `R` says. -/
theorem word_gives_blind {i : Instr} {s : State} {c j g : Nat} {x : Group} {b : Body}
    {F : State → Nat → Firing → Except Trap Firing} {R : Firing → Firing → Prop} (hs : s.Issues c j g x)
    (hi : exec i s = word b (lane F) s)
    (hF : ∀ gs p n l, F (s.same c gs p n) c l = F s c l)
    (hok : everyLane s c x b.hdr (fun l => ∃ l1, F s c l = .ok l1))
    (hR : ∀ l l1, F s c l = .ok l1 → R l l1) : wordGives i b.hdr s c j g x R := by
  refine word_gives (F := F) hs hi ?_ ?_ ?_
  · intro ls l; rw [State.withLanes_same, State.counted_same, hF, hF]
  · intro l h1 h2 h3; rw [State.counted_same, hF]; exact hok l h1 h2 h3
  · intro l l1 h; rw [State.counted_same, hF] at h; exact hR l l1 h

end Sys2Proof.Machine
end

