-- ==== Sys2Proof/Laws/Memories.lean ====
section
/-! SUPPORT. Laws of byte memories: reading after writing, and every operation keeps the canonical form. -/

namespace Sys2Proof

/-- Every listed address lies above `a`. -/
def Memory.above (a : Nat) (m : Memory) : Prop := ∀ c ∈ m, a < c.1

theorem Memory.wf_cons_iff (a : Nat) (v : Byte) (m : Memory) :
    Memory.wf ((a, v) :: m) = true ↔ v ≠ 0 ∧ Memory.above a m ∧ Memory.wf m = true := by
  induction m generalizing a v with
  | nil => simp [Memory.wf, Memory.above]
  | cons p m ih =>
    obtain ⟨b, w⟩ := p
    have h := ih b w
    simp only [Memory.wf, Bool.and_eq_true, decide_eq_true_eq, bne_iff_ne, ne_eq]
    constructor
    · rintro ⟨⟨hab, hv⟩, hm⟩
      refine ⟨hv, ?_, hm⟩
      intro c hc
      rcases List.mem_cons.1 hc with rfl | hc
      · exact hab
      · exact Nat.lt_trans hab ((h.1 hm).2.1 c hc)
    · rintro ⟨hv, ha, hm⟩
      exact ⟨⟨ha (b, w) (by simp), hv⟩, hm⟩

theorem Memory.cons_zero (a : Nat) (m : Memory) : Memory.cons a 0 m = m := rfl

theorem Memory.cons_ne {a : Nat} {b : Byte} {m : Memory} (h : b ≠ 0) : Memory.cons a b m = (a, b) :: m := if_neg h

theorem Memory.wf_tail {c : Host.Cell} {m : Memory} (h : Memory.wf (c :: m) = true) : Memory.wf m = true :=
  ((Memory.wf_cons_iff c.1 c.2 m).1 h).2.2

theorem Memory.get_of_above {a : Nat} {m : Memory} (h : Memory.above a m) : Memory.get m a = 0 := by
  cases m with
  | nil => rfl
  | cons p m =>
    obtain ⟨k, v⟩ := p
    have hk : a < k := h (k, v) (by simp)
    simp [Memory.get, hk, Nat.ne_of_gt hk]

theorem Memory.above_set {a x : Nat} {b : Byte} {m : Memory} (h : Memory.above a m) (hx : a < x) : Memory.above a (Memory.set m x b) := by
  induction m with
  | nil =>
    by_cases hb : b = 0
    · subst hb; simp [Memory.set, Memory.cons, Memory.above]
    · simp [Memory.set, Memory.cons_ne hb, Memory.above, hx]
  | cons p m ih =>
    obtain ⟨k, v⟩ := p
    have hk : a < k := h (k, v) (by simp)
    have hm : Memory.above a m := fun c hc => h c (by simp [hc])
    intro c hc
    simp only [Memory.set] at hc
    split at hc
    · by_cases hb : b = 0
      · subst hb; exact h c hc
      · rw [Memory.cons_ne hb] at hc
        rcases List.mem_cons.1 hc with rfl | hc
        · exact hx
        · exact h c hc
    · split at hc
      · by_cases hb : b = 0
        · subst hb; exact hm c hc
        · rw [Memory.cons_ne hb] at hc
          rcases List.mem_cons.1 hc with rfl | hc
          · exact hx
          · exact hm c hc
      · rcases List.mem_cons.1 hc with rfl | hc
        · exact hk
        · exact ih hm c hc

/-- Storing a byte keeps the canonical form. -/
theorem Memory.wf_set (m : Memory) (a : Nat) (b : Byte) (h : Memory.wf m = true) : Memory.wf (Memory.set m a b) = true := by
  induction m with
  | nil =>
    by_cases hb : b = 0
    · subst hb; rfl
    · simpa [Memory.set, Memory.cons_ne hb, Memory.wf] using hb
  | cons p m ih =>
    obtain ⟨k, v⟩ := p
    obtain ⟨hv, ha, hm⟩ := (Memory.wf_cons_iff k v m).1 h
    simp only [Memory.set]
    split
    · next hk =>
      by_cases hb : b = 0
      · subst hb; exact h
      · rw [Memory.cons_ne hb]
        refine (Memory.wf_cons_iff a b _).2 ⟨hb, ?_, h⟩
        intro c hc
        rcases List.mem_cons.1 hc with rfl | hc
        · exact hk
        · exact Nat.lt_trans hk (ha c hc)
    · split
      · next hk =>
        subst hk
        by_cases hb : b = 0
        · subst hb; exact hm
        · rw [Memory.cons_ne hb]
          exact (Memory.wf_cons_iff k b m).2 ⟨hb, ha, hm⟩
      · next h1 h2 =>
        exact (Memory.wf_cons_iff k v _).2 ⟨hv, Memory.above_set ha (by omega), ih hm⟩

/-- Storing bytes keeps the canonical form. -/
theorem Memory.wf_write (m : Memory) (a : Nat) (bs : List Byte) (h : Memory.wf m = true) : Memory.wf (Memory.write m a bs) = true := by
  induction bs generalizing m a with
  | nil => exact h
  | cons b bs ih => exact ih _ _ (Memory.wf_set m a b h)

/-- Storing a number keeps the canonical form. -/
theorem Memory.wf_writeNat (m : Memory) (a n x : Nat) (h : Memory.wf m = true) : Memory.wf (Memory.writeNat m a n x) = true :=
  Memory.wf_write m a _ h

/-- Leaving cells out keeps the canonical form. -/
theorem Memory.wf_filter (m : Memory) (p : Host.Cell → Bool) (h : Memory.wf m = true) : Memory.wf (m.filter p) = true := by
  induction m with
  | nil => rfl
  | cons c m ih =>
    obtain ⟨k, v⟩ := c
    obtain ⟨hv, ha, hm⟩ := (Memory.wf_cons_iff k v m).1 h
    by_cases hp : p (k, v) = true
    · rw [List.filter_cons_of_pos hp]
      exact (Memory.wf_cons_iff k v _).2 ⟨hv, fun c hc => ha c ((List.mem_filter.1 hc).1), ih hm⟩
    · rw [List.filter_cons_of_neg hp]; exact ih hm

theorem Memory.wf_clear (m : Memory) (lo hi : Nat) (h : Memory.wf m = true) : Memory.wf (Memory.clear m lo hi) = true :=
  Memory.wf_filter m _ h

theorem Memory.wf_within (m : Memory) (lo hi : Nat) (h : Memory.wf m = true) : Memory.wf (Memory.within m lo hi) = true :=
  Memory.wf_filter m _ h

/-- A byte reads as it was stored. -/
@[simp] theorem Memory.get_set_same (m : Memory) (a : Nat) (b : Byte) (h : Memory.wf m = true) : Memory.get (Memory.set m a b) a = b := by
  induction m with
  | nil =>
    by_cases hb : b = 0
    · subst hb; rfl
    · simp [Memory.set, Memory.cons_ne hb, Memory.get]
  | cons p m ih =>
    obtain ⟨k, v⟩ := p
    obtain ⟨_, ha, hm⟩ := (Memory.wf_cons_iff k v m).1 h
    simp only [Memory.set]
    split
    · next hk =>
      by_cases hb : b = 0
      · subst hb
        rw [Memory.cons_zero, Memory.get, if_neg (Nat.ne_of_gt hk), if_pos hk]
      · simp [Memory.cons_ne hb, Memory.get]
    · split
      · next hk =>
        subst hk
        by_cases hb : b = 0
        · subst hb; rw [Memory.cons_zero, Memory.get_of_above ha]
        · simp [Memory.cons_ne hb, Memory.get]
      · next h1 h2 => simp [Memory.get, h1, h2, ih hm]

/-- Every other byte reads as before. -/
theorem Memory.get_set_ne (m : Memory) (a x : Nat) (b : Byte) (h : Memory.wf m = true) (hx : x ≠ a) :
    Memory.get (Memory.set m a b) x = Memory.get m x := by
  induction m with
  | nil =>
    by_cases hb : b = 0
    · subst hb; rfl
    · simp [Memory.set, Memory.cons_ne hb, Memory.get, hx.symm]
  | cons p m ih =>
    obtain ⟨k, v⟩ := p
    obtain ⟨_, ha, hm⟩ := (Memory.wf_cons_iff k v m).1 h
    simp only [Memory.set]
    split
    · next hk =>
      by_cases hb : b = 0
      · subst hb; rfl
      · rw [Memory.cons_ne hb, Memory.get, if_neg hx.symm]
        split
        · next hxa => exact (Memory.get_of_above (m := (k, v) :: m) (fun c hc => by
            rcases List.mem_cons.1 hc with rfl | hc
            · show x < k; omega
            · exact Nat.lt_trans (by omega) (ha c hc))).symm
        · rfl
    · split
      · next hk =>
        subst hk
        by_cases hb : b = 0
        · subst hb
          rw [Memory.cons_zero, Memory.get, if_neg hx.symm]
          split
          · next hxa => exact Memory.get_of_above (fun c hc => Nat.lt_trans hxa (ha c hc))
          · rfl
        · simp [Memory.cons_ne hb, Memory.get, hx.symm]
      · next h1 h2 => simp only [Memory.get, ih hm]

/-- A write leaves every byte outside it as it was. -/
theorem Memory.get_write_outside (m : Memory) (a x : Nat) (bs : List Byte) (h : Memory.wf m = true)
    (hx : x < a ∨ a + bs.length ≤ x) : Memory.get (Memory.write m a bs) x = Memory.get m x := by
  induction bs generalizing m a with
  | nil => rfl
  | cons b bs ih =>
    simp only [List.length_cons] at hx
    have e := ih (Memory.set m a b) (a + 1) (Memory.wf_set m a b h) (by omega)
    rw [Memory.write, e, Memory.get_set_ne m a x b h (by omega)]

/-- The bytes written read back. -/
theorem Memory.get_write_inside (m : Memory) (a i : Nat) (bs : List Byte) (h : Memory.wf m = true) (hi : i < bs.length) :
    Memory.get (Memory.write m a bs) (a + i) = bs[i] := by
  induction bs generalizing m a i with
  | nil => simp at hi
  | cons b bs ih =>
    cases i with
    | zero =>
      rw [Memory.write, Nat.add_zero, Memory.get_write_outside _ _ _ _ (Memory.wf_set m a b h) (by omega)]
      simp [h]
    | succ i =>
      have e := ih (Memory.set m a b) (a + 1) i (Memory.wf_set m a b h) (by simpa using hi)
      rw [Memory.write, show a + (i + 1) = a + 1 + i by omega, e]
      rfl

@[simp] theorem Memory.length_read (m : Memory) (a n : Nat) : (Memory.read m a n).length = n := by
  induction n generalizing a with
  | zero => rfl
  | succ n ih => simp [Memory.read, ih]

theorem Memory.getElem_read (m : Memory) (a n i : Nat) (h : i < (Memory.read m a n).length) :
    (Memory.read m a n)[i] = Memory.get m (a + i) := by
  induction n generalizing a i with
  | zero => simp [Memory.read] at h
  | succ n ih =>
    cases i with
    | zero => simp [Memory.read]
    | succ i =>
      simp only [Memory.read, List.getElem_cons_succ]
      rw [ih (a + 1) i (by simpa [Memory.read] using h), show a + 1 + i = a + (i + 1) by omega]

/-- What a write stored is what a read of the same bytes gives. -/
theorem Memory.read_write_same (m : Memory) (a : Nat) (bs : List Byte) (h : Memory.wf m = true) :
    Memory.read (Memory.write m a bs) a bs.length = bs := by
  apply List.ext_getElem (by simp)
  intro i h1 h2
  rw [Memory.getElem_read, Memory.get_write_inside m a i bs h h2]

/-- A read apart from a write gives what it gave before. -/
theorem Memory.read_write_apart (m : Memory) (a x n : Nat) (bs : List Byte) (h : Memory.wf m = true)
    (hx : x + n ≤ a ∨ a + bs.length ≤ x) : Memory.read (Memory.write m a bs) x n = Memory.read m x n := by
  apply List.ext_getElem (by simp)
  intro i h1 h2
  simp only [Memory.length_read] at h1
  rw [Memory.getElem_read, Memory.getElem_read, Memory.get_write_outside m a (x + i) bs h (by omega)]

/-- A cleared byte reads zero. -/
theorem Memory.get_clear_inside (m : Memory) (lo hi x : Nat) (h : Memory.wf m = true) (hx : lo ≤ x ∧ x < hi) :
    Memory.get (Memory.clear m lo hi) x = 0 := by
  induction m with
  | nil => rfl
  | cons p m ih =>
    obtain ⟨k, v⟩ := p
    obtain ⟨_, ha, hm⟩ := (Memory.wf_cons_iff k v m).1 h
    have ih' := ih hm
    unfold Memory.clear at ih' ⊢
    by_cases hk : k < lo ∨ hi ≤ k
    · rw [List.filter_cons_of_pos (by simpa using hk)]
      simp only [Memory.get]
      rw [if_neg (by omega)]
      split
      · rfl
      · exact ih'
    · rw [List.filter_cons_of_neg (by simpa using hk)]; exact ih'

theorem Memory.get_clear_outside (m : Memory) (lo hi x : Nat) (h : Memory.wf m = true) (hx : x < lo ∨ hi ≤ x) :
    Memory.get (Memory.clear m lo hi) x = Memory.get m x := by
  induction m with
  | nil => rfl
  | cons p m ih =>
    obtain ⟨k, v⟩ := p
    obtain ⟨_, ha, hm⟩ := (Memory.wf_cons_iff k v m).1 h
    have ih' := ih hm
    unfold Memory.clear at ih' ⊢
    by_cases hk : k < lo ∨ hi ≤ k
    · rw [List.filter_cons_of_pos (by simpa using hk)]
      simp only [Memory.get, ih']
    · rw [List.filter_cons_of_neg (by simpa using hk), ih']
      simp only [Memory.get]
      rw [if_neg (by omega)]
      split
      · next hxk => exact Memory.get_of_above (fun c hc => Nat.lt_trans hxk (ha c hc))
      · rfl

end Sys2Proof
end

