-- ==== Sys2Proof/Laws/Operands.lean ====
section
/-! SUPPORT. What reading a specifier and writing a destination do (R253, R254). -/

namespace Sys2Proof.Machine

/-! ## Computations that may trap -/

theorem bind_eq_ok {α β : Type} {x : Except Trap α} {f : α → Except Trap β} {b : β} :
    (x >>= f) = .ok b ↔ ∃ a, x = .ok a ∧ f a = .ok b := by
  cases x with
  | error e => simp [bind, Except.bind]
  | ok a => simp [bind, Except.bind]

theorem pure_eq_ok {α : Type} {a b : α} : (pure a : Except Trap α) = .ok b ↔ a = b := by simp [pure, Except.pure]

theorem check_eq_ok {t : Trap} {b : Bool} {u : Unit} : check t b = .ok u ↔ b = true := by
  unfold check; cases b <;> simp

/-! ## Specifiers -/

/-- A specifier that the lane reaches is read, and only the lane's shadow may change. -/
theorem Firing.read_ok (l : Firing) (s : State) (c : Nat) (sp : Spec) (h : l.reaches sp) :
    ∃ v q, l.read s c sp = .ok (v, { l with shadow := q }) := by
  cases sp with
  | slot i =>
    have hf : l.frameless = false := h
    show ∃ v q, l.readSlot (s.core c) i.val = _
    unfold Firing.readSlot
    rw [if_neg (by rw [hf]; exact Bool.false_ne_true)]
    dsimp only
    split
    · exact ⟨_, l.shadow, rfl⟩
    · exact ⟨_, _, rfl⟩
  | _ => exact ⟨_, l.shadow, rfl⟩

theorem Firing.reaches_shadow (l : Firing) (q : Bool) (sp : Spec) : ({ l with shadow := q } : Firing).reaches sp ↔ l.reaches sp := by
  cases sp <;> rfl

theorem Firing.reaches_of_frameless {l m : Firing} (h : m.frameless = l.frameless) (sp : Spec) : m.reaches sp ↔ l.reaches sp := by
  cases sp <;> simp [Firing.reaches, h]

/-- Reading leaves the lane as it is but for its shadow. -/
theorem Firing.read_shadow {l l1 : Firing} {s : State} {c : Nat} {sp : Spec} {v : W64} (h : l.read s c sp = .ok (v, l1)) :
    ∃ q, l1 = { l with shadow := q } := by
  cases sp with
  | slot i =>
    simp only [Firing.read, Firing.readSlot] at h
    split at h
    · cases h
    · split at h
      · cases h; exact ⟨l.shadow, rfl⟩
      · cases h; exact ⟨_, rfl⟩
  | _ => cases h; exact ⟨l.shadow, rfl⟩

theorem Firing.read_frameless {l l1 : Firing} {s : State} {c : Nat} {sp : Spec} {v : W64} (h : l.read s c sp = .ok (v, l1)) :
    l1.frameless = l.frameless := by
  obtain ⟨q, rfl⟩ := Firing.read_shadow h; rfl

/-- The result is written wherever the lane reaches the destination. -/
theorem Firing.writeD_ok (l : Firing) (d : Spec) (v : W64) (h : l.reaches d) : ∃ l1, l.writeD d v = .ok l1 := by
  cases d with
  | slot i => exact ⟨_, by simp [Firing.writeD, Firing.writeSlot, show l.frameless = false from h]; rfl⟩
  | _ => exact ⟨_, rfl⟩

theorem Firing.writeCond_ok (l : Firing) (d : Spec) (b : Bool) (h : l.reaches d) : ∃ l1, l.writeCond d b = .ok l1 := by
  cases d with
  | lit i => exact ⟨_, rfl⟩
  | _ => exact Firing.writeD_ok l _ (if b then 1 else 0) h

@[simp] theorem Firing.raise_frameless (l : Firing) (f : BitVec 5) : (l.raise f).frameless = l.frameless := by
  unfold Firing.raise; split <;> rfl

/-- The value read does not depend on the lane's shadow. -/
theorem Firing.read_of_shadow {l l1 : Firing} {q : Bool} {s : State} {c : Nat} {sp : Spec} {v : W64}
    (h : ({ l with shadow := q } : Firing).read s c sp = .ok (v, l1)) : ∃ r, l.read s c sp = .ok (v, { l with shadow := r }) := by
  cases sp with
  | slot i =>
    have h' : ({ l with shadow := q } : Firing).readSlot (s.core c) i.val = .ok (v, l1) := h
    show ∃ r, l.readSlot (s.core c) i.val = _
    unfold Firing.readSlot at h' ⊢
    by_cases hf : l.frameless = true
    · rw [if_pos hf] at h'; cases h'
    · rw [if_neg hf] at h' ⊢
      dsimp only at h' ⊢
      rw [show ({ l with shadow := q } : Firing).stagedSlot (l.frame + i.val) = l.stagedSlot (l.frame + i.val) from rfl] at h'
      cases hs : l.stagedSlot (l.frame + i.val) with
      | some u => rw [hs] at h'; cases h'; exact ⟨l.shadow, rfl⟩
      | none => rw [hs] at h'; cases h'; exact ⟨_, rfl⟩
  | _ => cases h; exact ⟨l.shadow, rfl⟩

/-- A two's-complement number read from its bits. -/
theorem sext_toInt (n : Nat) (x : BitVec n) : sext n x.toNat = x.toInt := by
  unfold sext
  rw [Nat.mod_eq_of_lt x.isLt, BitVec.toInt_eq_toNat_cond]
  simp only []
  rcases n with _ | n
  · simp [BitVec.eq_nil x]
  · have : 2 * 2 ^ n = 2 ^ (n + 1) := by rw [Nat.pow_succ, Nat.mul_comm]
    simp only [Nat.add_sub_cancel]
    split <;> rename_i h <;> split <;> rename_i h2 <;> first | rfl | omega

end Sys2Proof.Machine
end

