-- ==== Sys2Proof/Laws/Words.lean ====
section
/-! SUPPORT. What the words of each shape do, from what their lanes do: the lemmas that statements about single words cite. -/

namespace Sys2Proof.Machine

theorem everyLane.imp {s : State} {c : Nat} {x : Group} {h : Hdr} {P Q : Firing → Prop} (hp : everyLane s c x h P)
    (f : ∀ l, P l → Q l) : everyLane s c x h Q := fun l h1 h2 h3 => f _ (hp l h1 h2 h3)

theorem Firing.result_ok (l : Firing) (d : Spec) (r : Result) (h : l.reaches d) : ∃ l1, l.result d r = .ok l1 :=
  Firing.writeD_ok _ _ _ ((Firing.reaches_of_frameless (l := l) (by simp) d).2 h)

theorem lane_unary (w : RWord) (f : State → Nat → Firing → W64 → Except Trap Result) (s : State) (c : Nat) (l : Firing) :
    (do let (a, l1) ← l.read s c w.a
        let r ← f s c l1 a
        l1.result w.d r)
      = (match l.read s c w.a with
        | .ok (a, l1) => (match f s c l1 a with | .ok r => l1.result w.d r | .error e => .error e)
        | .error e => (.error e : Except Trap Firing)) := by
  cases l.read s c w.a with
  | error e => rfl
  | ok p => obtain ⟨a, l1⟩ := p; simp only [bind, Except.bind]; cases f s c l1 a <;> rfl

theorem unary_gives {i : Instr} {w : RWord} {f : State → Nat → Firing → W64 → Result}
    (hi : ∀ s, exec i s = word (.r w) (lane fun s c l => do
      let (a, l1) ← l.read s c w.a
      l1.result w.d (f s c l1 a)) s)
    (hf : ∀ s c gs p n l a, f (s.same c gs p n) c l a = f s c l a) : unaryGives i w f := by
  intro s c j g x hs hr
  refine word_gives_blind hs (hi s) ?_ ?_ ?_
  · intro gs p n l; simp [hf]
  · refine everyLane.imp hr (fun l h => ?_)
    obtain ⟨v, q, hv⟩ := Firing.read_ok l s c w.a h.1
    obtain ⟨l1, h1⟩ := Firing.result_ok { l with shadow := q } w.d (f s c { l with shadow := q } v)
      ((Firing.reaches_shadow l q w.d).2 h.2)
    exact ⟨l1, by simp [hv, bind, Except.bind, h1]⟩
  · intro l l1 h
    cases hv : l.read s c w.a with
    | error e => simp [hv, bind, Except.bind] at h
    | ok p =>
      obtain ⟨a, l2⟩ := p
      simp only [hv, bind, Except.bind] at h
      exact ⟨a, l2, rfl, h⟩

theorem unary_gives' {i : Instr} {w : RWord} {f : Firing → W64 → Result}
    (hi : ∀ s, exec i s = word (.r w) (unary w fun l a => .ok (f l a)) s) : unaryGives i w (fun _ _ l a => f l a) :=
  unary_gives hi (fun _ _ _ _ _ _ _ => rfl)

theorem binary_gives {i : Instr} {w : RWord} {f : Firing → W64 → W64 → Result}
    (hi : ∀ s, exec i s = word (.r w) (binary w fun l a b => .ok (f l a b)) s) : binaryGives i w f := by
  intro s c j g x hs hr
  refine word_gives_blind (F := fun s c l => do
      let (a, l1) ← l.read s c w.a
      let (b, l2) ← l1.read s c w.b
      l2.result w.d (f l2 a b)) hs (hi s) ?_ ?_ ?_
  · intro gs p n l; simp
  · refine everyLane.imp hr (fun l h => ?_)
    obtain ⟨a, q, ha⟩ := Firing.read_ok l s c w.a h.1
    obtain ⟨b, q2, hb⟩ := Firing.read_ok { l with shadow := q } s c w.b ((Firing.reaches_shadow l q w.b).2 h.2.1)
    obtain ⟨l1, h1⟩ := Firing.result_ok { l with shadow := q2 } w.d (f { l with shadow := q2 } a b)
      ((Firing.reaches_shadow l q2 w.d).2 h.2.2)
    exact ⟨l1, by simp only [ha, bind, Except.bind, hb, h1]⟩
  · intro l l1 h
    cases ha : l.read s c w.a with
    | error e => simp [ha, bind, Except.bind] at h
    | ok p =>
      obtain ⟨a, l2⟩ := p
      simp only [ha, bind, Except.bind] at h
      cases hb : l2.read s c w.b with
      | error e => simp [hb] at h
      | ok p =>
        obtain ⟨b, l3⟩ := p
        simp only [hb] at h
        exact ⟨a, l2, b, l3, rfl, hb, h⟩

theorem ternary_gives {i : Instr} {w : RWord} {f : Firing → W64 → W64 → W64 → Result}
    (hi : ∀ s, exec i s = word (.r w) (ternary w fun l a b e => .ok (f l a b e)) s) : ternaryGives i w f := by
  intro s c j g x hs hr
  refine word_gives_blind (F := fun s c l => do
      let (a, l1) ← l.read s c w.a
      let (b, l2) ← l1.read s c w.b
      let (e, l3) ← l2.read s c w.c
      l3.result w.d (f l3 a b e)) hs (hi s) ?_ ?_ ?_
  · intro gs p n l; simp
  · refine everyLane.imp hr (fun l h => ?_)
    obtain ⟨a, q, ha⟩ := Firing.read_ok l s c w.a h.1
    obtain ⟨b, q2, hb⟩ := Firing.read_ok { l with shadow := q } s c w.b ((Firing.reaches_shadow l q w.b).2 h.2.1)
    obtain ⟨e, q3, he⟩ := Firing.read_ok { l with shadow := q2 } s c w.c ((Firing.reaches_shadow l q2 w.c).2 h.2.2.1)
    obtain ⟨l1, h1⟩ := Firing.result_ok { l with shadow := q3 } w.d (f { l with shadow := q3 } a b e)
      ((Firing.reaches_shadow l q3 w.d).2 h.2.2.2)
    exact ⟨l1, by simp only [ha, bind, Except.bind, hb, he, h1]⟩
  · intro l l1 h
    cases ha : l.read s c w.a with
    | error e => simp [ha, bind, Except.bind] at h
    | ok p =>
      obtain ⟨a, l2⟩ := p
      simp only [ha, bind, Except.bind] at h
      cases hb : l2.read s c w.b with
      | error e => simp [hb] at h
      | ok p =>
        obtain ⟨b, l3⟩ := p
        simp only [hb] at h
        cases hc : l3.read s c w.c with
        | error e => simp [hc] at h
        | ok p =>
          obtain ⟨e, l4⟩ := p
          simp only [hc] at h
          exact ⟨a, l2, b, l3, e, l4, rfl, hb, hc, h⟩

theorem compares_gives {i : Instr} {w : RWord} {f : W64 → W64 → Bool × Flags}
    (hi : ∀ s, exec i s = word (.r w) (compares w f) s) : comparesGives i w f := by
  intro s c j g x hs hr
  refine word_gives_blind (F := fun s c l => do
      let (a, l1) ← l.read s c w.a
      let (b, l2) ← l1.read s c w.b
      (l2.raise (f a b).2).writeCond w.d (f a b).1) hs (hi s) ?_ ?_ ?_
  · intro gs p n l; simp
  · refine everyLane.imp hr (fun l h => ?_)
    obtain ⟨a, q, ha⟩ := Firing.read_ok l s c w.a h.1
    obtain ⟨b, q2, hb⟩ := Firing.read_ok { l with shadow := q } s c w.b ((Firing.reaches_shadow l q w.b).2 h.2.1)
    obtain ⟨l1, h1⟩ := Firing.writeCond_ok (({ l with shadow := q2 } : Firing).raise (f a b).2) w.d (f a b).1
      ((Firing.reaches_of_frameless (l := l) (by simp) w.d).2 h.2.2)
    exact ⟨l1, by simp only [ha, bind, Except.bind, hb, h1]⟩
  · intro l l1 h
    cases ha : l.read s c w.a with
    | error e => simp [ha, bind, Except.bind] at h
    | ok p =>
      obtain ⟨a, l2⟩ := p
      simp only [ha, bind, Except.bind] at h
      cases hb : l2.read s c w.b with
      | error e => simp [hb] at h
      | ok p =>
        obtain ⟨b, l3⟩ := p
        simp only [hb] at h
        exact ⟨a, l2, b, l3, rfl, hb, h⟩

/-! ## Requests -/

theorem readsTwo_ok {s : State} {c : Nat} {x y : Spec} {l : Firing} (hx : l.reaches x) (hy : l.reaches y) :
    ∃ a b q, readsTwo s c x y l a b { l with shadow := q } := by
  obtain ⟨a, q, ha⟩ := Firing.read_ok l s c x hx
  obtain ⟨b, q2, hb⟩ := Firing.read_ok { l with shadow := q } s c y ((Firing.reaches_shadow l q y).2 hy)
  exact ⟨a, b, q2, _, ha, hb⟩

theorem readsThree_ok {s : State} {c : Nat} {x y z : Spec} {l : Firing} (hx : l.reaches x) (hy : l.reaches y) (hz : l.reaches z) :
    ∃ a b d q, readsThree s c x y z l a b d { l with shadow := q } := by
  obtain ⟨a, b, q, h⟩ := readsTwo_ok (s := s) (c := c) hx hy
  obtain ⟨d, q2, hd⟩ := Firing.read_ok { l with shadow := q } s c z ((Firing.reaches_shadow l q z).2 hz)
  exact ⟨a, b, d, q2, _, h, hd⟩

theorem readsTwo_ok' {s : State} {c : Nat} {x y : Spec} {l : Firing} (hx : l.reaches x) (hy : l.reaches y) :
    ∃ a b l2, readsTwo s c x y l a b l2 := by
  obtain ⟨a, b, q, h⟩ := readsTwo_ok (s := s) (c := c) hx hy
  exact ⟨a, b, _, h⟩

theorem readsThree_ok' {s : State} {c : Nat} {x y z : Spec} {l : Firing} (hx : l.reaches x) (hy : l.reaches y) (hz : l.reaches z) :
    ∃ a b d l3, readsThree s c x y z l a b d l3 := by
  obtain ⟨a, b, d, q, h⟩ := readsThree_ok (s := s) (c := c) hx hy hz
  exact ⟨a, b, d, _, h⟩

/-- A computation that reads A and B and goes on. -/
theorem bind_readsTwo {α : Type} {s : State} {c : Nat} {x y : Spec} {l l2 : Firing} {a b : W64}
    (h : readsTwo s c x y l a b l2) (k : W64 → W64 → Firing → Except Trap α) :
    (do let (a, l1) ← l.read s c x
        let (b, l2) ← l1.read s c y
        k a b l2) = k a b l2 := by
  obtain ⟨l1, h1, h2⟩ := h
  simp only [h1, bind, Except.bind, h2]

theorem readsTwo_of_ok {α : Type} {s : State} {c : Nat} {x y : Spec} {l : Firing} {r : α}
    {k : W64 → W64 → Firing → Except Trap α}
    (h : (do let (a, l1) ← l.read s c x
             let (b, l2) ← l1.read s c y
             k a b l2) = .ok r) : ∃ a b l2, readsTwo s c x y l a b l2 ∧ k a b l2 = .ok r := by
  cases ha : l.read s c x with
  | error e => simp [ha, bind, Except.bind] at h
  | ok p =>
    obtain ⟨a, l1⟩ := p
    simp only [ha, bind, Except.bind] at h
    cases hb : l1.read s c y with
    | error e => simp [hb] at h
    | ok p =>
      obtain ⟨b, l2⟩ := p
      simp only [hb] at h
      exact ⟨a, b, l2, ⟨l1, ha, hb⟩, h⟩

theorem bind_readsThree {α : Type} {s : State} {c : Nat} {x y z : Spec} {l l3 : Firing} {a b d : W64}
    (h : readsThree s c x y z l a b d l3) (k : W64 → W64 → W64 → Firing → Except Trap α) :
    (do let (a, l1) ← l.read s c x
        let (b, l2) ← l1.read s c y
        let (d, l3) ← l2.read s c z
        k a b d l3) = k a b d l3 := by
  obtain ⟨l2, ⟨l1, h1, h2⟩, h3⟩ := h
  simp only [h1, bind, Except.bind, h2, h3]

theorem readsThree_of_ok {α : Type} {s : State} {c : Nat} {x y z : Spec} {l : Firing} {r : α}
    {k : W64 → W64 → W64 → Firing → Except Trap α}
    (h : (do let (a, l1) ← l.read s c x
             let (b, l2) ← l1.read s c y
             let (d, l3) ← l2.read s c z
             k a b d l3) = .ok r) : ∃ a b d l3, readsThree s c x y z l a b d l3 ∧ k a b d l3 = .ok r := by
  obtain ⟨a, b, l2, h2, h⟩ := readsTwo_of_ok (k := fun a b l2 => do let (d, l3) ← l2.read s c z; k a b d l3) h
  cases hd : l2.read s c z with
  | error e => simp [hd, bind, Except.bind] at h
  | ok p =>
    obtain ⟨d, l3⟩ := p
    simp only [hd, bind, Except.bind] at h
    exact ⟨a, b, d, l3, ⟨l2, h2, hd⟩, h⟩

theorem memory_gives {i : Instr} {w : MWord} {chk : State → Nat → Firing → Req → Except Trap Req}
    {ok : State → Nat → Firing → Req → Prop} {mk : State → Nat → Firing → Req → Req}
    (hi : ∀ s, exec i s = word (.m w) (requestM w i chk) s)
    (hb : ∀ s c gs p n l r, chk (s.same c gs p n) c l r = chk s c l r)
    (hok : ∀ s c l r, ok s c l r → ∃ r', chk s c l r = .ok r')
    (hmk : ∀ s c l r r', chk s c l r = .ok r' → r' = mk s c l r) : memoryGives i w ok mk := by
  intro s c j g x hs hr
  refine word_gives_blind (F := fun s c l => do
      let (a, l1) ← l.read s c w.a
      let (b, l2) ← l1.read s c w.b
      let (d, l3) ← l2.read s c w.d
      let r ← chk s c l3 (l3.ask s c i w.cent w.cport a b d)
      return l3.stage (.request r)) hs (hi s) ?_ ?_ ?_
  · intro gs p n l; simp [hb]
  · refine everyLane.imp hr (fun l h => ?_)
    obtain ⟨a, b, d, l3, h3⟩ := readsThree_ok' (s := s) (c := c) h.1 h.2.1 h.2.2.1
    obtain ⟨r', hr'⟩ := hok _ _ _ _ (h.2.2.2 a b d _ h3)
    refine ⟨l3.stage (.request r'), ?_⟩
    · rw [bind_readsThree h3 (fun a b d l3 => do
        let r ← chk s c l3 (l3.ask s c i w.cent w.cport a b d)
        return l3.stage (.request r)), hr']; rfl
  · intro l l1 h
    obtain ⟨a, b, d, l3, h3, h4⟩ := readsThree_of_ok (k := fun a b d l3 => do
        let r ← chk s c l3 (l3.ask s c i w.cent w.cport a b d)
        return l3.stage (.request r)) h
    cases hc : chk s c l3 (l3.ask s c i w.cent w.cport a b d) with
    | error e => simp [hc, bind, Except.bind] at h4
    | ok r =>
      simp only [hc, bind, Except.bind, pure, Except.pure, Except.ok.injEq] at h4
      exact ⟨a, b, d, l3, h3, by rw [← h4, hmk _ _ _ _ _ hc]⟩

theorem plain_gives {i : Instr} {w : RWord} {chk : State → Nat → Firing → Req → Except Trap Req}
    {ok : State → Nat → Firing → Req → Prop}
    (hi : ∀ s, exec i s = word (.r w) (requestR w i chk) s)
    (hb : ∀ s c gs p n l r, chk (s.same c gs p n) c l r = chk s c l r)
    (hok : ∀ s c l r, ok s c l r → ∃ r', chk s c l r = .ok r')
    (hmk : ∀ s c l r r', chk s c l r = .ok r' → r' = r) : plainGives i w ok := by
  intro s c j g x hs hr
  refine word_gives_blind (F := fun s c l => do
      let (a, l1) ← l.read s c w.a
      let (b, l2) ← l1.read s c w.b
      let r ← chk s c l2 (l2.ask s c i 0 .l a b 0)
      return l2.stage (.request r)) hs (hi s) ?_ ?_ ?_
  · intro gs p n l; simp [hb]
  · refine everyLane.imp hr (fun l h => ?_)
    obtain ⟨a, b, l2, h3⟩ := readsTwo_ok' (s := s) (c := c) h.1 h.2.1
    obtain ⟨r', hr'⟩ := hok _ _ _ _ (h.2.2 a b _ h3)
    refine ⟨l2.stage (.request r'), ?_⟩
    · rw [bind_readsTwo h3 (fun a b l2 => do
        let r ← chk s c l2 (l2.ask s c i 0 .l a b 0)
        return l2.stage (.request r)), hr']; rfl
  · intro l l1 h
    obtain ⟨a, b, l2, h3, h4⟩ := readsTwo_of_ok (k := fun a b l2 => do
        let r ← chk s c l2 (l2.ask s c i 0 .l a b 0)
        return l2.stage (.request r)) h
    cases hc : chk s c l2 (l2.ask s c i 0 .l a b 0) with
    | error e => simp only [hc, bind, Except.bind] at h4; cases h4
    | ok r =>
      simp only [hc, bind, Except.bind, pure, Except.pure, Except.ok.injEq] at h4
      exact ⟨a, b, l2, h3, by rw [← h4, hmk _ _ _ _ _ hc]⟩

theorem check_ok {t : Trap} {b : Bool} : check t b = .ok () ↔ b = true := by
  unfold check; cases b <;> simp

theorem check_true {t : Trap} : check t true = .ok () := rfl

/-- A chain of checks that all hold. -/
theorem check_bind {α : Type} {t : Trap} {b : Bool} (h : b = true) (k : Except Trap α) :
    (do check t b; k) = k := by subst h; rfl

theorem bind_check_ok {α : Type} {t : Trap} {b : Bool} {k : Except Trap α} {r : α} (h : (do check t b; k) = .ok r) :
    b = true ∧ k = .ok r := by
  cases b with
  | true => exact ⟨rfl, h⟩
  | false => cases h

theorem tile_gives {i : Instr} {w : TWord} {rule : Core → Req → TileRule}
    (hi : ∀ s, exec i s = word (.t w) (requestT w i rule) s)
    (hb : ∀ (k : Core) gs p n r, rule { k with groups := gs, perf := p, lastIssue := n } r = rule k r) : tileGives i w rule := by
  intro s c j g x hs hr
  refine word_gives_blind (F := fun s c l => do
      let (a, l1) ← l.read s c w.a
      let (b, l2) ← l1.read s c w.b
      let (d, l3) ← l2.read s c w.d
      let r ← tileChecks rule s c l3 (l3.ask s c i w.cent w.cport a b d)
      return l3.stage (.request r)) hs (hi s) ?_ ?_ ?_
  · intro gs p n l
    simp only [Firing.read_same, Firing.ask_same, tileChecks, Firing.handleOk_same, State.core_same, hb]
    rfl
  · refine everyLane.imp hr (fun l h => ?_)
    obtain ⟨a, b, d, l3, h3⟩ := readsThree_ok' (s := s) (c := c) h.1 h.2.1 h.2.2.1
    obtain ⟨k1, k2, k3⟩ := h.2.2.2 a b d _ h3
    refine ⟨l3.stage (.request (l3.ask s c i w.cent w.cport a b d)), ?_⟩
    · rw [bind_readsThree h3 (fun a b d l3 => do
        let r ← tileChecks rule s c l3 (l3.ask s c i w.cent w.cport a b d)
        return l3.stage (.request r))]
      simp only [tileChecks]
      rw [check_bind (by simpa using k1), check_bind (by simpa using k2), check_bind k3]
      rfl
  · intro l l1 h
    obtain ⟨a, b, d, l3, h3, h4⟩ := readsThree_of_ok (k := fun a b d l3 => do
        let r ← tileChecks rule s c l3 (l3.ask s c i w.cent w.cport a b d)
        return l3.stage (.request r)) h
    refine ⟨a, b, d, l3, h3, ?_⟩
    simp only [tileChecks, bind_assoc] at h4
    have h5 := (bind_check_ok (bind_check_ok (bind_check_ok h4).2).2).2
    exact (Except.ok.inj h5).symm

/-! ## Sends -/

theorem Firing.sendValue_ok {l : Firing} {s : State} {c : Nat} {w : SWord} {sp : Spec} (h : sendable s c w sp l) :
    ∃ v q, l.sendValue s c w sp = .ok (v, { l with shadow := q }) := by
  unfold Firing.sendValue
  by_cases hc : w.sty = .ctrl
  · exact ⟨0, l.shadow, by simp [hc]; rfl⟩
  · rcases h with h | ⟨h1, h2⟩
    · exact absurd h hc
    · obtain ⟨v, q, hv⟩ := Firing.read_ok l s c sp h1
      refine ⟨w.sty.layout v, q, ?_⟩
      by_cases ht : w.sty = .tile
      · have : ({ l with shadow := q } : Firing).handleOk s c v = true := h2 v _ hv ht
        simp [hv, ht, this, bind, Except.bind, check, pure, Except.pure]
      · simp [hc, hv, ht, bind, Except.bind, pure, Except.pure]

theorem sendable_shadow {s : State} {c : Nat} {w : SWord} {sp : Spec} {l : Firing} (q : Bool) (h : sendable s c w sp l) :
    sendable s c w sp { l with shadow := q } := by
  rcases h with k | ⟨k1, k2⟩
  · exact .inl k
  · refine .inr ⟨(Firing.reaches_shadow l q _).2 k1, fun v l1 hv ht => ?_⟩
    obtain ⟨r, hr⟩ := Firing.read_of_shadow hv
    exact k2 v _ hr ht

theorem send_gives {i : Instr} {w : SWord} {target : State → Nat → Firing → W64 → W64 → Target}
    (hi : ∀ s, exec i s = word (.s w) (sends w target) s)
    (hb : ∀ s c gs p n l b d, target (s.same c gs p n) c l b d = target s c l b d) : sendGives i w target := by
  intro s c j g x hs hr
  refine word_gives_blind (F := fun s c l => do
      let (v, l1) ← l.sendValue s c w w.a
      let (b, l2) ← l1.read s c w.b
      let (d, l3) ← l2.read s c w.d
      let t := l3.sendToken (s.coreFor c l3) w (target s c l3 b d) (l3.sendTag w d) v
      return l3.stage (.send t l3.pc)) hs (hi s) ?_ ?_ ?_
  · intro gs p n l; simp [hb]
  · refine everyLane.imp hr (fun l h => ?_)
    obtain ⟨v, q, hv⟩ := Firing.sendValue_ok h.1
    obtain ⟨b, d, l3, h2⟩ := readsTwo_ok' (s := s) (c := c) ((Firing.reaches_shadow l q w.b).2 h.2.1)
      ((Firing.reaches_shadow l q w.d).2 h.2.2)
    refine ⟨l3.stage (.send (l3.sendToken (s.coreFor c l3) w (target s c l3 b d) (l3.sendTag w d) v) l3.pc), ?_⟩
    · simp only [hv, bind, Except.bind]
      obtain ⟨l1, h3, h4⟩ := h2
      simp only [h3, h4]
      rfl
  · intro l l1 h
    cases hv : l.sendValue s c w w.a with
    | error e => simp [hv, bind, Except.bind] at h
    | ok p =>
      obtain ⟨v, l2⟩ := p
      simp only [hv] at h
      obtain ⟨b, d, l3, h3, h4⟩ := readsTwo_of_ok (l := l2) (k := fun b d l3 =>
        (pure (l3.stage (.send (l3.sendToken (s.coreFor c l3) w (target s c l3 b d) (l3.sendTag w d) v) l3.pc)) : Except Trap Firing)) h
      simp only [pure, Except.pure, Except.ok.injEq] at h4
      exact ⟨v, l2, b, d, l3, rfl, h3, h4.symm⟩

end Sys2Proof.Machine
end

