-- ==== Sys2Proof/Tests/Slice0.lean ====
section
/-! SUPPORT. Tests: words that the spec writes out, ill-formed words, and for each statement with hypotheses a concrete state
and operands that meet them together. `test_…` says what one operation gives; `witness_…` names the statement whose hypotheses
it meets, one part for each clause. -/

namespace Sys2Proof.Tests

open Sys2Proof Sys2Proof.Machine

set_option Elab.async false

/-! ## Words that the spec writes out (chapters 10 to 15), and words written from its tables -/

def h0 : Hdr := ⟨false, false, 0⟩
def hE : Hdr := ⟨true, false, 0⟩

/-- Chapters 10, 11 and 14: FMUL, NOP, CMP, FCMP, BILV; ADD and PWEV by Tables 10.2 and 10.4. -/
theorem test_decode_scalar :
    decode 0x6100408241C00000 = .ok (.fmul ⟨h0, .temp 2, .temp 1, .temp 1, .zero, .f32, 0, .ctrl⟩)
    ∧ decode 0xFD41041040000000 = .ok (.nop ⟨hE, .zero, .zero, .zero, .zero, .ctrl, 0, .ctrl⟩)
    ∧ decode 0x2E82200241008000 = .ok (.cmp ⟨h0, .lit 1, .temp 0, .temp 1, .zero, .s32, 2, .ctrl⟩)
    ∧ decode 0x6780C19041C00000 = .ok (.fcmp ⟨h0, .temp 6, .temp 3, .zero, .zero, .f32, 0, .ctrl⟩)
    ∧ decode 0x2D80808419404000 = .ok (.bilv ⟨h0, .temp 4, .temp 1, .temp 2, .temp 3, .z32, 1, .ctrl⟩)
    ∧ decode 0x2000400241400000 = .ok (.add ⟨h0, .temp 2, .temp 0, .temp 1, .zero, .z32, 0, .ctrl⟩)
    ∧ decode 0x8080409041C0C000 = .ok (.pwev ⟨h0, .temp 2, .temp 1, .zero, .zero, .f32, 3, .ctrl⟩) := by
  refine ⟨?_, ?_, ?_, ?_, ?_, ?_, ?_⟩ <;> rfl

/-- Chapters 11, 14 and 15: STEER and SENDX; FALLOC and TRAP by Tables 9.2 and 10.2 and R256. -/
theorem test_decode_control :
    decode 0x02C0611206210038 = .ok (.steer ⟨hE, .temp 3, .temp 2, .frame, 0x31, 4, .l, .outgoing, .outgoing, .f32⟩)
    ∧ decode 0x02C0C29200408038 = .ok (.steer ⟨hE, .temp 6, .temp 5, .frame, 2, 2, .l, .outgoing, .outgoing, .f32⟩)
    ∧ decode 0x0201120200400058 = .ok (.sendx ⟨h0, .zero, .slot 4, .temp 1, 2, 0, .l, .outgoing, .outgoing, .addr⟩)
    ∧ decode 0x0381000204000000 = .ok (.falloc ⟨h0, .zero, .temp 0, .temp 1, 1, .l, 0, .relaxed, .frame, 0, 0⟩)
    ∧ decode 0xFC41041000000005 = .ok (.trap ⟨hE, .zero, .zero, .zero, 5⟩) := by
  refine ⟨?_, ?_, ?_, ?_, ?_⟩ <;> rfl

/-- Chapters 12 and 15: MMA; TADD by Table 10.10. -/
theorem test_decode_tiles :
    decode 0xD8000084140C3008 = .ok (.mma ⟨h0, .temp 0, .temp 1, .temp 2, 5, .l, 3, 3, 0, false, false, true, 0⟩)
    ∧ decode 0xD8400188180C3008 = .ok (.mma ⟨hE, .temp 0, .temp 3, .temp 4, 6, .l, 3, 3, 0, false, false, true, 0⟩)
    ∧ decode 0xD84000CC200C3008 = .ok (.mma ⟨hE, .temp 0, .temp 1, .slot 6, 8, .l, 3, 3, 0, false, false, true, 0⟩)
    ∧ decode 0xA401000208000000 = .ok (.tadd ⟨h0, .zero, .temp 0, .temp 1, 2, .l, 0, 0, 0, false, false, false, 0⟩) := by
  refine ⟨?_, ?_, ?_, ?_⟩ <;> rfl

/-- Chapters 10, 13 and 15: ST, CPYR, ATOM and RSEL; LD, WGO, SVRD and ROPEN by Tables 9.2 and 10.4. -/
theorem test_decode_requests :
    decode 0xE0C1000404430007 = .ok (.st ⟨hE, .zero, .temp 0, .temp 2, 1, .l, 2, .relaxed, .dev, 0, 7⟩)
    ∧ decode 0xE8C0A4080C000012 = .ok (.cpyr ⟨hE, .temp 5, .zero, .temp 4, 3, .l, 0, .relaxed, .frame, 0, 0x12⟩)
    ∧ decode 0xE20100220C7B0003 = .ok (.atom ⟨h0, .zero, .temp 0, .lit 1, 3, .l, 3, .acquireRelease, .dev, 0, 3⟩)
    ∧ decode 0xF0C2201010000000 = .ok (.rsel ⟨hE, .lit 1, .temp 0, .zero, 4, .l, 0, .relaxed, .frame, 0, 0⟩)
    ∧ decode 0xE00100100C630003 = .ok (.ld ⟨h0, .zero, .temp 0, .zero, 3, .l, 3, .relaxed, .dev, 0, 3⟩)
    ∧ decode 0xE981001008000000 = .ok (.wgo ⟨h0, .zero, .temp 0, .zero, 2, .l, 0, .relaxed, .frame, 0, 0⟩)
    ∧ decode 0xF800401040000000 = .ok (.svrd ⟨h0, .temp 2, .temp 0, .zero, .zero, .ctrl, 0, .ctrl⟩)
    ∧ decode 0xF001001010000000 = .ok (.ropen ⟨h0, .zero, .temp 0, .zero, 4, .l, 0, .relaxed, .frame, 0, 0⟩) := by
  refine ⟨?_, ?_, ?_, ?_, ?_, ?_, ?_, ?_⟩ <;> rfl

/-- MATCH words of chapter 10's example (R281). -/
theorem test_decode_match :
    decodeMatch 0x0081041000B39400 = .ok ⟨0, some .addr, some .f32, .match2, false⟩
    ∧ decodeMatch 0x0081041000000200 = .ok ⟨0, some .ctrl, some .ctrl, .match1, false⟩ := by
  constructor <;> rfl

/-- Words that the decoder refuses, each by its own name (R251, R253, R255). -/
theorem test_decode_refuses :
    decode 0x0081041000B39400 = .error .matchWord ∧ decode 0xFF80000000000000 = .error .unassigned
    ∧ decode 0x6100408241C00001 = .error .reservedBit ∧ decode 0x30006411FFFFFFFF = .error .reservedBit := by
  refine ⟨?_, ?_, ?_, ?_⟩ <;> rfl

/-! ## Ill-formed words, one for each check -/

def rw0 : RWord := ⟨h0, .temp 2, .temp 0, .temp 1, .zero, .z32, 0, .ctrl⟩
def mw0 : MWord := ⟨h0, .zero, .temp 0, .zero, 3, .l, 3, .relaxed, .dev, 0, 3⟩
def tw0 : TWord := ⟨h0, .zero, .temp 0, .temp 1, 2, .l, 0, 0, 0, false, false, false, 0⟩
def sw0 : SWord := ⟨h0, .zero, .temp 0, .frame, 0, 0, .l, .outgoing, .outgoing, .z32⟩

theorem test_wellFormed_accepts :
    wellFormed 4 (.add rw0) = .ok () ∧ wellFormed 4 (.ld mw0) = .ok () ∧ wellFormed 4 (.tadd tw0) = .ok ()
    ∧ wellFormed 4 (.send sw0) = .ok () := by refine ⟨?_, ?_, ?_, ?_⟩ <;> rfl

theorem test_wellFormed_refuses :
    wellFormed 4 (.add { rw0 with c := .temp 1 }) = .error .specifier
    ∧ wellFormed 4 (.add { rw0 with a := .slot 4 }) = .error .slotRange
    ∧ wellFormed 4 (.add { rw0 with ty := .f32 }) = .error .typeSet
    ∧ wellFormed 4 (.add { rw0 with mod := 1 }) = .error .modifier
    ∧ wellFormed 4 (.send { sw0 with tport := .c, tpol := .operand }) = .ok ()
    ∧ wellFormed 4 (.steal { sw0 with sty := .range, tpol := .operand }) = .error .sendField
    ∧ wellFormed 4 (.ld { mw0 with wid := 4 }) = .error .width
    ∧ wellFormed 4 (.ld { mw0 with ord := .acquireRelease }) = .error .order
    ∧ wellFormed 4 (.ld { mw0 with aop := 1 }) = .error .atomic
    ∧ wellFormed 4 (.ropen { mw0 with wid := 0, scope := .frame, mflg := 1 }) = .error .formFlag
    ∧ wellFormed 4 (.tadd { tw0 with fa := 0x1C }) = .error .format
    ∧ wellFormed 4 (.tadd { tw0 with tra := true }) = .error .tileFlag := by
  refine ⟨?_, ?_, ?_, ?_, ?_, ?_, ?_, ?_, ?_, ?_, ?_, ?_⟩ <;> rfl

/-! ## Values that the spec's tables give -/

/-- Table 11.7: conversions worked. -/
theorem test_conversions :
    cvtScalar .s32 .f32 0x40200000 .rne false 0 = some (2, flIX)
    ∧ cvtScalar .s32 .f32 0x40200000 .rna false 0 = some (3, flIX)
    ∧ cvtScalar .s32 .f32 0xBF000000 .rz false 0 = some (0, flIX)
    ∧ cvtScalar .s32 .f32 0x4F32D05E .rne false 0 = some (0x7FFFFFFF, flIV)
    ∧ cvtScalar .z32 .f32 0x7FC00000 .rne false 0 = some (0, flIV)
    ∧ cvtScalar .f16 .f32 0x4788B800 .rne false 0 = some (0x7C00, flOF ||| flIX)
    ∧ cvtScalar .f16 .f32 0x4788B800 .rne true 0 = some (0x7BFF, flOF ||| flIX)
    ∧ cvtScalar .z32 .s64 0xFFFFFFFFFFFFFFFF .rne false 0 = some (0, flIV) := by
  refine ⟨?_, ?_, ?_, ?_, ?_, ?_, ?_, ?_⟩ <;> decide +kernel

/-! ## Instruction words: the states in which they issue -/

/-- The lane whose T0, T1 and T2 hold these values. -/
def lane3 (a b d : W64) : Firing := { temps := [a, b, d, 0, 0, 0, 0, 0], preds := [true, false, true] }

/-- The group of lanes at the first word of block 0. -/
def group1 (ls : List Firing) : Group := ⟨0, 0, 0, 0, ls⟩

/-- An open job on the four cores at the origin, with a live instance. -/
def job1 : Job :=
  { st := .opened, rect := some ⟨0, 0, 2, 2⟩, weight := 4, resv := 16, phases := [{ id := 7, ticked := false, queuePolicy := false, released := true }]
    insts := [(0, { seq := 0, st := .live, phase := 7, graph := 1, preds := [], arg := 0, count := 1 })]
    graphs := [(1, { cores := 1, blocks := [0], primes := [], image := 0, dataOff := 0, fabric := none })] }

def block1 : Block := { job := 0, graph := none, code := [0x2000400241400000], fsize := 4, limit := 0, gather := false, reent := false }

/-- Core 0 issues for job 0 the group of these lanes. -/
def issuing (k : Core) (ls : List Firing) : State :=
  { State.reset with
    jobs := [(0, job1)], issue := some (0, 0), cores := [(0, { k with groups := [group1 ls], blocks := [(0, block1)] })]
    hkc := { State.reset.hkc with level := .full } }

theorem issues1 (k : Core) (l : Firing) (hl : l.going = true) : (issuing k [l]).Issues 0 0 0 (group1 [l]) := by
  constructor
  · rfl
  · simp [issuing, group1, State.core, Table.getD, Table.find, Core.issuing, hl, List.zipIdx]

/-- What one lane satisfies, every lane of its group does. -/
theorem every1 {s : State} {c : Nat} {l : Firing} {h : Hdr} {P : Firing → Prop} (hp : P (l.atWord (s.core c) (group1 [l]))) :
    everyLane s c (group1 [l]) h P := by
  intro m hm _ _
  simp only [group1, List.mem_singleton] at hm
  subst hm; exact hp

theorem readsThree_inj {s : State} {c : Nat} {x y z : Spec} {l l3 m3 : Firing} {a b d a' b' d' : W64}
    (h : readsThree s c x y z l a b d l3) (h' : readsThree s c x y z l a' b' d' m3) : a = a' ∧ b = b' ∧ d = d' ∧ l3 = m3 := by
  obtain ⟨_, ⟨_, h1, h2⟩, h3⟩ := h
  obtain ⟨_, ⟨_, g1, g2⟩, g3⟩ := h'
  cases h1.symm.trans g1; cases h2.symm.trans g2; cases h3.symm.trans g3
  exact ⟨rfl, rfl, rfl, rfl⟩

/-- The hypotheses of `memoryGives` and `tileGives` are met: a word in a group of one running lane reads A, B and D, and its
checks pass. -/
def Asks (i : Instr) (h : Hdr) (x y z : Spec) (cent : BitVec 7) (cport : Port) (ok : State → Nat → Firing → Req → Prop) : Prop :=
  ∃ s c j g grp, s.Issues c j g grp ∧ everyLane s c grp h (fun l => l.reaches x ∧ l.reaches y ∧ l.reaches z ∧
    ∀ a b d l3, readsThree s c x y z l a b d l3 → ok s c l3 (l3.ask s c i cent cport a b d))
    ∧ ∃ l ∈ grp.lanes, l.running = true ∧ (l.atWord (s.core c) grp).executes h = true

theorem asks {i : Instr} {h : Hdr} {x y z : Spec} {cent : BitVec 7} {cport : Port} {ok : State → Nat → Firing → Req → Prop}
    (k : Core) (a b d : W64) (hh : ((lane3 a b d).atWord ((issuing k [lane3 a b d]).core 0) (group1 [lane3 a b d])).executes h = true)
    (hx : ∀ l : Firing, l.frameless = false → l.reaches x ∧ l.reaches y ∧ l.reaches z)
    (hr : readsThree (issuing k [lane3 a b d]) 0 x y z
      ((lane3 a b d).atWord ((issuing k [lane3 a b d]).core 0) (group1 [lane3 a b d])) a b d
      ((lane3 a b d).atWord ((issuing k [lane3 a b d]).core 0) (group1 [lane3 a b d])))
    (ho : ok (issuing k [lane3 a b d]) 0 ((lane3 a b d).atWord ((issuing k [lane3 a b d]).core 0) (group1 [lane3 a b d]))
      (((lane3 a b d).atWord ((issuing k [lane3 a b d]).core 0) (group1 [lane3 a b d])).ask (issuing k [lane3 a b d]) 0 i cent cport a b d)) :
    Asks i h x y z cent cport ok := by
  refine ⟨issuing k [lane3 a b d], 0, 0, 0, _, issues1 k _ rfl, every1 ?_, lane3 a b d, by simp [group1], rfl, hh⟩
  obtain ⟨h1, h2, h3⟩ := hx _ (rfl : ((lane3 a b d).atWord ((issuing k [lane3 a b d]).core 0) (group1 [lane3 a b d])).frameless = false)
  refine ⟨h1, h2, h3, fun a' b' d' l3 h' => ?_⟩
  obtain ⟨rfl, rfl, rfl, rfl⟩ := readsThree_inj hr h'
  exact ho

/-- Every specifier may be reached by a lane with a frame. -/
theorem reaches_all (x y z : Spec) (l : Firing) (h : l.frameless = false) : l.reaches x ∧ l.reaches y ∧ l.reaches z := by
  refine ⟨?_, ?_, ?_⟩ <;> unfold Firing.reaches <;> split <;> first | exact h | trivial

/-- The checks of R324, evaluated. -/
theorem tileOk_of {rule : Core → Req → TileRule} {s : State} {c : Nat} {l : Firing} {r : Req}
    (h : (r.named.all (fun h => l.handleOk s c h) && (rule (s.core c) r).codes.all (fun p => ((s.core c).opTile p.1).fmt == p.2)
      && (rule (s.core c) r).shapes) = true) : tileOk rule s c l r := by
  simp only [Bool.and_eq_true, List.all_eq_true, beq_iff_eq] at h
  exact ⟨h.1.1, h.1.2, h.2⟩

/-- Three 1 × 2 tiles of FP32, and others of 2 × 1, 1 × 4 and 1 × 1. -/
def tiles4 : Core :=
  { tiles := [(0, { st := .full, refcnt := 1, pitch := 1, cols := 1 }), (1, { st := .full, refcnt := 1, pitch := 1, cols := 1, base := 1 }),
      (2, { st := .full, refcnt := 1, pitch := 1, cols := 1, base := 2 }), (3, { st := .full, refcnt := 1, pitch := 1, rows := 1, base := 4 }),
      (4, { st := .full, refcnt := 1, pitch := 1, cols := 3, base := 6 }), (5, { st := .full, refcnt := 1, pitch := 1, base := 7 })] }

def hA : W64 := tiles4.handle 0 0
def hB : W64 := tiles4.handle 0 1
def hC : W64 := tiles4.handle 0 2
def hL : W64 := tiles4.handle 0 3

/-- A memory word over T0, T1 and T2, and a tile word. -/
def mw : MWord := ⟨h0, .temp 2, .temp 0, .temp 1, 3, .l, 3, .relaxed, .dev, 0, 0⟩
def tw : TWord := ⟨h0, .temp 2, .temp 0, .temp 1, 3, .l, 0, 0, 0, false, false, false, 0⟩

abbrev AsksM (i : MWord → Instr) (w : MWord) (ok : State → Nat → Firing → Req → Prop) : Prop := Asks (i w) w.hdr w.a w.b w.d w.cent w.cport ok
abbrev AsksT (i : TWord → Instr) (w : TWord) (rule : Core → Req → TileRule) : Prop :=
  Asks (i w) w.hdr w.a w.b w.d w.cent w.cport (tileOk rule)

theorem witness_MemoryWords_scalar :
    let aligned (_ : State) (_ : Nat) (_ : Firing) (r : Req) : Prop := r.a.toNat % 2 ^ 55 % r.bytes = 0
    AsksM .ld mw aligned ∧ AsksM .st mw aligned ∧ AsksM .lda mw aligned ∧ AsksM .str mw aligned ∧ AsksM .atom mw aligned
    ∧ AsksM .atmn mw aligned ∧ AsksM .watch mw (fun s c l r => r.d.toNat ≤ 2 ^ 40 ∧ aligned s c l r)
    ∧ AsksM .pref mw (fun _ _ _ r => r.b.toNat ≤ 2 ^ 36) := by
  refine ⟨?_, ?_, ?_, ?_, ?_, ?_, ?_, ?_⟩
  all_goals exact asks {} 8 (2 ^ 36) (2 ^ 40) rfl (reaches_all _ _ _) ⟨_, ⟨_, rfl, rfl⟩, rfl⟩ (by decide)

theorem witness_MemoryWords_always :
    let always (_ : State) (_ : Nat) (_ : Firing) (_ : Req) : Prop := True
    AsksM .drain mw always ∧ AsksM .wcflush mw always ∧ AsksM .pwld mw always ∧ AsksM .lutld mw always ∧ AsksM .cpyr mw always
    ∧ AsksM .wcfg mw always ∧ AsksM .ropen mw always ∧ AsksM .rrow mw always ∧ AsksM .rcloseSel mw always
    ∧ AsksM .rcloseFin mw always ∧ AsksM .rcomb mw always ∧ AsksM .rbias mw always ∧ AsksM .rstat mw always := by
  refine ⟨?_, ?_, ?_, ?_, ?_, ?_, ?_, ?_, ?_, ?_, ?_, ?_, ?_⟩
  all_goals exact asks {} 0 0 0 rfl (reaches_all _ _ _) ⟨_, ⟨_, rfl, rfl⟩, rfl⟩ trivial

theorem witness_MemoryWords_tile :
    let valid (s : State) (c : Nat) (l : Firing) (r : Req) : Prop := ∀ h ∈ r.handles, l.handleOk s c h = true
    AsksM .tld mw (fun _ _ _ r => shapeWordOk r.memFmt r.b = true ∧ r.a.toNat % 16 = 0 ∧ r.d.toNat % 16 = 0)
    ∧ AsksM .tst mw (fun s c l r => valid s c l r ∧ (s.tileOf c r.b).fmt = r.memFmt ∧ r.a.toNat % 16 = 0 ∧ r.d.toNat % 16 = 0)
    ∧ AsksM .tldi mw (fun s c l r => valid s c l r ∧ indexTileOk (s.tileOf c r.b) = true
        ∧ shapeWordOk r.memFmt r.d = true ∧ (shapeOf r.d).2 = (s.tileOf c r.b).entries ∧ r.a.toNat % 16 = 0)
    ∧ AsksM .tsti mw (fun s c l r => valid s c l r ∧ indexTileOk (s.tileOf c r.d) = true
        ∧ (s.tileOf c r.b).fmt = r.memFmt ∧ (s.tileOf c r.b).nrows = (s.tileOf c r.d).entries ∧ r.a.toNat % 16 = 0)
    ∧ AsksM .cpy mw (fun _ _ _ r => r.a.toNat % 2 ^ 55 % 32 = 0) := by
  refine ⟨?_, ?_, ?_, ?_, ?_⟩
  · exact asks {} 16 0 16 rfl (reaches_all _ _ _) ⟨_, ⟨_, rfl, rfl⟩, rfl⟩ (by decide)
  · exact asks tiles4 16 hB 16 rfl (reaches_all _ _ _) ⟨_, ⟨_, rfl, rfl⟩, rfl⟩ ⟨List.all_eq_true.1 (by decide +kernel), by decide +kernel⟩
  · exact asks tiles4 16 hB 1 rfl (reaches_all _ _ _) ⟨_, ⟨_, rfl, rfl⟩, rfl⟩ ⟨List.all_eq_true.1 (by decide +kernel), by decide +kernel⟩
  · exact asks tiles4 16 hL hA rfl (reaches_all _ _ _) ⟨_, ⟨_, rfl, rfl⟩, rfl⟩ ⟨List.all_eq_true.1 (by decide +kernel), by decide +kernel⟩
  · exact asks {} 32 0 0 rfl (reaches_all _ _ _) ⟨_, ⟨_, rfl, rfl⟩, rfl⟩ (by decide)

/-- A core with a walker in store mode. -/
def storing : Core := { tiles4 with walkers := [(0, { claimed := true, shape := { store := true } })] }

theorem witness_EngineWords :
    let stores (s : State) (c : Nat) (r : Req) : Bool := match (s.core c).liveWalker r with | some (_, k) => k.shape.store | none => false
    let go (s : State) (c : Nat) (l : Firing) (r : Req) : Prop := walkerWordBad r.a = false
      ∧ ∀ h ∈ ({ r with hasTile := stores s c r } : Req).handles, l.handleOk s c h = true
    AsksM .wgo mw go ∧ AsksM .wgo mw (fun s c l r => stores s c r = true ∧ go s c l r)
    ∧ AsksM .wpar mw (fun _ _ _ r => walkerWordBad r.a = false ∧ (r.m.mflg.toNat < 2 ∨ r.b.toNat ≤ 16777215))
    ∧ AsksM .wpar { mw with mflg := 2 } (fun _ _ _ r => walkerWordBad r.a = false ∧ (r.m.mflg.toNat < 2 ∨ r.b.toNat ≤ 16777215))
    ∧ AsksM .wstop mw (fun _ _ _ r => walkerWordBad r.a = false) ∧ AsksM .wstat mw (fun _ _ _ r => walkerWordBad r.a = false)
    ∧ AsksM .rsel mw (fun s c l r => ∀ h ∈ r.handles, l.handleOk s c h = true) := by
  refine ⟨?_, ?_, ?_, ?_, ?_, ?_, ?_⟩
  · exact asks {} 7 0 0 rfl (reaches_all _ _ _) ⟨_, ⟨_, rfl, rfl⟩, rfl⟩ ⟨rfl, List.all_eq_true.1 (by decide +kernel)⟩
  · exact asks storing 0 hB 0 rfl (reaches_all _ _ _) ⟨_, ⟨_, rfl, rfl⟩, rfl⟩
      ⟨rfl, rfl, List.all_eq_true.1 (by decide +kernel)⟩
  · exact asks {} 7 (2 ^ 63) 0 rfl (reaches_all _ _ _) ⟨_, ⟨_, rfl, rfl⟩, rfl⟩ (by decide)
  · exact asks {} 7 16777215 0 rfl (reaches_all _ _ _) ⟨_, ⟨_, rfl, rfl⟩, rfl⟩ (by decide)
  · exact asks {} 7 0 0 rfl (reaches_all _ _ _) ⟨_, ⟨_, rfl, rfl⟩, rfl⟩ (by decide)
  · exact asks {} 7 0 0 rfl (reaches_all _ _ _) ⟨_, ⟨_, rfl, rfl⟩, rfl⟩ (by decide)
  · exact asks tiles4 hA 0 0 rfl (reaches_all _ _ _) ⟨_, ⟨_, rfl, rfl⟩, rfl⟩ (List.all_eq_true.1 (by decide +kernel))

theorem witness_TileWords_objects :
    AsksT .talloc tw (fun _ r => { shapes := shapeWordOk r.t.fc.toNat r.a }) ∧ AsksT .tfree tw (fun _ _ => {})
    ∧ AsksT .tdesc tw (fun _ r => { shapes := decide (r.b.toNat % 2 ^ 32 < 2) }) ∧ AsksT .tview tw viewTile
    ∧ AsksT .tfill tw (fun _ r => { shapes := shapeWordOk r.t.fc.toNat r.a }) ∧ AsksT .tcopy { tw with b := .zero } copyTile
    ∧ AsksT .tcvt tw oneTile ∧ AsksT .tqnt tw quantTile ∧ AsksT .tget tw elementRule ∧ AsksT .tset tw elementRule := by
  refine ⟨?_, ?_, ?_, ?_, ?_, ?_, ?_, ?_, ?_, ?_⟩
  · exact asks {} 0x07FF07FF 0 0 rfl (reaches_all _ _ _) ⟨_, ⟨_, rfl, rfl⟩, rfl⟩ (tileOk_of (by decide +kernel))
  · exact asks tiles4 hA 0 0 rfl (reaches_all _ _ _) ⟨_, ⟨_, rfl, rfl⟩, rfl⟩ (tileOk_of (by decide +kernel))
  · exact asks tiles4 hA 1 0 rfl (reaches_all _ _ _) ⟨_, ⟨_, rfl, rfl⟩, rfl⟩ (tileOk_of (by decide +kernel))
  · exact asks tiles4 hA 0 0x10000 rfl (reaches_all _ _ _) ⟨_, ⟨_, rfl, rfl⟩, rfl⟩ (tileOk_of (by decide +kernel))
  · exact asks {} 0 0x3F80 0 rfl (reaches_all _ _ _) ⟨_, ⟨_, rfl, rfl⟩, rfl⟩ (tileOk_of (by decide +kernel))
  · exact asks tiles4 hA 0 0 rfl (reaches_all _ _ _) ⟨_, ⟨_, rfl, rfl⟩, rfl⟩ (tileOk_of (by decide +kernel))
  · exact asks tiles4 hA 0 0 rfl (reaches_all _ _ _) ⟨_, ⟨_, rfl, rfl⟩, rfl⟩ (tileOk_of (by decide +kernel))
  · exact asks tiles4 hA 0 0 rfl (reaches_all _ _ _) ⟨_, ⟨_, rfl, rfl⟩, rfl⟩ (tileOk_of (by decide +kernel))
  · exact asks tiles4 hA 0x10000 0 rfl (reaches_all _ _ _) ⟨_, ⟨_, rfl, rfl⟩, rfl⟩ (tileOk_of (by decide +kernel))
  · exact asks tiles4 hA 0x10000 0 rfl (reaches_all _ _ _) ⟨_, ⟨_, rfl, rfl⟩, rfl⟩ (tileOk_of (by decide +kernel))

theorem witness_TileWords_arithmetic :
    AsksT .tadd tw twoTiles ∧ AsksT .tsub tw twoTiles ∧ AsksT .tmul tw twoTiles ∧ AsksT .tmin tw twoTiles ∧ AsksT .tmax tw twoTiles
    ∧ AsksT .tcmp tw twoTiles ∧ AsksT .tfma tw fmaTiles ∧ AsksT .tabs tw signTile ∧ AsksT .tneg tw signTile ∧ AsksT .tsel tw selTiles
    ∧ AsksT .tpwp tw oneTile ∧ AsksT .tlut tw oneTile ∧ AsksT .tred tw redTileRule ∧ AsksT .tscan tw oneTile
    ∧ AsksT .ttrn tw turnTile ∧ AsksT .tgth tw gatherTile ∧ AsksT .tsct { tw with tmod := 1 } scatterTile ∧ AsksT .tcat tw joinTiles
    ∧ AsksT .racc tw raccRule := by
  refine ⟨?_, ?_, ?_, ?_, ?_, ?_, ?_, ?_, ?_, ?_, ?_, ?_, ?_, ?_, ?_, ?_, ?_, ?_, ?_⟩
  all_goals exact asks tiles4 hA hB hC rfl (reaches_all _ _ _) ⟨_, ⟨_, rfl, rfl⟩, rfl⟩ (tileOk_of (by decide +kernel))

theorem witness_TileWords_matrix :
    AsksT .tbcst tw bcastTile ∧ AsksT .tspl { tw with tmod := 1 } splitTile
    ∧ AsksT .racs tw (fun _ r => { shapes := decide (r.b.toNat % 2 ^ 32 < 256) })
    ∧ AsksT .mma { tw with acc := true, trb := true } matrixRule ∧ AsksT .mmas tw matrixRule
    ∧ AsksT .mmaw { tw with trb := true } matrixRule ∧ AsksT .mmax { tw with trb := true } matrixRule := by
  refine ⟨?_, ?_, ?_, ?_, ?_, ?_, ?_⟩
  · exact asks tiles4 hA 0x10000 0 rfl (reaches_all _ _ _) ⟨_, ⟨_, rfl, rfl⟩, rfl⟩ (tileOk_of (by decide +kernel))
  · exact asks tiles4 hA 1 0 rfl (reaches_all _ _ _) ⟨_, ⟨_, rfl, rfl⟩, rfl⟩ (tileOk_of (by decide +kernel))
  · exact asks {} 0 255 0 rfl (reaches_all _ _ _) ⟨_, ⟨_, rfl, rfl⟩, rfl⟩ (tileOk_of (by decide +kernel))
  · exact asks tiles4 hA hL (tiles4.handle 0 5) rfl (reaches_all _ _ _) ⟨_, ⟨_, rfl, rfl⟩, rfl⟩ (tileOk_of (by decide +kernel))
  · exact asks tiles4 hA (tiles4.handle 0 4) 0 rfl (reaches_all _ _ _) ⟨_, ⟨_, rfl, rfl⟩, rfl⟩ (tileOk_of (by decide +kernel))
  all_goals exact asks tiles4 hA hL hC rfl (reaches_all _ _ _) ⟨_, ⟨_, rfl, rfl⟩, rfl⟩ (tileOk_of (by decide +kernel))

/-! ## Instruction words: arithmetic, sends, frames, system reads -/

/-- The hypotheses of a word statement are met: a group of one running lane that satisfies `P` issues. -/
def Ready (h : Hdr) (P : State → Nat → Firing → Prop) : Prop :=
  ∃ s c j g grp, s.Issues c j g grp ∧ everyLane s c grp h (P s c)
    ∧ ∃ l ∈ grp.lanes, l.running = true ∧ (l.atWord (s.core c) grp).executes h = true

theorem ready {h : Hdr} {P : State → Nat → Firing → Prop} (k : Core) (l : Firing) (hg : l.going = true) (hr : l.running = true)
    (he : (l.atWord ((issuing k [l]).core 0) (group1 [l])).executes h = true)
    (hp : P (issuing k [l]) 0 (l.atWord ((issuing k [l]).core 0) (group1 [l]))) : Ready h P :=
  ⟨issuing k [l], 0, 0, 0, _, issues1 k l hg, every1 hp, l, by simp [group1], hr, he⟩

/-- IntegerArithmetic, Division, BitForms, ComparesAndMoves, FloatArithmetic, FloatForms, ConvertAndEvaluate, TagsSkipNop: the
operands are reached whatever they are, under either polarity of a predicate (P1 holds, P2 does not). -/
theorem witness_arithmetic_words (x y z u : Spec) :
    Ready h0 (fun _ _ l => l.reaches x ∧ l.reaches y ∧ l.reaches z ∧ l.reaches u)
    ∧ Ready ⟨true, false, 1⟩ (fun _ _ l => l.reaches x ∧ l.reaches y ∧ l.reaches z ∧ l.reaches u)
    ∧ Ready ⟨false, true, 2⟩ (fun _ _ l => l.reaches x ∧ l.reaches y ∧ l.reaches z ∧ l.reaches u) := by
  refine ⟨?_, ?_, ?_⟩ <;> refine ready {} (lane3 1 2 3) rfl rfl rfl ?_ <;>
    exact ⟨(reaches_all x y z _ rfl).1, (reaches_all x y z _ rfl).2.1, (reaches_all x y z _ rfl).2.2, (reaches_all u u u _ rfl).1⟩

/-- LEA at both ends of the address space: 2^55 − 1 + 0, and 0 + 0 × 8. -/
theorem witness_ComparesAndMoves_lea :
    let inside (w : RWord) (s : State) (c : Nat) (l : Firing) : Prop := l.reaches w.a ∧ l.reaches w.b ∧ l.reaches w.d ∧
      ∀ a b l2, readsTwo s c w.a w.b l a b l2 →
        0 ≤ (addrOf a : Int) + b.toInt * ((2 ^ (w.mod.toNat % 8) : Nat) : Int)
        ∧ (addrOf a : Int) + b.toInt * ((2 ^ (w.mod.toNat % 8) : Nat) : Int) < 2 ^ 55
    Ready h0 (inside rw0) ∧ Ready h0 (inside { rw0 with mod := 3 }) := by
  constructor
  · refine ready {} (lane3 (2 ^ 55 - 1) 0 0) rfl rfl rfl ⟨trivial, trivial, trivial, fun a b l2 h => ?_⟩
    obtain ⟨_, h1, h2⟩ := h; cases h1; cases h2; decide
  · refine ready {} (lane3 8 (-1) 0) rfl rfl rfl ⟨trivial, trivial, trivial, fun a b l2 h => ?_⟩
    obtain ⟨_, h1, h2⟩ := h; cases h1; cases h2; decide

/-- BFX and BFI: a field at the top of the type, one past it, and an empty one. -/
theorem witness_BitFieldValues :
    (bits (0x0420 : W64).toNat 0 8 = 32 ∧ bits (0x0420 : W64).toNat 8 8 = 4 ∧ ScalarTy.z32.width ≤ 32)
    ∧ (bits (0x041C : W64).toNat 0 8 = 28 ∧ bits (0x041C : W64).toNat 8 8 = 4 ∧ 28 + 4 ≤ ScalarTy.z32.width ∧ 0 < 4)
    ∧ (bits (0x0005 : W64).toNat 0 8 = 5 ∧ bits (0x0005 : W64).toNat 8 8 = 0) := by decide

/-- R302, worked by hand: a field of 8 bits at position 28 of a 32-bit type is cut to 4 bits; BFX extends the sign of an S32, and BFI
keeps the rest; at position 60 of B64 BFI puts 4 bits. -/
theorem test_bit_fields_straddle :
    bitExtract .s32 0x80000000 0x081C = (0xFFFFFFFFFFFFFFF8, 0) ∧ bitExtract .z32 0x80000000 0x081C = (8, 0)
    ∧ bitInsert .z32 0x01234567 0xFA 0x081C = (0xA1234567, 0) ∧ bitInsert .s32 0x01234567 0xFA 0x081C = (0xFFFFFFFFA1234567, 0)
    ∧ bitInsert .b64 0x0123456789ABCDEF 0xFA 0x083C = (0xA123456789ABCDEF, 0) := by decide

/-- A conversion that is defined for every operand. -/
theorem witness_ConvertAndEvaluate : ∀ a m b h, (cvtScalar .s32 .f32 a m b h).isSome = true := by
  exact fun _ _ _ _ => rfl

/-- An address of 55 bits and a value that is none, converted into ADDR. -/
theorem witness_ConvertAndEvaluate_addr :
    Ready h0 (fun s c l => l.reaches (.temp 0) ∧ ∀ a l1, l.read s c (.temp 0) = .ok (a, l1) → a.toNat / 2 ^ 55 = 0)
    ∧ (issuing {} [lane3 (2 ^ 55) 0 0]).Alone 0 0 0 (group1 [lane3 (2 ^ 55) 0 0]) h0 (lane3 (2 ^ 55) 0 0)
    ∧ (2 ^ 55 : W64).toNat / 2 ^ 55 ≠ 0 := by
  refine ⟨ready {} (lane3 (2 ^ 55 - 1) 0 0) rfl rfl rfl ⟨trivial, fun a l1 h => ?_⟩, ⟨issues1 _ _ rfl, rfl, rfl, rfl⟩, by decide⟩
  cases h; decide

/-- A frame of four slots in use by the lane. -/
def framed : Core := { tiles4 with frames := [{ base := 0, size := 4, block := 0, job := 0, inst := 0 }] }

/-- Sends of a tile, of a value and of nothing. -/
theorem witness_Sends :
    Ready h0 (fun s c l => sendable s c { sw0 with sty := .tile } (.temp 0) l ∧ l.reaches .frame ∧ l.reaches .zero)
    ∧ Ready h0 (fun s c l => sendable s c sw0 (.temp 0) l ∧ sendable s c sw0 (.temp 1) l ∧ l.reaches .zero)
    ∧ Ready h0 (fun s c l => sendable s c { sw0 with sty := .ctrl } (.temp 0) l ∧ l.reaches .frame ∧ l.reaches .zero) := by
  refine ⟨ready framed (lane3 hA 0 0) rfl rfl rfl ⟨.inr ⟨trivial, ?_⟩, trivial, trivial⟩,
    ready framed (lane3 0 0 0) rfl rfl rfl ⟨.inr ⟨trivial, ?_⟩, .inr ⟨trivial, ?_⟩, trivial⟩,
    ready {} (lane3 0 0 0) rfl rfl rfl ⟨.inl rfl, trivial, trivial⟩⟩
  · intro v l1 h _
    rw [show v = hA from ((Prod.mk.inj (Except.ok.inj h)).1).symm]; decide +kernel
  · intro v l1 h e; cases e
  · intro v l1 h e; cases e

/-- LDF and STF at the frame's last slot; KEEP of a valid handle. -/
theorem witness_FrameSlots :
    Ready h0 (fun s c l => l.frameless = false ∧ ∀ a l1, l.read s c (.temp 0) = .ok (a, l1) → a.toNat % 2 ^ 32 < l.frameSize (s.core c))
    ∧ Ready h0 (fun s c l => ∀ a l1, l.read s c (.temp 0) = .ok (a, l1) → l.handleOk s c a = true) := by
  constructor
  · refine ready framed (lane3 3 0 0) rfl rfl rfl ⟨rfl, fun a l1 h => ?_⟩
    cases h; decide +kernel
  · refine ready framed (lane3 hA 0 0) rfl rfl rfl (fun a l1 h => ?_)
    rw [show a = hA from ((Prod.mk.inj (Except.ok.inj h)).1).symm]; decide +kernel

/-- DIMS of 7 and of 5. -/
theorem witness_TagsSkipNop :
    Ready h0 (fun s c l => l.reaches (.temp 0) ∧ ∀ a l1, l.read s c (.temp 0) = .ok (a, l1) → a ≠ 6 ∧ a.toNat ≤ 7)
    ∧ Ready h0 (fun s c l => l.reaches (.temp 1) ∧ ∀ a l1, l.read s c (.temp 1) = .ok (a, l1) → a ≠ 6 ∧ a.toNat ≤ 7) := by
  constructor <;> refine ready {} (lane3 7 5 0) rfl rfl rfl ⟨trivial, fun a l1 h => ?_⟩ <;> cases h <;> decide

/-- A core whose mailbox holds a steal request of the lane's job. -/
def robbed : Core := { mailbox := [{ id := 9, job := 0, inst := 0, reply := {} }] }

/-- FLIMIT at its bounds, and RSPLIT of the range 3 to 8 and of an empty one, with and without a request. -/
theorem witness_Stealing :
    Ready h0 (fun s c l => l.reaches (.temp 0) ∧ l.reaches (.temp 1) ∧ ∀ a b l2, readsTwo s c (.temp 0) (.temp 1) l a b l2 →
      b.toNat < 256 ∧ ((s.core c).blockOf l.job (z32 a)).isSome)
    ∧ (∀ r ∈ [rangeVal 3 8, rangeVal 5 5], let l := lane3 r 0 0
        ∀ k, (k = ({} : Core) ∨ k = robbed) → let s := issuing k [l]
        s.Issues 0 0 0 (group1 [l]) ∧ l.running = true ∧ (l.atWord (s.core 0) (group1 [l])).executes h0 = true ∧ l.reaches (.temp 2)
        ∧ (l.atWord (s.core 0) (group1 [l])).read s 0 (.temp 0) = .ok (r, l.atWord (s.core 0) (group1 [l]))
        ∧ r.toNat % 2 ^ 32 ≤ r.toNat / 2 ^ 32
        ∧ (k = ({} : Core) → (s.core 0).stealFor (l.atWord (s.core 0) (group1 [l])) = none)
        ∧ (k = robbed → ∃ q, (s.core 0).stealFor (l.atWord (s.core 0) (group1 [l])) = some q)) := by
  constructor
  · refine ready {} (lane3 0 255 0) rfl rfl rfl ⟨trivial, trivial, fun a b l2 h => ?_⟩
    obtain ⟨_, h1, h2⟩ := h; cases h1; cases h2; decide
  · intro r hr l k hk s
    refine ⟨issues1 k l rfl, rfl, rfl, trivial, rfl, ?_, ?_, ?_⟩
    · simp only [List.mem_cons, List.not_mem_nil, or_false] at hr
      rcases hr with rfl | rfl <;> decide
    · rintro rfl; rfl
    · rintro rfl; exact ⟨_, rfl⟩

/-- The same for the plain requests, which read A and B. -/
def AsksP (i : RWord → Instr) (ok : State → Nat → Firing → Req → Prop) : Prop :=
  Ready h0 (fun s c l => l.reaches (.temp 0) ∧ l.reaches (.temp 1) ∧
    ∀ a b l2, readsTwo s c (.temp 0) (.temp 1) l a b l2 → ok s c l2 (l2.ask s c (i rw0) 0 .l a b 0))

/-- FALLOC of block 4,095 for core 9; FFREE, GDONE, CANCEL and PERF `.set` at 63; SVWR at 31, TICK at 1 and at 65,535, EXPO. -/
theorem witness_ControlRequests :
    AsksM .falloc mw (fun s _ _ r => r.a.toNat % 2 ^ 32 < 4096 ∧ (s.devCore r.job (r.b.toNat % 2 ^ 32)).isSome)
    ∧ AsksP .ffree (fun s _ _ r => r.a.toNat / 2 ^ 26 % 2 ^ 10 = s.host.devnum.toNat) ∧ AsksP .gdone (fun _ _ _ _ => True)
    ∧ AsksP .cancel (fun _ _ _ r => (1 : Nat) = 0 ∨ r.a.toNat % 2 ^ 32 = 0xFFFFFFFF ∨ r.a.toNat % 2 ^ 32 < 65536)
    ∧ AsksP .perfSet (fun _ _ _ r => r.a.toNat % 2 ^ 32 < 64)
    ∧ AsksM .svwr mw (fun _ _ _ r => r.a.toNat % 2 ^ 32 < 32)
    ∧ AsksM .tick mw (fun _ _ _ r => 1 ≤ r.a.toNat % 2 ^ 32 ∧ r.a.toNat % 2 ^ 32 < 65536)
    ∧ AsksM .expo mw (fun _ _ _ r => r.a.toNat / 2 ^ 48 = 0 ∧ r.a.toNat / 2 ^ 11 % 2 ^ 21 = 0)
    ∧ Ready h0 (fun s c l => l.reaches (.temp 0) ∧ ∀ a l1, l.read s c (.temp 0) = .ok (a, l1) → a.toNat % 2 ^ 32 < 64) := by
  have plain {i : RWord → Instr} {ok : State → Nat → Firing → Req → Prop} (a : W64)
      (h : ok (issuing {} [lane3 a 0 0]) 0 ((lane3 a 0 0).atWord ((issuing {} [lane3 a 0 0]).core 0) (group1 [lane3 a 0 0]))
        (((lane3 a 0 0).atWord ((issuing {} [lane3 a 0 0]).core 0) (group1 [lane3 a 0 0])).ask (issuing {} [lane3 a 0 0]) 0 (i rw0) 0 .l a 0 0)) :
      AsksP i ok := by
    refine ready {} (lane3 a 0 0) rfl rfl rfl ⟨trivial, trivial, fun a' b l2 h' => ?_⟩
    obtain ⟨_, h1, h2⟩ := h'; cases h1; cases h2; exact h
  refine ⟨asks {} 4095 9 0 rfl (reaches_all _ _ _) ⟨_, ⟨_, rfl, rfl⟩, rfl⟩ (by decide), plain 0 (by decide), plain 0 trivial,
    plain 65535 (by decide), plain 63 (by decide), asks {} 31 0 0 rfl (reaches_all _ _ _) ⟨_, ⟨_, rfl, rfl⟩, rfl⟩ (by decide),
    asks {} 65535 0 0 rfl (reaches_all _ _ _) ⟨_, ⟨_, rfl, rfl⟩, rfl⟩ (by decide),
    asks {} 0x0000FFFF000007FF 0 0 rfl (reaches_all _ _ _) ⟨_, ⟨_, rfl, rfl⟩, rfl⟩ (by decide),
    ready {} (lane3 63 0 0) rfl rfl rfl ⟨trivial, fun a l1 h => ?_⟩⟩
  cases h; decide

/-- SVRD of variable 31, CLK of 0 and 1, PERF `.get` of 63, FLAGS of all five bits. -/
theorem witness_SystemReads : ∀ n ∈ [(31, 32), (0, 2), (1, 2), (63, 64), (31, 32)],
    Ready h0 (fun s c l => l.reaches (.temp 0) ∧ l.reaches (.temp 1) ∧
      ∀ a l1, l.read s c (.temp 0) = .ok (a, l1) → a.toNat % 2 ^ 32 < n.2 ∧ a.toNat < n.2) := by
  intro n hn
  refine ready {} (lane3 (BitVec.ofNat 64 n.1) 0 0) rfl rfl rfl ⟨trivial, trivial, fun a l1 h => ?_⟩
  cases h
  revert n; decide

/-! ## Traps, predicates and the frame of a word -/

/-- TADD of a tile of another code, and of a second tile that does not broadcast; LD at address 4 of an 8-byte access. -/
theorem witness_RequestTraps :
    (∀ p ∈ [(hA, hB, 1), (hL, hA, 0)], let l := lane3 p.1 p.2.1 0; let s := issuing tiles4 [l]
      s.Issues 0 0 0 (group1 [l]) ∧ (l.atWord (s.core 0) (group1 [l])).executes h0 = true ∧ l.running = true
      ∧ readsThree s 0 (.temp 0) (.temp 1) (.temp 2) (l.atWord (s.core 0) (group1 [l])) p.1 p.2.1 0 (l.atWord (s.core 0) (group1 [l]))
      ∧ (l.atWord (s.core 0) (group1 [l])).handleOk s 0 p.1 = true ∧ (l.atWord (s.core 0) (group1 [l])).handleOk s 0 p.2.1 = true
      ∧ (((s.core 0).opTile p.1).fmt ≠ p.2.2 ∨ broadcasts ((s.core 0).opTile p.2.1) ((s.core 0).opTile p.1) = false))
    ∧ (let l := lane3 4 0 0; let s := issuing {} [l]
      s.Issues 0 0 0 (group1 [l]) ∧ (l.atWord (s.core 0) (group1 [l])).executes h0 = true
      ∧ readsThree s 0 (.temp 0) (.temp 1) (.temp 2) (l.atWord (s.core 0) (group1 [l])) 4 0 0 (l.atWord (s.core 0) (group1 [l]))
      ∧ (4 : W64).toNat % 2 ^ 55 % ((l.atWord (s.core 0) (group1 [l])).ask s 0 (.ld mw) 3 .l 4 0 0).bytes ≠ 0) := by
  constructor
  · intro p hp l s
    refine ⟨issues1 _ l rfl, rfl, rfl, ⟨_, ⟨_, rfl, rfl⟩, rfl⟩, ?_⟩
    simp only [List.mem_cons, List.not_mem_nil, or_false] at hp
    rcases hp with rfl | rfl <;> decide +kernel
  · exact ⟨issues1 _ _ rfl, rfl, ⟨_, ⟨_, rfl, rfl⟩, rfl⟩, by decide⟩

/-- Words that issue alone, with operands that fail their checks: a walker word and an extent past their ranges, an index of 32, a slot
that the frame does not have, a range the wrong way round, a block that is not there, a handle of no tile and one of a tile of another
code. -/
theorem witness_RequestTraps_words :
    (∀ v ∈ [(0x10000 : W64), 32, 4, rangeVal 5 4, 4096], let l := lane3 v 0 0; let s := issuing framed [l]
      s.Alone 0 0 0 (group1 [l]) h0 l ∧ readsThree s 0 (.temp 0) (.temp 1) (.temp 2) (l.atWord (s.core 0) (group1 [l])) v 0 0
        (l.atWord (s.core 0) (group1 [l])))
    ∧ (walkerWordBad 0x10000 = true ∧ 32 ≤ (32 : W64).toNat % 2 ^ 32 ∧ (rangeVal 5 4).toNat / 2 ^ 32 < (rangeVal 5 4).toNat % 2 ^ 32)
    ∧ (let l := lane3 4 0 0; let s := issuing framed [l]
      (l.atWord (s.core 0) (group1 [l])).frameSize (s.core 0) ≤ (4 : W64).toNat % 2 ^ 32
      ∧ (s.core 0).blockOf (l.atWord (s.core 0) (group1 [l])).job (4 % 2 ^ 32) = none)
    ∧ (let l := lane3 (hA + 8) hA 0; let s := issuing tiles4 [l]; let m := l.atWord (s.core 0) (group1 [l])
      m.handleOk s 0 (tiles4.handle 0 9) = false ∧ m.handleOk s 0 hA = true
      ∧ (s.tileOf 0 hA).fmt ≠ (m.ask s 0 (.tst { mw with mflg := 1 }) 3 .l 0 hA 0).memFmt) := by
  refine ⟨?_, by decide +kernel, by decide +kernel, by decide +kernel⟩
  intro v _ l s
  exact ⟨⟨issues1 _ l rfl, rfl, rfl, rfl⟩, ⟨_, ⟨_, rfl, rfl⟩, rfl⟩⟩

/-- A TRAP, a BRK and a NOP issue; an ill-formed TRAP is one whose A names a temporary. -/
theorem witness_SoftwareTraps : (issuing {} [lane3 0 0 0]).Issues 0 0 0 (group1 [lane3 0 0 0])
    ∧ isWellFormed 4 (.trap ⟨hE, .zero, .zero, .zero, 5⟩) = true ∧ isWellFormed 4 (.brk ⟨hE, .zero, .zero, .zero, 5⟩) = true
    ∧ isWellFormed 4 (.trap ⟨hE, .zero, .temp 0, .zero, 5⟩) = false
    ∧ isWellFormed 4 (.nop ⟨hE, .zero, .zero, .zero, .zero, .ctrl, 0, .ctrl⟩) = true := ⟨issues1 _ _ rfl, rfl, rfl, rfl, rfl⟩

/-- Policies 0, 1 and 2, under SOFT and under BRK; and a lane of a FROZEN instance that still had a word, on a core of its job. -/
theorem witness_TrapPolicy :
    policyOf 0 (Trap.soft 1).code = 0 ∧ policyOf 1 (Trap.soft 1).code = 1 ∧ policyOf 2 (Trap.soft 1).code = 2
    ∧ policyOf 0 (Trap.brk 1).code = 1 ∧ policyOf 2 (Trap.brk 1).code = 2
    ∧ (let u := (issuing {} [lane3 1 2 3]).onInst 0 0 (fun v => { v with st := .frozen })
      0 ∈ (u.job 0).cores ∧ ((u.core 0).laneAt 0 0).any Firing.going = true
      ∧ ∃ m, ((u.stopFrozen 0).core 0).laneAt 0 0 = some m ∧ u.isFrozen m.job m.inst = true) := by
  refine ⟨by decide, by decide, by decide, by decide, by decide, by decide +kernel, by decide +kernel, _, rfl, by decide +kernel⟩

/-- A lane whose predicate is false (P2, and P0 inverted), and lanes with three predicates. -/
theorem witness_Predication :
    (∀ h ∈ [(⟨false, false, 2⟩ : Hdr), ⟨false, true, 0⟩, ⟨true, true, 3⟩], let s := issuing {} [lane3 0 0 0]
      s.Issues 0 0 0 (group1 [lane3 0 0 0]) ∧ ∀ l ∈ (group1 [lane3 0 0 0]).lanes,
        l.running = true ∧ (l.atWord (s.core 0) (group1 [lane3 0 0 0])).executes h = false)
    ∧ (lane3 0 0 0).preds.length = 3 := by
  refine ⟨?_, rfl⟩
  intro h hh s
  refine ⟨issues1 _ _ rfl, fun l hl => ?_⟩
  simp only [group1, List.mem_singleton] at hl
  subst hl
  simp only [List.mem_cons, List.not_mem_nil, or_false] at hh
  rcases hh with rfl | rfl | rfl <;> exact ⟨rfl, rfl⟩

/-- A NOP that is not the last word of its body gives each lane as it was. -/
theorem witness_WordFrame : let s := issuing {} [lane3 1 2 3]
    s.Issues 0 0 0 (group1 [lane3 1 2 3]) ∧ h0.last = false ∧ (∃ t, exec (.nop rw0) s = .next t)
    ∧ wordGives (.nop rw0) h0 s 0 0 0 (group1 [lane3 1 2 3]) (fun l l' => l' = l) :=
  ⟨issues1 _ _ rfl, rfl, ⟨_, rfl⟩,
    word_gives_blind (F := fun _ _ l => return l) (b := .r rw0) (issues1 _ _ rfl) rfl (fun _ _ _ _ => rfl) (fun _ _ _ _ => ⟨_, rfl⟩)
      (fun _ _ h => (Except.ok.inj h).symm)⟩

/-- A lane that writes slot 1 twice, keeps a handle in slot 2 and sets a limit; one that stages nothing to commit; one that frees a tile
of one reference, and one that lets go one of a tile of two. -/
theorem witness_WordFrame_commit :
    (let l : Firing := { lane3 0 0 0 with staged := [.write 1 5, .flimit 0 9, .keep 2 hA 0, .write 1 6] };
      l.entered = false ∧ l.commitTrap (issuing framed [l]) 0 = none ∧ l.shadow = false
      ∧ l.staged = [.write 1 5, .flimit 0 9, .keep 2 hA 0] ++ [.write 1 6] ∧ (Staged.write 1 6).slotWrite = some (1, 6, false))
    ∧ (∀ k ∈ [(1, [hA], []), (2, [], [hA])],
      let c : Core := { tiles4 with tiles := [(0, { st := .full, refcnt := k.1, pitch := 1, cols := 1 })] }
      let l : Firing := { lane3 0 0 0 with frees := k.2.1, release := k.2.2 }
      let s := issuing c [l]
      l.shadow = false ∧ (∀ x ∈ l.staged, x.silent = true) ∧ ((s.core 0).opTile hA).st.live = true
      ∧ (k.1 = 2 → (s.core 0).handleOk (s.coreFor 0 l) l.job hA = true ∧ 2 ≤ ((s.core 0).opTile hA).refcnt)) := by decide +kernel

/-! ## Power, firmware and ports (chapter 02) -/

/-- A device in full service whose two CXL ports are up. -/
def served : State :=
  { State.reset with
    hkc := { State.reset.hkc with level := .full, fwRuns := true, meshValid := true, coresOk := BitVec.allOnes 64, spareOk := [true, true, true, true] }
    host := { ports := [{ up := true, width := 16, rate := 3 }, { up := true, width := 16, rate := 3 }] } }

/-- A device at another level. -/
def atLevel (l : Level) (runs : Bool) : State := { served with hkc := { served.hkc with level := l, fwRuns := runs } }

/-- Resets with and without auxiliary power and of a halted device, a device without its main supply, readings at 99.94 °C, 100 °C,
114.94 °C and 115 °C, and windows at the cap and above it. -/
theorem witness_PowerEvents :
    (served.hkc.aux = true ∧ served.hkc.level ≠ .halted ∧ served.hkc.main = true)
    ∧ (let s : State := { served with hkc := { served.hkc with aux := false, main := false } }
      s.hkc.aux = false ∧ s.hkc.main = false)
    ∧ (let s : State := { served with hkc := { served.hkc with level := .halted } }
      s.hkc.main = true ∧ s.hkc.level = .halted)
    ∧ (89 < 90 ∧ (1599 : BitVec 16).toInt < 1600) ∧ (1600 ≤ (1600 : BitVec 16).toInt ∧ (1839 : BitVec 16).toInt < 1840)
    ∧ 1840 ≤ (1840 : BitVec 16).toInt
    ∧ served.hkc.pwrCap.toNat < 2201 ∧ served.hkc.pwrCap.toNat ≤ 2200 := by decide +kernel

/-- A chunk out of place, a first and a last chunk of one whole window, verification with bytes received, both outcomes of proof
service, and full service on a device without work. -/
theorem witness_FirmwareEvents :
    (let s := atLevel .rom false;
      s.hostReaches = true ∧ s.hkc.mailboxOpen = true ∧ bits ((0x0000000800000008 : W64) ||| 0x80000000).toNat 32 32 ≠ s.hkc.received)
    ∧ (let s : State := { atLevel .rom false with hkc := { (atLevel .rom false).hkc with received := 16 } }
      s.hostReaches = true ∧ s.hkc.mailboxOpen = true ∧ 0 < s.hkc.received
      ∧ bits ((0x0000001040010000 : W64) ||| 0x80000000).toNat 32 32 = s.hkc.received
      ∧ bits ((0x0000001040010000 : W64) ||| 0x80000000).toNat 0 17 = 65536 ∧ s.hkc.received + 65536 ≤ imageLimit)
    ∧ (let s : State := { atLevel .romFail false with hkc := { (atLevel .romFail false).hkc with received := 16, imageIn := true } }
      s.hkc.main = true ∧ (s.hkc.level = .rom ∨ s.hkc.level = .romFail) ∧ s.hkc.imageIn = true)
    ∧ (∀ p ∈ [(RepairReport.mk {} [4, 4, 4, 4] true, true), (⟨{ sites := [siteIn 0 0 0] }, [0, 0, 0, 0], true⟩, true),
        (⟨{ sites := [siteIn 0 0 0, siteIn 0 1 3] }, [0, 0, 0, 0], true⟩, false)],
      let s := atLevel .rom true;
      s.hkc.main = true ∧ s.hkc.fwRuns = true ∧ (s.hkc.level = .rom ∨ s.hkc.level = .romFail) ∧ p.1.trained = true
      ∧ (s.hkc.fused.join p.1.found).dieOk 0 = p.2)
    ∧ (let s := atLevel .proof true;
      s.hkc.main = true ∧ s.hkc.level = .proof ∧ s.passageWaits = false ∧ s.jobs = [] ∧ s.hkc.passing = none) := by decide +kernel

/-- The three mailboxes, in ROM and in service; a port with IDE and one without; offers that train, one of them narrower, and one that
does not; and a core marked in column 3 of die 0. -/
theorem witness_PortsAndRetirement :
    served.hkc.main = true ∧ (1 = 0 ∧ (0 : Nat) < 2 ∨ 1 = 1 ∧ 0 = 0)
    ∧ (atLevel .rom true).hkc.level.inRom = true ∧ served.hkc.level.inRom = false
    ∧ (({ served with host := { ports := [{ ide := true }] } } : State).port 0).ide = true ∧ (served.port 0).ide = false
    ∧ (let s : State := { served with host := {} }
      s.trains 1 ⟨true, true, 4, 1⟩ = true ∧ (s.port 1).up = false)
    ∧ (∀ w ∈ [8, 16], served.trains 1 ⟨true, true, w, 1⟩ = true) ∧ 8 < (served.port 1).width ∧ (served.port 1).width ≤ 16
    ∧ (served.trains 1 ⟨true, true, 2, 1⟩ = false ∧ (served.port 1).up = true)
    ∧ (let s : State := { served with hkc := { served.hkc with retire := [siteIn 0 3 2] } }
      3 < 5 ∧ s.hkc.meshValid = true ∧ s.hkc.spareOk.getD 0 false = true ∧ s.hkc.skip.getD 0 4 ≠ 3 ∧ s.dieBusy 0 = false
      ∧ ∃ x ∈ s.hkc.retire, x ∈ (List.range 4).map (siteIn 0 3)) := by decide +kernel

/-- The CRC-64 of ECMA-182 of the bytes "123456789", from zero, as the catalogues of CRCs give it. -/
theorem test_crc64 : crc64 [0x31, 0x32, 0x33, 0x34, 0x35, 0x36, 0x37, 0x38, 0x39] = 0x6C40DF5F0B497347 := by decide +kernel

/-! ## Host registers (chapter 03) -/

/-- A producer index as far ahead as the queue is long, and one further; queues enabled and not; vectors pending and not. -/
theorem witness_HostRegisters :
    served.hostReaches = true ∧ (((16 : W32) - (served.queue 15).cons).toNat ≤ (served.queue 15).entries)
    ∧ (served.queue 15).entries < ((17 : W32) - (served.queue 15).cons).toNat
    ∧ (bitAt (0x8000 : W64).toNat 15 = true ∧ (served.queue 15).en = false) ∧ bitAt (0x7FFF : W64).toNat 15 = false
    ∧ (let s : State := { served with host := { served.host with queues := [(0, { en := true })], pending := [63] } }
      s.hostReaches = true ∧ (s.queue 0).en = true ∧ s.host.pending.contains 63 = true ∧ s.host.pending.contains 0 = false)
    ∧ served.host.events.en = false := by decide +kernel

/-! ## Commands (chapters 03 and 05) -/

/-- The record of a command for job 0, with fields given by offset, length and value. -/
def record (op : Nat) (fields : List (Nat × Nat × Nat)) : List Byte :=
  fields.foldl (fun bs f => bs.take f.1 ++ natLe f.2.1 f.2.2 ++ bs.drop (f.1 + f.2.1)) (natLe 1 op ++ zeros 127)

/-- Queue 0 holds the command, and it has its turn. -/
def commanded (s : State) (c : Cmd) : State := { s with host := { s.host with queues := [(0, { en := true, cur := some c })] } }

def command (op : Nat) (fields : List (Nat × Nat × Nat)) : Cmd := { bytes := record op fields, index := 0 }

/-- Full service with job 0. -/
def withJob (x : Job) : State := { served with jobs := [(0, x)] }

/-- A job with no live work. -/
def idle : Job := { job1 with insts := [], phases := [] }

/-- The parts of `CommandRuns`, evaluated. -/
def runsB (s : State) (op : Nat) (c : Cmd) (x : Job) : Bool :=
  s.hkc.main && s.turn 0 op == some c && s.job? c.job == some x && x.gate op == .run

theorem runs {s : State} {op : Nat} {c : Cmd} {x : Job} (h : runsB s op c x = true) : s.CommandRuns 0 op c x := by
  simp only [runsB, Bool.and_eq_true, beq_iff_eq] at h
  exact ⟨h.1.1.1, h.1.1.2, h.1.2, h.2⟩

/-- A queue that accepts the record at index 0 of the host's memory: one that keeps Table 3.6 and one that does not; and one whose
ring lies on a floor that is DARK; and one whose ring lies in another device's memory. -/
theorem witness_CommandAcceptance : ∀ p ∈ [(record 3 [], true), (record 0x15 [], false)],
    (let s : State := { served with
      host := { served.host with queues := [(2, { en := true, prod := 1 })] }, hostMem := Memory.write [] 0 p.1 }
    s.hkc.main = true ∧ s.serving = true ∧ s.exclusive = false ∧ s.nextQueue = some 2
    ∧ s.busRead 2 (s.queue 2).qbase ((s.queue 2).cons.toNat % (s.queue 2).entries * 128) 128 = (s, .bytes p.1)
    ∧ Cmd.wellFormed { bytes := p.1, index := 0 } = p.2)
    ∧ (let s : State := { served with host := { served.host with queues := [(2, { en := true, prod := 1, qbase := 0x8000000000000000 })] } }
      s.nextQueue = some 2 ∧ (s.busRead 2 (s.queue 2).qbase ((s.queue 2).cons.toNat % (s.queue 2).entries * 128) 128).2 = .failed)
    ∧ (let s : State := { served with host := { served.host with
        queues := [(2, { en := true, prod := 1, qbase := BitVec.ofNat 64 (2 ^ 63 + 2 ^ 51 + 2 ^ 41) })] } }
      s.nextQueue = some 2 ∧ (s.busRead 2 (s.queue 2).qbase ((s.queue 2).cons.toNat % (s.queue 2).entries * 128) 128).2 = .waits)
    ∧ (atLevel .rom true).serving = false ∧ served.nextQueue = none := by decide +kernel

def opening (prio : Nat) : Cmd := command 1 [(0x28, 4, 1), (0x2C, 1, prio), (0x38, 4, 65536), (0x3C, 1, 16), (0x48, 4, 1)]

/-- JOB.OPEN of a FREE id with priority 7 and with 8, and of one in use; the close and the cancel of an open job, and the end of
a cancel. -/
theorem witness_JobLifeCommands :
    (let s := commanded served (opening 7);
      s.hkc.main = true ∧ s.turn 0 1 = some (opening 7) ∧ s.job? (opening 7).job = none ∧ (opening 7).cancelled = false
      ∧ (opening 7).opens.openable = true)
    ∧ (let s := commanded served (opening 8);
      s.turn 0 1 = some (opening 8) ∧ s.job? (opening 8).job = none ∧ (opening 8).opens.openable = false)
    ∧ runsB (commanded (withJob job1) (opening 7)) 1 (opening 7) job1 = true
    ∧ runsB (commanded (withJob job1) (command 2 [])) 2 (command 2 []) job1 = true
    ∧ (runsB (commanded (withJob job1) (command 3 [])) 3 (command 3 []) job1 = true ∧ (command 3 []).begun = false)
    ∧ (let c : Cmd := { command 3 [] with begun := true }
      let s := commanded served c;
      s.turn 0 3 = some c ∧ c.begun = true ∧ s.jobOver c.job = true) := by decide +kernel

/-- MAP.SET, SLOT.SET, SVAR.SET, TICK.SET and PHASE.OPEN run; fields at their bounds and past them; and a job that is FREE. -/
theorem witness_JobSettingCommands : (∀ c ∈ [command 4 [(0x10, 8, 65536)], command 4 [(0x10, 8, 1)],
      command 6 [(0x10, 1, 64), (0x12, 2, 16384)], command 6 [(0x10, 1, 65)], command 0x0B [(0x10, 4, 0xFFF)], command 0x0B [(0x10, 4, 0x1FFF)],
      command 0x0C [(0x10, 8, 10000)], command 0x0C [(0x10, 8, 9999)], command 0x0A [(0x10, 2, 8), (0x12, 1, 3)], command 0x0A [(0x12, 1, 4)],
      command 0x0A [(0x10, 2, 7)]],
    runsB (commanded (withJob job1) c) c.op c job1 = true)
    ∧ (∀ op ∈ [4, 6, 0x0B, 0x0C, 0x0A], let c := command op []
      let s := commanded served c;
      s.turn 0 op = some c ∧ s.job? c.job = none) := by decide +kernel

/-- A command that was accepted for a job that was being cancelled. -/
theorem witness_JobSettingCommands_cancelled : let c : Cmd := { command 4 [] with cancelled := true }
    (commanded served c).turn 0 4 = some c ∧ (commanded served c).job? c.job = none ∧ c.cancelled = true := by decide +kernel

/-- A job with a batch's worth of free slots, and one with none. -/
def phased : Job := { job1 with insts := [] }
def crowded : Job := { job1 with insts := (List.range 256).map (fun i => (i, { seq := 0, st := .ended, phase := 7, graph := 1, preds := [], arg := 0, count := 1 })) }

def starting (graph patches : Nat) : Cmd := command 8 [(0x10, 2, graph), (0x12, 2, 7), (0x28, 2, patches)]
def batching (step total : Nat) : Cmd := command 9 [(0x10, 2, 1), (0x12, 2, 7), (0x20, 4, step), (0x24, 4, total)]

/-- The ends of a patch list. -/
def Patching.written : Patching → Bool
  | .done _ _ => true
  | _ => false

def Patching.status : Patching → Option (Nat × Nat)
  | .failed _ st i => some (st, i)
  | _ => none

def Patching.waiting : Patching → Bool
  | .wait _ => true
  | _ => false

/-- Tables at 0x10000 that map the first 512 MiB of virtual addresses at this leaf. -/
def mappedAt (leaf : Nat) (m : Memory) : Memory :=
  Memory.write (Memory.write m 0x10000 (natLe 8 0x20001)) 0x20000 (natLe 8 leaf)

/-- Tables at 0x10000 that map the first 512 MiB of virtual addresses on floor 0, which is LIT, with every permission. -/
def mapped (m : Memory) : Memory := mappedAt 0x73 m

/-- A job whose tables lie at 0x10000. -/
def tabled (x : Job) : Job := { x with l3 := 0x10000 }

/-- Job `x` over memory `m`, with floor 0 LIT. -/
def onFloor (x : Job) (m : Memory) : State := { withJob x with mem := mapped m, floors := [(0, { st := .lit })] }

/-- Job `x` whose virtual addresses lie on device 1. -/
def onOther (x : Job) : State :=
  { withJob (tabled x) with mem := mappedAt (0x73 + 2 ^ 51 + 2 ^ 41) [], floors := [(0, { st := .lit })] }

/-- GRAPH.START of an unknown graph, with no slot, with no patches, with a patch list that cannot be read, with one that another device
still has to give, and of a cut graph in proof service. -/
theorem witness_GraphCommands_start :
    (runsB (commanded (withJob phased) (starting 2 0)) 8 (starting 2 0) phased = true ∧ phased.startable 2 7 0 0 = none)
    ∧ (runsB (commanded (withJob crowded) (starting 1 0)) 8 (starting 1 0) crowded = true
      ∧ (crowded.startable 1 7 0 0).isSome = true ∧ crowded.freeSlots = [])
    ∧ (let s := commanded (withJob phased) (starting 1 0);
      runsB s 8 (starting 1 0) phased = true ∧ s.proof = false ∧ phased.freeSlots.head? = some 0
      ∧ Patching.written (s.patch 0 (starting 1 0) 0 0) = true)
    ∧ (let s := commanded (withJob phased) (starting 1 1);
      runsB s 8 (starting 1 1) phased = true ∧ (Patching.status (s.patch 0 (starting 1 1) 0 1)).isSome = true)
    ∧ (let s := commanded (onOther phased) (starting 1 1);
      runsB s 8 (starting 1 1) (tabled phased) = true ∧ Patching.waiting (s.patch 0 (starting 1 1) 0 1) = true)
    ∧ (let x : Job := { phased with graphs := [(1, { cores := 1, blocks := [0], primes := [], image := 0, dataOff := 0, fabric := some (21, [0, 3]) })] }
      let s : State := { commanded (withJob x) (starting 1 0) with hkc := (atLevel .proof true).hkc };
      runsB s 8 (starting 1 0) x = true ∧ s.proof = true ∧ ((x.startable 1 7 0 0).bind (fun g => g.fabric)).isSome = true) := by
  decide +kernel

/-- GRAPH.BATCH of a step of 4,096 and of 12 bytes, with slots for its chunks and with none. -/
theorem witness_GraphCommands_batch :
    (runsB (commanded (withJob phased) (batching 4096 9)) 9 (batching 4096 9) phased = true ∧ (phased.startable 1 7 0 0).isSome = true
      ∧ 4096 % 8 = 0 ∧ (chunksOf 4 4096 0 9).length ≤ phased.freeSlots.length ∧ (phased.freeSlots.zip (chunksOf 4 4096 0 9)).length = 8
      ∧ Patching.written ((commanded (withJob phased) (batching 4096 9)).patch 0 (batching 4096 9) 0 0) = true)
    ∧ (runsB (commanded (withJob crowded) (batching 8 9)) 9 (batching 8 9) crowded = true ∧ crowded.freeSlots.length < (chunksOf 4 4096 0 9).length)
    ∧ (runsB (commanded (withJob phased) (batching 12 9)) 9 (batching 12 9) phased = true ∧ 12 % 8 ≠ 0) := by decide +kernel

/-- The image of chapter 10's example (Table 10.20), with another word 3 and another header word where they are given. -/
def imageSqr (h1 w3 : Nat) : List Byte :=
  natLe 4 0x43414C47 ++ natLe 2 1 ++ natLe 2 0 ++ natLe 2 1 ++ natLe 2 1 ++ natLe 4 2 ++ natLe 4 0x40 ++ natLe 4 64 ++ natLe 4 0x80
    ++ natLe 4 0xC0 ++ natLe 4 0 ++ natLe 4 0 ++ natLe 4 0xC0 ++ natLe 4 0 ++ natLe 16 0x727173
    ++ natLe 8 0x0000002008402001 ++ natLe 8 h1 ++ natLe 8 0x0081041000B39400 ++ natLe 8 0x6100408241C00000 ++ natLe 8 0xE0C1000404430007
    ++ natLe 8 w3 ++ natLe 8 0xFD41041040000000 ++ zeros 8
    ++ natLe 2 0x20 ++ natLe 1 0 ++ natLe 1 0 ++ natLe 2 0 ++ natLe 1 1 ++ natLe 1 11 ++ zeros 24
    ++ natLe 2 0x20 ++ natLe 1 0 ++ natLe 1 1 ++ natLe 2 0 ++ natLe 1 0 ++ natLe 1 7 ++ zeros 8 ++ natLe 8 0x3FC00000 ++ zeros 8

def fresh : Job := tabled { idle with graphs := [] }

def Loaded.graph : Loaded → Option Nat
  | .done _ g => some g
  | _ => none

def Loaded.failure : Loaded → Option (Nat × Nat × Nat)
  | .refused _ a b c => some (a, b, c)
  | _ => none

def Loaded.waiting : Loaded → Bool
  | .wait _ => true
  | _ => false

/-- Chapter 10's example loads as graph 1. -/
theorem test_load_example :
    Loaded.graph ((onFloor fresh (Memory.write [] 0x1000 (imageSqr 0x2E28000000000000 0x0081041000000200))).load (cmdOwner 0) 0 0x1000 0xC0) = some 1 := by
  decide +kernel

/-- With `ARITY` 2 in the MATCH of entry 1, it fails with BAD_BLOCK, block 0x020 and word 3, as chapter 10 says. -/
theorem test_load_bad_block :
    Loaded.failure ((onFloor fresh (Memory.write [] 0x1000 (imageSqr 0x2C28000000000000 0x0081041000000400))).load (cmdOwner 0) 0 0x1000 0xC0) = some (6, 0x20, 3) := by
  decide +kernel

def loading (va : Nat) : Cmd := command 7 [(0x10, 8, va), (0x18, 4, 0xC0)]

/-- CODE.LOAD of the example, of an image that is not there, of one on another device, and at an address that is no multiple of
4,096. -/
theorem witness_GraphCommands_load :
    (let s := commanded (onFloor fresh (Memory.write [] 0x1000 (imageSqr 0x2E28000000000000 0x0081041000000200))) (loading 0x1000);
      runsB s 7 (loading 0x1000) fresh = true ∧ (loading 0x1000).field 0x10 8 % 4096 = 0 ∧ Loaded.graph (s.load (cmdOwner 0) 0 0x1000 0xC0) = some 1)
    ∧ (let s := commanded (onFloor fresh []) (loading 0x3000);
      runsB s 7 (loading 0x3000) fresh = true ∧ Loaded.failure (s.load (cmdOwner 0) 0 0x3000 0xC0) = some (6, 0xFFFFFFFF, 0))
    ∧ (let s := commanded (onOther fresh) (loading 0x3000);
      runsB s 7 (loading 0x3000) fresh = true ∧ Loaded.waiting (s.load (cmdOwner 0) 0 0x3000 0xC0) = true)
    ∧ (runsB (commanded (withJob fresh) (loading 0x1010)) 7 (loading 0x1010) fresh = true ∧ (loading 0x1010).field 0x10 8 % 4096 ≠ 0) := by
  decide +kernel

def walling (col : Nat) : Cmd := command 5 [(0x10, 1, col), (0x12, 1, 2), (0x13, 1, 2)]

/-- What pre-emption kept of a job on the four cores at the origin, of no core's work. -/
def kept : Saved :=
  { rect := some ⟨0, 0, 2, 2⟩, dx := 0, dy := 0, closing := false, time := 0, bytes := 4096, cores := [], mem := [], copies := [], parts := []
    route := [], fabric := [] }

def away : Job := { idle with st := .preempted, rect := none, saved := some kept, wall := 0 }

/-- WALL.SET of its own rectangle, of free cores, past the edge, and with live work; PREEMPT begun, saved and failed; RESUME. -/
theorem witness_PlacementCommands :
    (runsB (commanded (withJob idle) (walling 0)) 5 (walling 0) idle = true ∧ (walling 0).begun = false
      ∧ (commanded (withJob idle) (walling 0)).rectCheck ⟨0, 0, 2, 2⟩ 0 = none ∧ idle.rect = some ⟨0, 0, 2, 2⟩)
    ∧ (runsB (commanded (withJob idle) (walling 6)) 5 (walling 6) idle = true ∧ idle.rect ≠ some ⟨6, 0, 2, 2⟩
      ∧ (commanded (withJob idle) (walling 6)).rectCheck ⟨6, 0, 2, 2⟩ 0 = none ∧ (∀ p ∈ idle.insts, p.2.st = .ended)
      ∧ (commanded (withJob idle) (walling 6)).placement 0 0 idle ⟨6, 0, 2, 2⟩ false = .evicting [])
    ∧ (runsB (commanded (withJob idle) (walling 7)) 5 (walling 7) idle = true
      ∧ (commanded (withJob idle) (walling 7)).rectCheck ⟨7, 0, 2, 2⟩ 0 = some 2)
    ∧ (runsB (commanded (withJob job1) (walling 6)) 5 (walling 6) job1 = true ∧ ∃ p ∈ job1.insts, p.2.st ≠ .ended)
    ∧ (runsB (commanded (withJob job1) (command 0x11 [])) 0x11 (command 0x11 []) job1 = true ∧ (command 0x11 []).begun = false)
    ∧ (let c : Cmd := { command 0x11 [] with begun := true, done := [0] }
      let s := commanded (withJob away) c;
      s.turn 0 0x11 = some c ∧ c.waits = [] ∧ c.failed = [] ∧ s.job? c.job = some away ∧ away.saved = some kept)
    ∧ (let c : Cmd := { command 0x11 [] with begun := true, failed := [0] }
      (commanded (withJob job1) c).turn 0 0x11 = some c ∧ c.waits = [] ∧ c.failed ≠ [])
    ∧ (withJob { job1 with st := .preempting }).swept 0 = true
    ∧ (let c := command 0x12 [(0x10, 1, 4), (0x11, 1, 2)]
      let s := commanded (withJob away) c;
      runsB s 0x12 c away = true ∧ away.resumeAt kept 4 2 = some (some ⟨4, 2, 2, 2⟩, 4, 2) ∧ s.rectCheck ⟨4, 2, 2, 2⟩ 0 = none
      ∧ s.placement 0 0 away ⟨4, 2, 2, 2⟩ false = .evicting [] ∧ s.fits 0 (away.placedAt (some ⟨4, 2, 2, 2⟩) 4 2) kept [] = true) := by
  decide +kernel

/-- A job of priority 1 above job 1, of priority 0, which runs on the cores that WALL.SET and RESUME name; and both, begun, with a save
to come, a save that failed and all saves done. -/
theorem witness_PlacementCommands_evicting :
    (let x : Job := { idle with prio := 1 }
      let s : State := { served with jobs := [(0, x), (1, { job1 with rect := some ⟨6, 0, 2, 2⟩ })] }
      let t := commanded s (walling 6)
      runsB t 5 (walling 6) x = true ∧ t.rectCheck ⟨6, 0, 2, 2⟩ 0 = none ∧ t.placement 0 0 x ⟨6, 0, 2, 2⟩ false = .evicting [1])
    ∧ (let x : Job := { away with prio := 1 }
      let c := command 0x12 [(0x10, 1, 6), (0x11, 1, 0)]
      let t := commanded { served with jobs := [(0, x), (1, { job1 with rect := some ⟨6, 0, 2, 2⟩ })] } c
      runsB t 0x12 c x = true ∧ x.resumeAt kept 6 0 = some (some ⟨6, 0, 2, 2⟩, 6, 0) ∧ t.rectCheck ⟨6, 0, 2, 2⟩ 0 = none
      ∧ t.placement 0 0 x ⟨6, 0, 2, 2⟩ false = .evicting [1] ∧ t.fits 0 (x.placedAt (some ⟨6, 0, 2, 2⟩) 6 0) kept [1] = true)
    ∧ (∀ p ∈ [([1], []), ([], [1]), ([], [])], ∀ x ∈ [(5, idle), (0x12, away)],
      let c : Cmd := { command x.1 [(0x10, 1, 6), (0x12, 1, 2), (0x13, 1, 2)] with begun := true, waits := p.1, failed := p.2 }
      let s := commanded (withJob x.2) c
      s.turn 0 x.1 = some c ∧ s.job? c.job = some x.2) := by decide +kernel

def flooring (op room mask : Nat) : Cmd := command op [(0x10, 1, room), (0x12, 2, mask)]

/-- The ends of a move through virtual addresses. -/
def VGot.moved : VGot → Bool
  | .data _ => true
  | _ => false

def VGot.waiting : VGot → Bool
  | .wait => true
  | _ => false

/-- A job whose cellar 63 holds one token at address 0. -/
def stocked (x : Job) : Job := { x with cellars := [(63, { va := 0, bytes := 65536, tail := 1, insts := [0] })] }

/-- FLOOR.ALLOC of the last room's floors, of a ninth room, of a floor in use, and once its floors are LIT; FLOOR.FREE of a LIT
and of a DARK floor; FAULT.RESOLVE; CELLAR.GROW to as much and to less, of a ring that cannot be read, of one on another device, and
of all rings. -/
theorem witness_MemoryCommands :
    (let c := flooring 0x0D 7 0x8001
      let s := commanded served c;
      s.turn 0 0x0D = some c ∧ s.floorCheck c true = none ∧ (∀ f ∈ c.floors, (s.floor f).st = .dark))
    ∧ ((commanded served (flooring 0x0D 8 1)).turn 0 0x0D = some (flooring 0x0D 8 1)
      ∧ (commanded served (flooring 0x0D 8 1)).floorCheck (flooring 0x0D 8 1) true = some 2)
    ∧ (let c := flooring 0x0D 0 1
      let s := commanded (onFloor job1 []) c;
      s.turn 0 0x0D = some c ∧ s.floorCheck c true = none ∧ ∃ f ∈ c.floors, (s.floor f).st ≠ .dark)
    ∧ (let c : Cmd := { flooring 0x0D 0 1 with begun := true }
      let s := commanded (onFloor job1 []) c;
      s.turn 0 0x0D = some c ∧ ∀ f ∈ c.floors, (s.floor f).st.open = true)
    ∧ (let c := flooring 0x0E 0 1
      let s := commanded (onFloor job1 []) c;
      s.turn 0 0x0E = some c ∧ s.floorCheck c false = none ∧ ∀ f ∈ c.floors, (s.floor f).st.open = true)
    ∧ (let c := flooring 0x0E 1 1
      let s := commanded (onFloor job1 []) c;
      s.turn 0 0x0E = some c ∧ s.floorCheck c false = none ∧ ∃ f ∈ c.floors, (s.floor f).st.open = false)
    ∧ (let c := command 0x0F [(0x10, 8, 77)]
      let f : Pending := { id := 77, job := 0, insts := [0], unit := 3, ports := [] }
      let s : State := { commanded (withJob job1) c with faults := [f] };
      runsB s 0x0F c job1 = true ∧ s.resolvesSave 0 = none ∧ job1.st ≠ .preempted ∧ c.field 0x18 1 ≤ 1 ∧ c.field 0x18 1 = 0
      ∧ s.faults.find? (fun g => g.id == c.field 0x10 8 && g.job == c.job && g.resolved.isNone) = some f)
    ∧ (∀ bytes ∈ [65536, 131072], let c := command 0x10 [(0x10, 1, 63), (0x20, 4, bytes)]
      let s := commanded (withJob job1) c;
      runsB s 0x10 c job1 = true ∧ c.field 0x10 1 ≤ 63 ∧ c.field 0x20 4 % 65536 = 0 ∧ (job1.cellar 63).bytes ≤ c.field 0x20 4
      ∧ VGot.moved (s.growCellar (cmdOwner 0) 0 63 0 bytes).2 = true)
    ∧ (let c := command 0x10 [(0x10, 1, 63), (0x20, 4, 65535)]
      runsB (commanded (withJob job1) c) 0x10 c job1 = true ∧ c.field 0x20 4 % 65536 ≠ 0)
    ∧ (let c := command 0x10 [(0x10, 1, 63), (0x20, 4, 65536)]
      let s := commanded (withJob (stocked job1)) c
      let t := commanded (onOther (stocked job1)) c
      runsB s 0x10 c (stocked job1) = true ∧ VGot.moved (s.growCellar (cmdOwner 0) 0 63 0 65536).2 = false
      ∧ VGot.waiting (s.growCellar (cmdOwner 0) 0 63 0 65536).2 = false
      ∧ runsB t 0x10 c (tabled (stocked job1)) = true ∧ VGot.waiting (t.growCellar (cmdOwner 0) 0 63 0 65536).2 = true)
    ∧ (let c := command 0x10 [(0x10, 1, 0xFF), (0x20, 4, 131072)]
      let s := commanded (withJob job1) c
      runsB s 0x10 c job1 = true ∧ (∀ n < 64, (job1.cellar n).bytes ≤ c.field 0x20 4)
      ∧ VGot.moved (s.growAll (cmdOwner 0) 0 (fun n => n * 131072) 131072 (List.range 64)).2 = true) := by decide +kernel

/-- The record of an image of nothing: by it no job stands. -/
def imageNone : Attic :=
  { base := 0, at_ := 0x401000, len := 0, draw := 0, layout := (Config.saveVersion []).toNat, devnum := 0, jobs := [], copied := []
    faults := [], nextId := 1, faultSeq := [], halted := [], sound := true }

/-- Such an image in the attic at address 0, with this many poisoned units and this byte where they are listed. -/
def atticHolds (poison : Nat) (b : Byte) (c : Cmd) : State :=
  let m := Memory.write [] 0 (natLe 4 0x41545443 ++ natLe 4 1 ++ natLe 4 1)
  { commanded served c with
    hostMem := Memory.write (Memory.write m 0x2F8 (natLe 8 poison)) 0x401000 [b], attics := [(0, imageNone)] }

/-- CKPT of an attic of 2^40 bytes and of one that is too small, its end; RESTORE of what is no image, of one that the attic is too
small for, of one whose extent is not what its checksum says, and of an image of nothing. -/
theorem witness_AtticCommands :
    (let c := command 0x13 [(0x18, 8, 2 ^ 40)]
      let s := commanded served c;
      s.turn 0 0x13 = some c ∧ c.begun = false ∧ c.field 0x10 8 % 4096 = 0 ∧ c.field 0x20 1 ≤ 1 ∧ (∀ p ∈ s.jobs, p.2.st ≠ .preempting))
    ∧ (let c : Cmd := { command 0x13 [(0x18, 8, 2 ^ 40)] with begun := true }
      let s := commanded served c;
      s.turn 0 0x13 = some c ∧ c.waits = [] ∧ s.atticPasses = true ∧ s.copiedParts c.done = [])
    ∧ (∀ p ∈ [(0, (0 : Byte), 0x401000), (1, 7, 0x401008), (1, 7, 0x401007)], let c := command 0x14 [(0x18, 8, p.2.2)]
      let s := atticHolds p.1 p.2.1 c;
      s.turn 0 0x14 = some c ∧ c.field 0x10 8 % 4096 = 0 ∧ s.hkc.level = .full ∧ s.jobs = [] ∧ s.atticPasses = true
      ∧ headerGood (s.headerAt 0) s.hkc.svn = true ∧ (headerSizes (s.headerAt 0)).bytes = 0x401000 + 8 * p.1)
    ∧ headerGood (served.headerAt 0) served.hkc.svn = false := by decide +kernel

/-- The check table is that of the image of nothing, and not that of the image with a byte. -/
theorem witness_AtticCommands_checks :
    (let s := atticHolds 0 0 (command 0x14 [(0x18, 8, 0x401000)]);
      s.checksMatch 0 0x401000 = true ∧ s.recordAt 0 = some imageNone ∧ imageNone.sound = true
      ∧ imageNone.layout = (Config.saveVersion s.hkc.signedHash).toNat ∧ imageNone.devnum = s.host.devnum
      ∧ ((s.reopen 0 (s.headerAt 0) imageNone).writeBack 0 imageNone).2 = .data [])
    ∧ (atticHolds 1 7 (command 0x14 [(0x18, 8, 0x401008)])).checksMatch 0 0x401008 = false :=
  ⟨⟨by decide +kernel, rfl, rfl, rfl, by decide +kernel, rfl⟩, by decide +kernel⟩

/-- Nothing lies outside, so nothing is read there. -/
theorem witness_AtticCommands_outside : let s := commanded served { command 0x13 [(0x18, 8, 2 ^ 40)] with begun := true }
    s.readOutside 0 (s.copiedParts []) = .ok (s, []) := rfl

/-- The length of an image without floors, banks and copied save areas. -/
theorem imageBytes_none {s : State} (h1 : s.imagedFloors = []) (h2 : s.imagedPairs [] = []) (h3 : s.copiedParts [] = [])
    (h4 : s.imagedPoison = []) (d : Nat) : (s.imageSizes [] d).bytes = 0x401000 + stateLength d := by
  unfold State.imageSizes ImageSizes.bytes
  rw [h1, h2, h3, h4]
  rfl

theorem fits_small {n : Nat} (h : n ≤ 0x401000 + 320 * 2 ^ 20) : imageFits n (2 ^ 40) = true := by
  unfold imageFits extents Sys2Proof.cdiv extentBytes sectionsAt
  rw [Bool.and_eq_true, decide_eq_true_iff, decide_eq_true_iff]
  omega

theorem fits_not {n : Nat} (h : 0 < n) : imageFits n 0 = false := by
  unfold imageFits
  rw [Bool.and_eq_false_iff, decide_eq_false_iff_not]
  exact .inl (Nat.not_le.mpr h)

/-- The image that CKPT is to write fits that attic, whatever its free length is, and fits none of no bytes. -/
theorem witness_AtticCommands_fits :
    let s := commanded served (command 0x13 [(0x18, 8, 2 ^ 40)])
    imageFits (s.imageSizes [] s.draws).bytes (2 ^ 40) = true ∧ imageFits (s.imageSizes [] s.draws).bytes 0 = false := by
  intro s
  rw [imageBytes_none (by decide +kernel) (by decide +kernel) (by decide +kernel) (by decide +kernel)]
  exact ⟨fits_small (Nat.add_le_add_left (Nat.le_of_lt_succ (Nat.mod_lt _ (Nat.succ_pos _))) _), fits_not (by omega)⟩

/-! ## The cores (chapter 06) -/

/-- Chapter 10's block on core 0, in one frame, with a job of which instance 0 is live. -/
def sqr : Block :=
  { job := 0, graph := some 1, fsize := 2, limit := 4, gather := false, reent := false, framesGiven := true
    code := [0x0081041000B39400, 0x6100408241C00000, 0xE0C1000404430007, 0x0081041000000200, 0xFD41041040000000] }

def sqrCore : Core := { blocks := [(0x20, sqr)], frames := [{ base := 0, size := 2, block := 0x20, job := 0, inst := 0 }] }

/-- Job 0 with this core 0. -/
def onCore0 (k : Core) : State := { withJob job1 with cores := [(0, k)] }

/-- A CTRL token for entry 1 of the block. -/
def ctrlToken : Token := { core := 0, frame := 0, block := 0x20, entry := 1, port := 0, job := 0 }

def arrivesB (s : State) (i : Nat) (x : MeshItem) : Bool :=
  s.hkc.main && s.mesh[i]? == some x && !s.behind i x

theorem arrives {s : State} {i : Nat} {x : MeshItem} (h : arrivesB s i x = true) : s.Arrives i x := by
  simp only [arrivesB, Bool.and_eq_true, beq_iff_eq, Bool.not_eq_true'] at h
  exact ⟨h.1.1, h.1.2, h.2⟩

def isTake : Option (List Token × Token × MatchStep × List Token) → Bool
  | some (_, _, .take _, _) => true
  | _ => false

/-- A value token on the mesh. -/
def tokenItem : MeshItem := { job := 0, src := 1, dst := 0, vc := 0, what := .value ctrlToken }

/-- The same block with a MERGE for its first entry, both of whose places are full in the frame at 0. -/
def mergeCore : Core :=
  { blocks := [(0x20, { sqr with fsize := 4, code := 0x0081041000B3B400 :: sqr.code.tail })]
    frames := [{ base := 0, size := 4, block := 0x20, job := 0, inst := 0 }]
    slots := [(0, { present := true }), (2, { present := true })] }

/-- The jobs whose tokens, or whose full merges, core 0 may match. -/
def matchable (s : State) : List Nat :=
  (cyclicAfter (s.core 0).lastMatched).filter (fun j => !(s.job j).halted && s.rateOk 0 j
    && ((s.core 0).buffer.any (fun t => t.job.toNat == j) || (s.core 0).frames.any (fun f => f.job == j)))

def isTrap : Option (List Token × Token × MatchStep × List Token) → Bool
  | some (_, _, .trap _ _ _, _) => true
  | _ => false

/-- A token that is admitted, one that its full core spills, and one that a held cellar keeps waiting; a token that matches, one of no
entry, and a merge that fires again; a job that issues a ready firing, one that goes on with its group, and none; the end of a recovery. -/
theorem witness_MatchingEvents :
    (let s : State := { onCore0 sqrCore with mesh := [tokenItem] }
      let v := (s.job 0).cellar ((s.job 0).jobCore 0)
      arrivesB s 0 tokenItem = true ∧ s.devCore 0 0 = some 0 ∧ s.discards 0 0 0 = false
      ∧ ((s.withoutItem 0).letIn 0 ctrlToken).2 = true ∧ v.hold = 0 ∧ v.count = 0 ∧ s.admits 0 0 = true)
    ∧ (let s : State := { withJob { job1 with cellars := [(0, { va := 0, bytes := 65536, hold := 1 })] } with cores := [(0, sqrCore)], mesh := [tokenItem] }
      arrivesB s 0 tokenItem = true ∧ s.discards 0 0 0 = false ∧ ((s.withoutItem 0).letIn 0 ctrlToken).2 = false)
    ∧ (let s := onCore0 { sqrCore with buffer := [ctrlToken] };
      (s.core 0).ready.length < 1024 ∧ (matchable s).head? = some 0 ∧ s.mergeReady 0 0 = none
      ∧ isTake (s.firstTaken 0 0 [] (s.core 0).buffer) = true)
    ∧ (let s := onCore0 { sqrCore with buffer := [{ ctrlToken with entry := 9 }] };
      (matchable s).head? = some 0 ∧ s.mergeReady 0 0 = none ∧ isTrap (s.firstTaken 0 0 [] (s.core 0).buffer) = true)
    ∧ (let s := onCore0 mergeCore; (s.core 0).ready.length < 1024 ∧ (matchable s).head? = some 0 ∧ (s.mergeReady 0 0).isSome = true)
    ∧ (atLevel .rom true).serving = false
    ∧ (let s := onCore0 sqrCore; s.serving = true ∧ ((s.resumeCommits 0).routeRun).issueJob 0 = none)
    ∧ (let s := onCore0 { sqrCore with groups := [⟨0, 0x20, 1, 4, [{ block := 0x20, entry := 1 }]⟩] };
      let t := (s.resumeCommits 0).routeRun
      t.issueJob 0 = some 0 ∧ ((t.core 0).issuing 0).isSome = true)
    ∧ (let s := onCore0 { sqrCore with ready := [{ block := 0x20, entry := 1, pc := 4 }] };
      let t := (s.resumeCommits 0).routeRun
      t.issueJob 0 = some 0 ∧ (t.core 0).issuing 0 = none)
    ∧ (let s : State := { onCore0 { sqrCore with recovery := some 5 } with clock := 2 ^ 20 + 5 }
      (s.core 0).recovery = some 5 ∧ 5 + 2 ^ 20 ≤ s.clock) := by decide +kernel

/-- The newest of many tokens is the last one, where the others are another job's. -/
theorem newestOf_last (j : Nat) (t : Token) (bs : List Token) (ht : t.job.toNat = j) (hb : ∀ u ∈ bs, u.job.toNat ≠ j) :
    newestOf j 1 (bs ++ [t]) = (bs, [t]) := by
  have hc : countIf (fun (u : Token) => u.job.toNat == j) (bs ++ [t]) = 1 := by
    have : bs.filter (fun u => u.job.toNat == j) = [] := by simpa using hb
    simp [countIf, List.filter_append, this, ht]
  have hf : ∀ (cs : List Token) (acc : List Token), (∀ u ∈ cs, u.job.toNat ≠ j) →
      cs.foldl (fun (p : List Token × List Token × Nat) t =>
        if t.job.toNat == j then (if p.2.2 < 1 - 1 then (p.1 ++ [t], p.2.1, p.2.2 + 1) else (p.1, p.2.1 ++ [t], p.2.2 + 1))
        else (p.1 ++ [t], p.2)) (acc, [], 0) = (acc ++ cs, [], 0) := by
    intro cs
    induction cs with
    | nil => intro acc _; simp
    | cons c cs ih =>
      intro acc h
      have hcj : (c.job.toNat == j) = false := by simpa using h c (by simp)
      rw [List.foldl_cons, if_neg (by simp [hcj]), ih _ (fun u hu => h u (by simp [hu]))]
      simp
  unfold newestOf
  rw [hc]
  dsimp only
  rw [List.foldl_append, hf bs [] hb]
  simp [ht]

/-- A core whose buffer holds 15,360 tokens of job 63 and one of job 0. -/
def full1 : List Token := List.replicate 15360 { job := 63 } ++ [ctrlToken]

/-- A job that spills to mapped memory. -/
def spilling : State := { onFloor (tabled job1) [] with cores := [(0, { sqrCore with buffer := full1 })] }

theorem witness_QueueEvents_spill :
    spilling.hkc.main = true ∧ ((spilling.job 0).cellar ((spilling.job 0).jobCore 0)).hold = 0
    ∧ ((spilling.job 0).cellar ((spilling.job 0).jobCore 0)).count = 0 ∧ 15360 < (spilling.core 0).buffer.length
    ∧ (0 : Nat) < 1 ∧ newestOf 0 1 (spilling.core 0).buffer = (List.replicate 15360 { job := 63 }, [ctrlToken])
    ∧ (spilling.spillAll 0 0 [ctrlToken]).2 = true := by
  refine ⟨rfl, by decide +kernel, by decide +kernel, ?_, by decide, ?_, by decide +kernel⟩
  · show 15360 < full1.length
    unfold full1
    rw [List.length_append, List.length_replicate]
    exact Nat.lt_succ_self _
  · exact newestOf_last 0 ctrlToken _ rfl (fun u hu => by rw [List.eq_of_mem_replicate hu]; decide)

/-- Clocks at and between the ends of a rate window, a buffer that need not spill, and a cellar that may refill or not. -/
theorem witness_QueueEvents :
    (({ served with clock := 256 } : State).core 0).windowAt < 256 / 256 ∧ 255 / 256 ≤ (({ served with clock := 255 } : State).core 0).windowAt
    ∧ (served.core 0).buffer.length ≤ 15360
    ∧ (let x : Job := { job1 with cellars := [(0, { va := 0, bytes := 65536, tail := 2, insts := [0, 0] })] }
      ({ withJob x with cores := [(0, sqrCore)] } : State).mayRefill 0 0 = true)
    ∧ (onCore0 sqrCore).mayRefill 0 0 = false := by decide +kernel

/-- The job of instance 0 cancelled, with its mark still to reach core 0. -/
def cancelling : Job := { job1 with insts := [(0, { seq := 0, st := .live, phase := 7, graph := 1, preds := [], arg := 0, count := 1, cancelled := true, marks := [0] })] }

/-- A FALLOC of a block that is there and of one that is not; a remote FFREE; a steal request; a mark pending and not. -/
theorem witness_FrameEvents :
    (let q : FallocReq := { req := { id := 5 }, block := 0x20 }
      let s := onCore0 { sqrCore with fallocs := [q] };
      (s.core 0).fallocs[0]? = some q ∧ ((s.core 0).blockOf 0 0x20).isSome = true ∧ (s.core 0).underLimit 0 0x20 sqr = true
      ∧ (s.core 0).runFree 524286 2 = true ∧ (s.core 0).blockOf 0 0x21 = none)
    ∧ (let x : MeshItem := { job := 0, src := 1, dst := 0, vc := 2, what := .ffree 0 0 0 0 }
      let s : State := { onCore0 sqrCore with mesh := [x] }
      arrivesB s 0 x = true ∧ s.devCore 0 x.dst = some 0)
    ∧ (let x : MeshItem := { job := 0, src := 1, dst := 0, vc := 0, what := .steal 0 false {} 0 }
      let s : State := { onCore0 sqrCore with mesh := [x] }
      arrivesB s 0 x = true ∧ s.devCore 0 x.dst = some 0 ∧ s.discards 0 0 0 = false)
    ∧ (withJob cancelling).markPending 0 0 0 = true ∧ (withJob job1).markPending 0 0 0 = false := by decide +kernel

/-- A job whose instance 0 is cancelled, and its mark has been to core 0. -/
def gone1 : Job := { job1 with insts := [(0, { seq := 0, st := .live, phase := 7, graph := 1, preds := [], arg := 0, count := 1, cancelled := true })] }

/-- A shipped 1 × 1 tile, at the receiver and at the sender. -/
def shipment : TileData := { fmt := 0, rows := 1, cols := 1, poison := false, data := [[1, 2, 3, 4]] }

/-- The tile's arrival with a grant of entry 9 at the last unit, with none, behind an older one and for a cancelled instance; the leaving of its last byte, and a tile freed and not. -/
theorem witness_TileTravel :
    (let x : MeshItem := { job := 0, src := 1, dst := 0, vc := 1, what := .tile ctrlToken (some shipment) }
      let s : State := { onCore0 sqrCore with mesh := [x] }
      arrivesB s 0 x = true ∧ s.devCore 0 x.dst = some 0 ∧ s.discards 0 0 0 = false
      ∧ s.queuedBefore 0 (x.asked.getD s.nextId) = false
      ∧ (((s.withoutItem 0).core 0).makeAll s.clock 0 0 .pending shipment.asks []).isNone = true
      ∧ ((((s.withoutItem 0).core 0).makeAll s.clock 0 0 .pending shipment.asks [⟨9, 0⟩]).map (fun p =>
        (((s.withoutItem 0).setCore 0 (p.1.fillShipped shipment p.2)).letIn 0
          { ctrlToken with w2 := (p.1.fillShipped shipment p.2).handle 0 (p.2.headD 0), poison := false }).2)) = some true)
    ∧ (let x : MeshItem := { job := 0, src := 1, dst := 0, vc := 1, what := .tile ctrlToken (some shipment), asked := some 5 }
      let y : MeshItem := { x with src := 2, asked := some 4 }
      let s : State := { onCore0 sqrCore with mesh := [x, y] }
      arrivesB s 0 x = true ∧ s.discards 0 0 0 = false ∧ s.queuedBefore 0 (x.asked.getD s.nextId) = true)
    ∧ (let x : MeshItem := { job := 0, src := 1, dst := 0, vc := 1, what := .tile ctrlToken (some shipment) }
      let s : State := { withJob gone1 with cores := [(0, sqrCore)], mesh := [x] }
      arrivesB s 0 x = true ∧ s.devCore 0 0 = some 0 ∧ s.discards 0 0 0 = true)
    ∧ (let x : MeshItem := { job := 0, src := 0, dst := 1, vc := 1, what := .tile { ctrlToken with w2 := hA } none }
      let s : State := { onCore0 tiles4 with mesh := [x] }
      arrivesB s 0 x = true ∧ s.devCore 0 x.src = some 0 ∧ ((s.core 0).tile (handleIndex hA)).st ≠ .pending
      ∧ ctrlToken.dev.toNat = s.devnum)
    ∧ ((onCore0 tiles4).core 0).tile 0 ≠ {} ∧ (((onCore0 tiles4).core 0).tile 0).st ≠ .freeing
    ∧ (let s := onCore0 { tiles4 with tiles := [(0, { st := .freeing })] };
      ((s.core 0).tile 0).st = .freeing ∧ s.tileIdle 0 0 = true) := by decide +kernel

/-- A request in the tile unit of core 0, waiting or started. -/
def tileReq (i : Instr) (a b d : W64) (started : Bool) : TileReq := { req := { id := 3, instr := i, a := a, b := b, d := d }, started := started }

/-- The requests that may start: TALLOC, TVIEW, and TADD for one that forms bytes; and the started ones that end. -/
theorem witness_TileUnitEvents :
    (∀ q ∈ [tileReq (.talloc tw) 0 0 0 false, tileReq (.tview tw) hA 0 0 false, tileReq (.tadd tw) hA hB 0 false],
      let s := onCore0 { tiles4 with tileReqs := [q] };
      (s.core 0).tileReqs.find? (fun q => q.req.id == 3 && !q.started) = some q ∧ s.mayStart 0 q.req = true)
    ∧ ((tiles4.makeAll 0 0 0 .empty (tiles4.asks (tileReq (.talloc tw) 0 0 0 false).req) [⟨9, 49152⟩]).isSome = true)
    ∧ ((tiles4.makeAll 0 0 0 .pending (tiles4.asks (tileReq (.tadd tw) hA hB 0 false).req) [⟨9, 49152⟩]).isSome = true
      ∧ formsBytes (.tadd tw) = true ∧ (tiles4.tile 4095).st = .free)
    ∧ (∀ q ∈ [tileReq (.tdesc tw) hA 0 0 true, tileReq (.tget tw) hA 0 0 true, tileReq (.tadd tw) hA hB 0 true,
        tileReq (.tadd { tw with acc := true }) hA hB 0 true],
      let k : Core := { tiles4 with tileReqs := [q] }
      takeFirst (fun q => q.req.id == 3 && q.started) k.tileReqs = some (q, [])
      ∧ ((onCore0 tiles4).serviceCheck 0 q.req).2 = false)
    ∧ (tileReq (.tadd tw) hA hB 0 true).req.target = none ∧ (tileReq (.tadd { tw with acc := true }) hA hB 0 true).req.target = some hA := by
  decide +kernel

/-- A product that may start, one that has started, and both of a halted job. -/
theorem witness_MatrixEvents :
    (let q := tileReq (.mma { tw with trb := true }) hA hL 0 false
      let s := onCore0 { tiles4 with mmaReqs := [q] };
      (s.core 0).mmaReqs.find? (fun q => q.req.id == 3 && !q.started) = some q ∧ s.mmaMayStart 0 q.req = true
      ∧ (s.job q.req.job).halted = false
      ∧ ((s.core 0).makeAll s.clock 0 0 .pending ((s.core 0).mmaAsks q.req) [⟨9, 49152⟩]).isSome = true)
    ∧ (let q := tileReq (.mma { tw with trb := true }) hA hL 0 true
      takeFirst (fun q => q.req.id == 3 && q.started) [q] = some (q, []))
    ∧ (∀ b ∈ [false, true], let q := tileReq (.mma { tw with trb := true }) hA hL 0 b
      let s : State := { withJob { job1 with st := .preempting } with cores := [(0, { tiles4 with mmaReqs := [q] })] }
      (s.core 0).mmaReqs.find? (fun q => q.req.id == 3 && (q.started == b)) = some q ∧ (s.job q.req.job).halted = true) := by decide +kernel

/-- Of two started products the one that started later waits for the other, unless that one's job is halted. -/
theorem witness_MatrixEvents_turns :
    let q := tileReq (.mma { tw with trb := true }) hA hL 0 true
    let e : TileReq := { q with req := { q.req with id := 4 } }
    let l : TileReq := { q with turn := 1 }
    takeFirst (fun q => q.req.id == 3 && q.started) [e, l] = some (l, [e]) ∧ e.started = true ∧ e.turn < l.turn
    ∧ ((onCore0 { tiles4 with mmaReqs := [e, l] }).job 0).halted = false := by decide +kernel

/-- A group of banks idle for 4,096 clocks, a sleeping bank, and each place that an error strikes. -/
theorem witness_BankAndErrorEvents :
    (let k : Core := { banks := (List.range 8).map (fun b => (b, { st := .lit, last := 4 })), lastIssue := 4 }
      let s : State := { onCore0 k with clock := 4100 }
      (∀ b ∈ groupBanks 3, (Table.getD (s.core 0).banks b {}).st = .lit
        ∧ (Table.getD (s.core 0).banks b {}).last + 4096 ≤ s.clock)
      ∧ (s.core 0).lastIssue + 4096 ≤ s.clock)
    ∧ (Table.getD ({ banks := [(3, { st := .safelight })] } : Core).banks 3 {}).st = .safelight
    ∧ (tiles4.tile 0).st ≠ .free ∧ ({ buffer := [ctrlToken] } : Core).buffer[0]? = some ctrlToken := by decide +kernel

/-! ## Memory (chapters 04 and 08) -/

/-- A request 7 of core 0 with one element, on a page of these leaf bits at this physical address. -/
def accessing (i : Instr) (e : Elem) (leaf pa : Nat) : State :=
  { onFloor job1 [] with
    cores := [(0, { sqrCore with tlb := [{ job := 0, va := 0, size := 65536, pa := pa, leaf := leaf }] })]
    memReqs := [{ req := { id := 7, instr := i, d := 9 }, elems := [e] }] }

def element : Elem := { va := 0x40, len := 8, data := [1, 2, 3, 4, 5, 6, 7, 8] }
def page (leaf pa : Nat) : TlbEntry := { job := 0, va := 0, size := 65536, pa := pa, leaf := leaf }

/-- The parts of `Performs`, evaluated, for the first element of request 7. -/
def performsB (s : State) (p : TlbEntry) : Bool :=
  match s.memReqs[0]? with
  | some m =>
    (match m.elems[0]? with
      | some e => s.hkc.main && m.req.id == 7 && s.devCore m.req.job m.req.core == some 0 && performsElements m.req.instr
          && (!m.req.tileForm || m.begun) && e.st == .waiting && !m.frozen && s.gateOpen 0 m && s.mayPerform 0 m 0
          && s.tlbFind 0 m.req.job e.va == some p && (m.req.pageRefuses p.leaf).isNone
      | none => false)
  | none => false

theorem performs {s : State} {p : TlbEntry} (h : performsB s p = true) : ∃ m e, s.Performs 7 0 0 m e p := by
  unfold performsB at h
  cases hm : s.memReqs with
  | nil => simp [hm] at h
  | cons m l =>
    cases he : m.elems with
    | nil => simp [hm, he] at h
    | cons e es =>
      simp only [hm, he, List.getElem?_cons_zero, Bool.and_eq_true, beq_iff_eq, Bool.or_eq_true, Bool.not_eq_true',
        Option.isNone_iff_eq_none] at h
      obtain ⟨⟨⟨⟨⟨⟨⟨⟨⟨⟨h1, h2⟩, h3⟩, h4⟩, h5⟩, h6⟩, hf⟩, h7⟩, h8⟩, h9⟩, h10⟩ := h
      exact ⟨m, e, h1, by simp [hm, h2], h3, h4, h5, by simp [he], h6, hf, h7, h8, h9, h10⟩

/-- The bytes of a read that gave data, and whether a write went through. -/
def gotData : Got → Option (List Byte)
  | .data bs => some bs
  | _ => none

/-- Stores to a write-combining page of each home and to an ordinary one, a load, a WATCH, an atomic, and loads of another device, of
nothing and of the host, asked for and answered. -/
theorem witness_ElementsPerformed :
    (performsB (accessing (.st mw) element 0x77 0) (page 0x77 0) = true ∧ homeOf 0 ((page 0x77 0).at 0x40) = .hbm 0x40 ∧ bits 0x77 2 2 = 1
      ∧ ({ instr := .st mw } : Req).acc = .write)
    ∧ (∀ p ∈ [page 0x277 (2 ^ 49), page 0x77 (2 ^ 51 + 2 ^ 41)], performsB (accessing (.st mw) element p.leaf p.pa) p = true
        ∧ bits p.leaf 2 2 = 1)
    ∧ (homeOf 0 ((page 0x277 (2 ^ 49)).at 0x40) = .host 0x40 ∧ homeOf 0 ((page 0x77 (2 ^ 51 + 2 ^ 41)).at 0x40) = .fabric 1 0x40
      ∧ 0x40 < hbmBytes)
    ∧ (performsB (accessing (.watch mw) element 0x73 0) (page 0x73 0) = true ∧ ({ instr := .watch mw } : Req).acc = .read)
    ∧ (performsB (accessing (.ld mw) element 0x273 (2 ^ 49)) (page 0x273 (2 ^ 49)) = true ∧ served.spanPasses 0x40 8 = true)
    ∧ (performsB (accessing (.st mw) element 0x73 0) (page 0x73 0) = true ∧ bits 0x73 2 2 ≠ 1
      ∧ (gotData ((accessing (.st mw) element 0x73 0).devWrite (some 0) 0x40 element.data).2).isSome = true)
    ∧ (performsB (accessing (.ld mw) element 0x73 0) (page 0x73 0) = true ∧ ({ instr := .ld mw } : Req).acc = .read
      ∧ gotData ((accessing (.ld mw) element 0x73 0).devRead (some 0) 0x40 8).2 = some (zeros 8))
    ∧ (performsB (accessing (.atom mw) element 0x73 0) (page 0x73 0) = true ∧ ({ instr := .atom mw } : Req).acc = .atomic)
    ∧ (performsB (accessing (.ld mw) element 0x73 (2 ^ 51 + 2 ^ 41)) (page 0x73 (2 ^ 51 + 2 ^ 41)) = true
      ∧ homeOf 0 ((page 0x73 (2 ^ 51 + 2 ^ 41)).at 0x40) = .fabric 1 0x40)
    ∧ (performsB (accessing (.ld mw) element 0x73 (2 ^ 50)) (page 0x73 (2 ^ 50)) = true
      ∧ homeOf 0 ((page 0x73 (2 ^ 50)).at 0x40) = .hole)
    ∧ (∀ i ∈ [Instr.ld mw, .st mw, .atom mw], let e : Elem := { element with st := .away 12, page := some (page 0x273 (2 ^ 49)) }
      let s := accessing i e 0x273 (2 ^ 49);
      s.devCore 0 0 = some 0 ∧ s.memReqs.head?.map (fun m => m.elems) = some [e]
      ∧ homeOf s.devnum ((page 0x273 (2 ^ 49)).at e.va) = .host 0x40 ∧ s.spanPasses 0x40 e.len = true) := by
  decide +kernel

/-- A walk that succeeds, one that meets an absent page, and one of an address beyond 2^55. -/
def walked (va : Nat) : State :=
  { onFloor (tabled job1) [] with
    cores := [(0, sqrCore)], memReqs := [{ req := { id := 7, instr := .ld mw }, elems := [{ va := va, len := 8 }] }] }

def walkOk (s : State) (va : Nat) : Option (Option Nat) :=
  match s.walk 0 va with
  | .ok _ => none
  | .error f => some (some f.kind)

/-- It is the first element's turn. -/
def walkTurn (s : State) : Bool :=
  s.devCore 0 0 == some 0 && (match s.memReqs.find? (fun m => m.req.id == 7) with | some m => (s.elemTurn 0 m 0).isSome | none => false)

/-- Page walks of the three ends, a WATCH whose time is over, begun or not, and a combiner's entry of each home. -/
theorem witness_WalksAndTimeouts :
    (let s := walked 0x40;
      walkTurn s = true ∧ s.tlbFind 0 0 0x40 = none ∧ walkOk (s.touchTables 0 0x40) 0x40 = none)
    ∧ (∀ p ∈ [(2 ^ 29, 0), (2 ^ 55, 1)], let s := walked p.1
      walkTurn s = true ∧ s.tlbFind 0 0 p.1 = none ∧ walkOk (s.touchTables 0 p.1) p.1 = some (some p.2))
    ∧ (∀ b ∈ [true, false], let m : MemReq := { req := { id := 7, instr := .watch mw, d := 5 }, elems := [element], since := some 3, begun := b }
      let s : State := { onFloor job1 [] with memReqs := [m], cores := [(0, sqrCore)], time := 8 }
      s.memReqs.find? (fun m => m.req.id == 7) = some m ∧ m.req.d ≠ 0 ∧ 3 + m.req.d.toNat ≤ s.time.toNat ∧ s.devCore 0 0 = some 0
      ∧ m.req.job < 4096 ∧ (gotData (s.devRead (some 0) element.dest m.req.bytes).2).isSome = true)
    ∧ (∀ u ∈ [1, 2 ^ 43 + 1, 2 ^ 45 + 2 ^ 35 + 1], let x : WcEntry := { job := 0, unit := u, bytes := [(0, 5)], insts := [0] }
      let es := Table.getD ({ served with wc := [(0, [x])] } : State).wc 0 []
      es[0]? = some x ∧ ∀ y ∈ es, y.sent = false)
    ∧ homeOf 0 64 = .hbm 64 ∧ homeOf 0 ((2 ^ 43 + 1) * 64) = .host 64 ∧ homeOf 0 ((2 ^ 45 + 2 ^ 35 + 1) * 64) = .fabric 1 64
    ∧ served.spanPasses 64 64 = true := by decide +kernel

/-- A walker with a WGO, with a WPAR, in an empty round, and in a round of one point. -/
def walking (w : Walker) : State := onCore0 { sqrCore with walkers := [(0, { w with claimed := true })] }

def isGo : CopyStep → Bool
  | .go _ _ => true
  | .stop _ => false

/-- How a fault record ends. -/
def RingStep.code : RingStep → Nat
  | .written _ _ => 0
  | .lost _ => 1
  | .waits _ => 2

/-- The walker's cases; a copy whose units are all written, and a PREF that goes before it; a fault record whose ring has room, one
whose ring cannot be reached, and one whose ring's slot is still the host's. -/
theorem witness_EngineEvents :
    (∀ i ∈ [Instr.wgo mw, Instr.wpar mw], let s := walking { queue := [{ instr := i }] };
      (s.core 0).walker 0 = { claimed := true, queue := [{ instr := i }] } ∧ s.engineRuns 0 = true
      ∧ ((s.core 0).walker 0).frozen = none)
    ∧ (((walking { running := true, shape := { ndim := 1, ext := [0] } }).core 0).walker 0).shape.total = 0
    ∧ (let w : Walker := { running := true, shape := { ndim := 1, ext := [1, 1, 1, 1], str := [0, 0, 0, 0] } }
      (((walking w).core 0).walker 0).shape.total ≠ 0 ∧ (((walking w).core 0).walker 0).shape.kind ≠ 2
      ∧ (((walking w).core 0).walker 0).shape.store = false)
    ∧ (let x : CopyReq := { req := { instr := .cpyr mw }, die := 0, queue := 0, index := 0, bytes := some (zeros 32), row := 2 }
      let s : State := { withJob job1 with copies := [x] }
      s.engineRuns 0 = true ∧ s.prefWaits 0 = false ∧ x.frozen = none ∧ s.copies.find? (fun x => x.die == 0 && x.req.job == 0 && x.queue == 0) = some x
      ∧ isGo (s.checkCopy x) = true ∧ isGo (s.copyUnits x (x.nrow * x.units)) = true)
    ∧ (let r : FaultRec := { id := 9, job := 0, kind := 1, reason := 6, access := 0, portType := 0, va := 0, entry := 0, level := 0, inst := 0 }
      let s : State := { onFloor (tabled job1) [] with faultBuf := [(0, [r])] }
      Table.getD s.faultBuf 0 [] = [r] ∧ (s.job? r.job).isSome = true ∧ RingStep.code (s.putFault r) = 0
      ∧ RingStep.code ((withJob job1).putFault r) = 1
      ∧ RingStep.code ((onFloor (tabled job1) (Memory.write [] 0x7F [1])).putFault r) = 2)
    ∧ (let s : State := { withJob job1 with memReqs := [{ req := { id := 7, instr := .pref mw }, elems := [] }] }
      s.prefWaits 0 = true ∧ s.engineRuns 0 = true) := by decide +kernel

/-- A walker that a WSTOP has stopped, with a write to another device to be answered and with none; and units to be read by themselves. -/
theorem witness_EngineEvents_stopping :
    (let r : Req := { instr := .wstop mw }
      let s := walking { running := true, stopping := some r }
      ((s.core 0).walker 0).stopping = some r ∧ s.walkerWrites 0 0 = false
      ∧ ({ s with fabric := [{ rid := 9, owner := [1, 0, 0], dev := 3, pa := 0, len := 1, write := true }] } : State).walkerWrites 0 0 = true)
    ∧ (let w : Walker := { running := true, shape := { ndim := 1, ext := [1, 1, 1, 1], str := [0, 0, 0, 0] } }
      (((walking w).core 0).walker 0).shape.total ≠ 0 ∧ (((walking w).core 0).walker 0).stopping = none
      ∧ ([(0, 0)] : List (Nat × Nat)) ≠ []) := by decide +kernel

/-- A ZEROING floor 15 of room 7; a LIT floor with a region and units to spoil; a room idle for its time; a room that wakes. -/
theorem witness_FloorAndRoomEvents :
    (let s : State := { served with floors := [(127, { st := .zeroing })] };
      (15 : Nat) < 16 ∧ (s.floor (16 * 7 + 15)).st = .zeroing ∧ (s.room 7).lit = true
      ∧ s.begunWhere (fun c => c.op == 0x0D && c.floors.contains 127
        && c.floors.any (fun g => decide (g < 127) && (s.floor g).st == .zeroing)) = [])
    ∧ (let s : State := { served with floors := [(127, { st := .lit })] }
      (s.floor 127).st = .lit ∧ (s.floor 127).cleared.contains 65535 = false ∧ (∀ u ∈ [127 * 2 ^ 26, 128 * 2 ^ 26 - 1], floorOf (64 * u) = 127))
    ∧ (let s : State := { served with clock := served.idleClocks }
      (s.room 7).lit = true ∧ s.covered 7 = false ∧ (s.room 7).last + s.idleClocks ≤ s.clock ∧ ∀ q < 16, (s.queue q).cur = none)
    ∧ (({ served with rooms := [(7, { lit := false, waking := true })] } : State).room 7).waking = true
    ∧ (served.room 7).waking = false ∧ (served.floor 127).st ≠ .zeroing ∧ (served.floor 127).st ≠ .lit
    ∧ served.clock < (served.room 7).last + served.idleClocks := by decide +kernel

/-- The last byte of the last room, data and poison, and a write to the end of a unit. -/
theorem witness_HostAccesses :
    let s : State := { served with floors := [(0, { st := .lit }), (127, { st := .lit })], poison := [2] }
    hbmBytes - 1 < hbmBytes ∧ s.portServes (roomOf (hbmBytes - 1)) = true ∧ s.portServes (roomOf 129) = true
    ∧ (gotData (s.devRead none ((hbmBytes - 1) / 64 * 64) 64).2).isSome = true
    ∧ (match (s.devRead none (129 / 64 * 64) 64).2 with | .poison => true | _ => false) = true
    ∧ ([7] : List Byte) ≠ [] ∧ (hbmBytes - 1) % 64 + 1 ≤ 64 := by decide +kernel

/-! ## Records (chapters 05, 07 and 08) -/

/-- The parts of `Delivers` and of `Marks`, evaluated for the first record of the inbox. -/
def deliversB (s : State) (kind : Nat) (r : LinkRec) : Bool :=
  s.hkc.main && s.inbox[0]? == some r && r.kind == kind && !s.recWaits r

theorem delivers {s : State} {kind : Nat} {r : LinkRec} (h : deliversB s kind r = true) : s.Delivers 0 kind r := by
  simp only [deliversB, Bool.and_eq_true, beq_iff_eq, Bool.not_eq_true'] at h
  obtain ⟨⟨⟨h1, h2⟩, h3⟩, h4⟩ := h
  exact ⟨h1, h2, h3, h4, rfl⟩

/-- A record from device 3. -/
def inbound (kind : Nat) (body : List Byte) : LinkRec := { kind := kind, src := 3, rid := 21, body := body }

/-- The value that an atomic found. -/
def ElemGot.found : ElemGot → Option Nat
  | .value n => some n
  | _ => none

/-- Requests to a LIT and a DARK floor and past the memory; a write and an atomic with their data, or on a poisoned unit, and a write that
carries POISON. -/
theorem witness_RemoteAccesses :
    (∀ kind ∈ [2, 3, 4, 5], let r := inbound kind (natLe 8 0x40 ++ natLe 4 8 ++ zeros 20)
      let s : State := { onFloor job1 [] with inbox := [r] }
      deliversB s kind r = true ∧ s.targetAt (recNat r.body 0 8) = .memory ∧ r.poison = false ∧ s.watchesIn (roomOf 0x40) < 1024
      ∧ (gotData ((s.withoutRec 0).hbmRead none 0x40 8).2).isSome = true
      ∧ (gotData ((s.withoutRec 0).hbmWrite none 0x40 ((r.body.drop 16).take 8)).2).isSome = true
      ∧ (∀ ty ∈ [ScalarTy.s64, .z64], ElemGot.found ((s.withoutRec 0).atomicAt none 0x40 8 0 ty 0 0).2 = some 0))
    ∧ (let s : State := { onFloor job1 [] with poison := [1] }
      gotData (s.hbmRead none 0x40 8).2 = none ∧ gotData (s.hbmWrite none 0x41 [1]).2 = none
      ∧ ElemGot.found (s.atomicAt none 0x40 8 0 .z64 0 0).2 = none)
    ∧ (let r : LinkRec := { inbound 3 (natLe 8 0x40 ++ natLe 4 8 ++ zeros 20) with poison := true }
      let s : State := { onFloor job1 [] with inbox := [r] }
      deliversB s 3 r = true ∧ s.targetAt (recNat r.body 0 8) = .memory ∧ r.poison = true)
    ∧ (served.targetAt 0x40 = .dark ∧ served.targetAt hbmBytes = .error)
    ∧ (let r := inbound 6 (zeros 16)
      let s : State := { accessing (.ld mw) { element with st := .away 21 } 0x73 0 with inbox := [r] }
      deliversB s 6 r = true ∧ (s.awayElem r.rid).isSome = true)
    ∧ (let r := inbound 6 (zeros 16)
      let s : State := { served with inbox := [r] }
      deliversB s 6 r = true ∧ s.awayElem r.rid = none) := by decide +kernel

/-- A record of each kind that the engines take, of a job that is here and of one that is not. -/
theorem witness_RoutingRecords : ∀ kind ∈ [7, 8, 9, 0xA, 0xB, 0xC, 0xD, 0xE, 0xF, 0x10, 1],
    deliversB { withJob job1 with inbox := [inbound kind (zeros 64)] } kind (inbound kind (zeros 64)) = true
    ∧ deliversB { served with inbox := [inbound kind (zeros 64)] } kind (inbound kind (zeros 64)) = true
    ∧ (withJob job1).job? (inbound kind []).job = some job1 ∧ job1.ended = false ∧ served.job? (inbound kind []).job = none := by
  decide +kernel

/-- A job whose graph 1 is cut between devices 0 and 3, and its part in slot 0 of fabric tag 21. -/
def cut : Job :=
  { job1 with
    graphs := [(1, { cores := 1, blocks := [0], primes := [], image := 0, dataOff := 0, fabric := some (21, [0, 3]) })]
    ordinals := [(21, 1)] }

def marksB (s : State) (kind : Nat) (r : LinkRec) : Bool :=
  deliversB s kind r && ((s.job r.job).fabricInst r.rid (recNat r.body 0 4)).isSome

theorem marks {s : State} {kind : Nat} {r : LinkRec} (h : marksB s kind r = true) : ∃ n v, s.Marks 0 kind r n v := by
  simp only [marksB, Bool.and_eq_true] at h
  obtain ⟨⟨n, v⟩, hv⟩ := Option.isSome_iff_exists.1 h.2
  exact ⟨n, v, delivers h.1, hv⟩

/-- A ready mark, totals of the first collection and of the second, a cancel mark, and a curtain. -/
theorem witness_MarksAndCurtains :
    (∀ p ∈ [(0x11, 5), (0x12, 1), (0x12, 2), (0x13, 0)], let r := inbound p.1 (natLe 4 0 ++ natLe 4 p.2 ++ zeros 24)
      marksB { withJob cut with inbox := [r] } p.1 r = true ∧ recNat r.body 4 1 = p.2)
    ∧ (let x : MeshItem := { job := 0, src := 1, dst := 0, vc := 0, what := .curtain ctrlToken }
      arrivesB { withJob { job1 with st := .preempting } with mesh := [x] } 0 x = true)
    ∧ (∀ dst ∈ [0, 64, 65, 128, 129], let x : MeshItem := { job := 0, src := 1, dst := dst, vc := 0, what := .curtain ctrlToken }
      let y : Job := { job1 with st := .preempting }
      arrivesB { withJob y with mesh := [x] } 0 x = true ∧ y.st = .preempting ∧ ctrlToken.tag = y.halt
      ∧ y.curtains.contains (ctrlToken.curtainKey x.dst) = false) := by decide +kernel

/-- An instance that ends, one that holds work, one that is to be primed, an edge due and one ahead, and a stalled instance. -/
theorem witness_SchedulerEvents :
    (let s := withJob job1;
      s.hkc.main = true ∧ s.job? 0 = some job1 ∧ job1.halted = false ∧ s.collect 0 0 = (0, 0, 0)
      ∧ ∀ v ∈ (s.inst? 0 0).toList, v.st = .live ∧ v.marks = [] ∧ job1.fabricOf v = none)
    ∧ (let s := onCore0 { sqrCore with buffer := [ctrlToken] }; (s.collect 0 0).1 ≠ 0)
    ∧ (let p : Prime := { block := 0x20, entry := 1, port := 0, gcore := 0, kind := 0, type := 0, tag := 0, dim := 0, value := 0 }
      let v : Instance := { seq := 0, st := .live, phase := 7, graph := 1, preds := [], arg := 0, count := 1, primes := [p], roots := [⟨0, 0x20, some 0⟩] }
      let s := withJob { job1 with insts := [(0, v)] };
      s.inst? 0 0 = some v ∧ v.primes ≠ [] ∧ job1.running = true
      ∧ (match (s.giveRoots 0 0).inst? 0 0 with | some w => w.roots.all (fun r => r.base.isSome) | none => false) = true)
    ∧ (let x : Job := { job1 with period := 10000, nextEdge := 7 }
      x.running = true ∧ x.period ≠ 0 ∧ x.nextEdge ≤ ({ withJob x with time := 7 } : State).time.toNat
      ∧ ({ withJob x with time := 6 } : State).time.toNat < x.nextEdge)
    ∧ (let s : State := { onCore0 { sqrCore with buffer := [ctrlToken] } with clock := 2 ^ 16 }
      ∀ v ∈ (s.inst? 0 0).toList, (s.collect 0 0).1 ≠ 0 ∧ s.timerStands 0 0 job1 v = false ∧ max v.progress v.reported + 2 ^ job1.qwin ≤ s.clock) := by
  decide +kernel

/-- An edge due in a job that is PREEMPTING, PREEMPTED and CANCELLING. -/
theorem witness_SchedulerEvents_edges : ∀ st ∈ [JobSt.preempting, .preempted, .cancelling],
    let x : Job := { job1 with st := st, period := 10000, nextEdge := 7 }
    (withJob x).job? 0 = some x ∧ x.period ≠ 0 ∧ x.nextEdge ≤ ({ withJob x with time := 7 } : State).time.toNat := by decide +kernel

/-! ## Links, ends and the step -/

/-- A device whose link 15 is up. -/
def linked (l : Link) : State := { served with links := [(15, l)] }
def trained : Link := { up := true, width := 8 }

/-- A flit is read from its header, its payload and the checksum of both. -/
theorem flitOf_some (v : Nat) (payload : List Byte) (hl : payload.length = 240) (hv : v < 2 ^ 64) (hz : bits v 0 18 = 0)
    (ht : bits v 60 4 < 4) (hn : bits v 53 4 ≤ 10) :
    ∃ bs x, flitOf bs = some x ∧ x.ftype = bits v 60 4 ∧ x.seq = BitVec.ofNat 12 (bits v 41 12) ∧ x.vc = bits v 57 3
      ∧ x.ntok = bits v 53 4 ∧ x.payload = payload := by
  have hlen (n v : Nat) : (natLe n v).length = n := by
    induction n generalizing v with
    | zero => rfl
    | succ n ih => simp [natLe, ih]
  let h : List Byte := natLe 8 v ++ payload
  have hh : h.length = 248 := by simp [h, hlen, hl]
  let bs := h ++ natLe 8 (Config.flitCrc h).toNat
  have h8 : recNat bs 0 8 = v := by
    simp only [recNat, List.drop_zero, bs, h, List.append_assoc]
    rw [List.take_append_of_le_length (by simp [hlen]), List.take_of_length_le (by simp [hlen]), leNat_natLe]
    exact Nat.mod_eq_of_lt hv
  have hc : recNat bs 248 8 = (Config.flitCrc (bs.take 248)).toNat := by
    simp only [recNat, bs]
    rw [List.drop_append_of_le_length (by omega), List.drop_of_length_le (by omega), List.nil_append,
      List.take_of_length_le (by simp [hlen]), leNat_natLe, List.take_append_of_le_length (by omega), List.take_of_length_le (by omega)]
    exact Nat.mod_eq_of_lt (Config.flitCrc h).isLt
  refine ⟨bs, ⟨bits v 60 4, bits v 57 3, bits v 53 4, BitVec.ofNat 12 (bits v 41 12), BitVec.ofNat 12 (bits v 29 12), bits v 21 8,
    bits v 18 3, (bs.drop 8).take 240⟩, ?_, rfl, rfl, rfl, rfl, ?_⟩
  · unfold flitOf
    rw [h8, if_neg]
    simp only [hc, hz, Bool.or_eq_true, bne_iff_ne, decide_eq_true_eq, ne_eq, not_or, Decidable.not_not]
    refine ⟨⟨⟨⟨by simp [bs, hh, hlen], ?_⟩, ?_⟩, by omega⟩, by omega⟩ <;> trivial
  · simp [bs, h, hlen, hl]

/-- Headers of a data flit of sequence 0 and of an idle flit, a retry request and a time mark, with empty payloads. -/
theorem witness_LinkEvents_flits :
    ∀ v ∈ [0, 2 ^ 60, 2 * 2 ^ 60, 3 * 2 ^ 60 + 6 * 2 ^ 57], v < 2 ^ 64 ∧ bits v 0 18 = 0 ∧ bits v 60 4 < 4 ∧ bits v 53 4 ≤ 10
      ∧ bits v 41 12 = 0 ∧ (v ≠ 0 → Flit.plain ⟨bits v 60 4, bits v 57 3, bits v 53 4, 0, 0, 0, 0, zeros 240⟩ = true) := by decide +kernel

/-- Flits that are read, lanes in use and not, a spared and a narrowed link, one that goes down, and one that trains. -/
theorem witness_LinkEvents :
    ((linked trained).hkc.main = true ∧ (linked trained).yilyel = true ∧ ((linked trained).link 15).up = true ∧ flitOf [] = none
      ∧ ((linked trained).link 15).retrying = false ∧ ((linked { trained with retrying := true }).link 15).retrying = true
      ∧ (atLevel .proof true).yilyel = false ∧ (linked trained).host.tmaster = false)
    ∧ (((0 : BitVec 12) - (1 : BitVec 12)).toNat = 4095 ∧ 1024 < ((0 : BitVec 12) - (1 : BitVec 12)).toNat
      ∧ ((1024 : BitVec 12) - (0 : BitVec 12)).toNat ≤ 1024)
    ∧ (8 < 9 ∧ trained.failed.contains 0 = false ∧ trained.lanes.contains 0 = true ∧ min trained.width (Link.widest (trained.failed ++ [0])) = 8)
    ∧ (let l : Link := { trained with failed := [1] }
      l.lanes.contains 0 = true ∧ min l.width (Link.widest (l.failed ++ [0])) = 4)
    ∧ (let l : Link := { up := true, width := 4, failed := [1] }
      l.failed.contains 8 = false ∧ l.lanes.contains 8 = false)
    ∧ (((linked {}).link 15).up = false ∧ Link.widest ((linked {}).link 15).failed ≠ 0 ∧ ((linked {}).link 15).failed.contains 8 = false)
    ∧ deliversB { served with inbox := [inbound 0x15 (zeros 8)] } 0x15 (inbound 0x15 (zeros 8)) = true := by decide +kernel

/-- An instance of each end; an end that its phase takes; a phase of ended instances. -/
theorem witness_EndStatuses :
    (∀ v ∈ job1.insts, v.2.cancelled = false ∧ v.2.faulted = false ∧ v.2.poison = 0 ∧ v.2.st ≠ .ended ∧ ∃ p ∈ job1.phases, p.id = v.2.phase ∧ p.ended = false)
    ∧ (∀ sts ∈ [[2, 3], [0, 3, 1], [1, 0], [0], []], let p : Phase := { id := 7, ticked := false, queuePolicy := false, released := true, closed := true, statuses := sts }
      let x : Job := { job1 with phases := [p], insts := [] }
      (withJob x).job? 0 = some x ∧ x.ended = false ∧ x.st ≠ .preempting ∧ x.insts.find? (fun q => q.2.st == .waiting && q.2.preds.isEmpty) = none
      ∧ x.open_ = [p] ∧ x.phaseIdle 7 = true ∧ ∀ st ∈ p.statuses, st < 4) := by decide +kernel

/-- A word to issue, no group to issue it for, an input, and none. -/
theorem witness_StepFetches :
    (let s := issuing {} [lane3 1 2 3]; (s.core 0).blockOf 0 0 = some block1 ∧ block1.code[0]? = some 0x2000400241400000)
    ∧ ({ served with issue := some (0, 0) } : State).issue = some (0, 0) ∧ (served.core 0).issuing 0 = none
    ∧ (served.issue = none ∧ served.agenda = [])
    ∧ ({ served with agenda := [{ event := .timeMarkSend }] } : State).agenda = [{ event := .timeMarkSend }] := by decide +kernel

/-- EventsNeverStop, MemoryKept, FusesNeverFall, DecodeEncode and EncodeDecode: an event, canonical memories that a step keeps, and
a well-formed word. -/
theorem witness_general : encode (.tickEdge 0) = none ∧ (onFloor job1 []).memoryWf = true ∧ step served = .next served
    ∧ isWellFormed 4 (.add rw0) = true ∧ encode (.add rw0) = some 0x2000400241400000 ∧ decode 0x2000400241400000 = .ok (.add rw0) :=
  ⟨rfl, by decide +kernel, rfl, rfl, rfl, rfl⟩

end Sys2Proof.Tests
end

section
/-! What an event and the traffic of the device leave unchanged: the table of jobs. Only INSTANCE_END, PHASE_END and JOB_END (types 1
to 3) change it as they are written (R65). -/

namespace Sys2Proof.Machine

/-! ## Folds over the state -/

/-- A fold keeps what each of its steps keeps. -/
theorem foldl_keeps {α β : Type} (g : State → β) {f : State → α → State} (h : ∀ t a, g (f t a) = g t) (l : List α) (s : State) :
    g (l.foldl f s) = g s := by
  induction l generalizing s with
  | nil => rfl
  | cons a l ih => rw [List.foldl_cons, ih, h]

/-! ## Memory accesses that no job makes -/

@[simp] theorem State.touchRoom_none_jobs (s : State) (r n : Nat) : (s.touchRoom none r n).jobs = s.jobs := by
  unfold State.touchRoom; dsimp only; split <;> rfl

@[simp] theorem State.clearRegions_none_jobs (s : State) (pa n : Nat) : (s.clearRegions none pa n).jobs = s.jobs := by
  unfold State.clearRegions
  dsimp only
  generalize List.filter _ _ = rs
  split <;> rfl

@[simp] theorem State.notifyWatches_jobs (s : State) (pa n : Nat) : (s.notifyWatches pa n).jobs = s.jobs := rfl

@[simp] theorem State.hostWrite_jobs (s : State) (a : Nat) (bs : List Byte) : (s.hostWrite a bs).jobs = s.jobs := rfl

@[simp] theorem State.hbmWrite_none_jobs (s : State) (pa : Nat) (bs : List Byte) : (s.hbmWrite none pa bs).1.jobs = s.jobs := by
  unfold State.hbmWrite
  dsimp only
  split
  · split <;> simp
  · simp

theorem State.jobs_of_hbmWrite_none {s t : State} {pa : Nat} {bs : List Byte} {g : Got} (h : s.hbmWrite none pa bs = (t, g)) :
    t.jobs = s.jobs := by
  rw [← State.hbmWrite_none_jobs s pa bs, h]

/-! ## Links and rings -/

@[simp] theorem State.sendFlits_jobs (s : State) (n : Nat) (fs : List FlitReq) : (s.sendFlits n fs).jobs = s.jobs := rfl

@[simp] theorem State.msix_jobs (s : State) (v : Nat) : (s.msix v).jobs = s.jobs := by
  unfold State.msix
  split
  · split <;> rfl
  · split <;> rfl

@[simp] theorem State.askUnit_jobs (s : State) (owner : List Nat) (dev pa n : Nat) (data : Option (List Byte)) :
    (s.askUnit owner dev pa n data).jobs = s.jobs := by
  unfold State.askUnit; dsimp only; split <;> rfl

@[simp] theorem State.askRing_jobs (s : State) (owner : List Nat) (dev pa n : Nat) (data : Option (List Byte)) :
    (s.askRing owner dev pa n data).jobs = s.jobs :=
  foldl_keeps State.jobs (fun _ _ => State.askUnit_jobs ..) _ _

@[simp] theorem State.postRing_jobs (s : State) (kind n dev pa : Nat) (bytes : List Byte) :
    (s.postRing kind n dev pa bytes).jobs = s.jobs := State.askRing_jobs ..

/-! ## Events -/

@[simp] theorem State.writeEvent_jobs (s : State) (e : Event) (last : Bool) : (s.writeEvent e last).1.jobs = s.jobs := by
  unfold State.writeEvent
  dsimp only
  split
  · split
    next he => simpa using State.jobs_of_hbmWrite_none he
    next he => simpa using State.jobs_of_hbmWrite_none he
  · simp only [State.msix_jobs]; split <;> rfl
  · simp
  · simp

/-- What the writing of an event raises is FLOOR_DARK or UNROUTABLE. -/
theorem State.writeEvent_raises {s : State} {e : Event} {last : Bool} {type : Nat} {payload : List Byte}
    (h : (s.writeEvent e last).2 = some (type, payload)) : type = 0x000F ∨ type = 0x000C := by
  unfold State.writeEvent at h
  dsimp only at h
  split at h
  · split at h <;> simp_all
  · simp at h
  · split at h <;> simp_all
  · simp at h

theorem State.note_jobs (s : State) {type : Nat} (job : Nat) (payload : List Byte) (last : Bool) (h : 3 < type) :
    (s.note type job payload last).1.jobs = s.jobs := by
  have he : ∀ e : Event, e.type = type → e.isEnd = false := fun e _ => by simp [Event.isEnd]; omega
  unfold State.note
  dsimp only
  rw [he _ rfl, if_neg Bool.false_ne_true]
  split <;> simp

theorem State.note_raises {s : State} {type job t : Nat} {payload p : List Byte} {last : Bool}
    (h : (s.note type job payload last).2 = some (t, p)) : t = 0x000F ∨ t = 0x000C := by
  unfold State.note at h
  dsimp only at h
  split at h
  · split at h
    · exact State.writeEvent_raises h
    · cases h
  · split at h
    · exact State.writeEvent_raises h
    · cases h

/-- An event that is no end event leaves the jobs as they are, whatever its own writing raises. -/
theorem State.event_jobs (s : State) {type : Nat} (job : Nat) (payload : List Byte) (h : 3 < type) :
    (s.event type job payload).jobs = s.jobs := by
  have hn := State.note_jobs s job payload false h
  unfold State.event State.follow
  split
  next u t p he =>
    rw [he] at hn
    have ht : t = 0x000F ∨ t = 0x000C := State.note_raises (congrArg Prod.snd he)
    rw [State.note_jobs u _ _ _ (by omega)]
    exact hn
  next u he => rw [he] at hn; exact hn

@[simp] theorem State.floorDark_jobs (s : State) (job : Option Nat) (pa : Nat) : (s.floorDark job pa).jobs = s.jobs :=
  State.event_jobs s _ _ (by decide)

@[simp] theorem State.unroutable_jobs (s : State) (dev w0 : Nat) : (s.unroutable dev w0).jobs = s.jobs :=
  State.event_jobs s _ _ (by decide)

/-! ## Records to other devices -/

@[simp] theorem State.sendRec_jobs (s : State) (die vc : Nat) (r : LinkRec) : (s.sendRec die vc r).jobs = s.jobs := by
  unfold State.sendRec
  split
  · rfl
  · split <;> simp

@[simp] theorem State.sendAccess_jobs (s : State) (die j dev pa n : Nat) (data : Option (List Byte)) (poison : Bool) (rid : Nat) :
    (s.sendAccess die j dev pa n data poison rid).jobs = s.jobs := by
  cases data <;> exact State.sendRec_jobs ..

@[simp] theorem State.askFabric_jobs (s : State) (owner : List Nat) (die j va dev pa n : Nat) (data : Option (List Byte))
    (poison : Bool) : (s.askFabric owner die j va dev pa n data poison).1.jobs = s.jobs := by
  unfold State.askFabric
  split
  · rfl
  · exact State.sendAccess_jobs ..

@[simp] theorem State.releasePart_jobs (s : State) (x : Participant) : (s.releasePart x).jobs = s.jobs :=
  foldl_keeps State.jobs (fun _ _ => State.sendRec_jobs ..) _ _

@[simp] theorem State.releaseParts_jobs (s : State) (p : Participant → Bool) : (s.releaseParts p).jobs = s.jobs :=
  foldl_keeps State.jobs (fun _ _ => State.releasePart_jobs ..) _ _

@[simp] theorem State.onCmds_jobs (s : State) (j : Nat) (f : Cmd → Cmd) : (s.onCmds j f).jobs = s.jobs := rfl

end Sys2Proof.Machine
end

section
/-! The phases of a job, and what leaves them unchanged: flushing the write combiner counts bytes and waits for the job, and what the
end of an instance frees (R98) concerns no phase. -/

namespace Sys2Proof.Machine

/-- The phases of a job, none when its id is FREE. -/
def State.phases? (s : State) (j : Nat) : Option (List Phase) := (s.job? j).map Job.phases

theorem State.phases?_eq_some {s : State} {j : Nat} {ps : List Phase} :
    s.phases? j = some ps ↔ ∃ x, s.job? j = some x ∧ x.phases = ps := Option.map_eq_some_iff

theorem State.phases?_of_job? {s : State} {j : Nat} {x : Job} (h : s.job? j = some x) : s.phases? j = some x.phases := by
  rw [State.phases?, h]; rfl

theorem State.job?_congr {s t : State} (h : t.jobs = s.jobs) (j : Nat) : t.job? j = s.job? j := by
  rw [State.job?, h]; rfl

theorem State.phases?_congr {s t : State} (h : t.jobs = s.jobs) (j : Nat) : t.phases? j = s.phases? j := by
  rw [State.phases?, State.job?_congr h]; rfl

/-- Changing what is no phase of a job leaves the phases of every job. -/
theorem State.phases?_onJob {f : Job → Job} (hf : ∀ x, (f x).phases = x.phases) (s : State) (j i : Nat) :
    (s.onJob j f).phases? i = s.phases? i := by
  unfold State.onJob
  split
  next x hx =>
    by_cases h : i = j
    · subst h
      rw [State.phases?_of_job? (State.job?_setJob_same ..), hf, State.phases?_of_job? hx]
    · simp only [State.phases?, State.job?, State.setJob, Table.find_put_ne _ _ _ _ h]
  · rfl

/-- Counting bytes and wakes (R79) is such a change. -/
@[simp] theorem State.phases?_onJob_count (s : State) (j r n w i : Nat) :
    (s.onJob j (fun x => x.count r n w)).phases? i = s.phases? i := State.phases?_onJob (f := (·.count r n w)) (fun _ => rfl) s j i

@[simp] theorem State.phases?_touchRoom (s : State) (job : Option Nat) (r n i : Nat) :
    (s.touchRoom job r n).phases? i = s.phases? i := by
  cases job with
  | none => exact State.phases?_congr (State.touchRoom_none_jobs ..) i
  | some j =>
    unfold State.touchRoom
    dsimp only
    rw [State.phases?_onJob_count]
    split <;> rfl

@[simp] theorem State.phases?_clearRegions (s : State) (job : Option Nat) (pa n i : Nat) :
    (s.clearRegions job pa n).phases? i = s.phases? i := by
  cases job with
  | none => exact State.phases?_congr (State.clearRegions_none_jobs ..) i
  | some j =>
    unfold State.clearRegions
    dsimp only
    generalize List.filter _ _ = rs
    split
    · rfl
    · rw [State.phases?_onJob_count]
      rfl

@[simp] theorem State.phases?_writeUnit (s : State) (e : WcEntry) (a i : Nat) : (s.writeUnit e a).phases? i = s.phases? i := by
  unfold State.writeUnit
  dsimp only
  split
  · split
    · exact State.phases?_touchRoom ..
    · rw [State.phases?_congr (State.hbmWrite_none_jobs ..)]; simp
  · rw [State.phases?_congr (State.floorDark_jobs ..)]; simp

@[simp] theorem State.phases?_flushEntry (s : State) (die : Nat) (e : WcEntry) (i : Nat) :
    (s.flushEntry die e).phases? i = s.phases? i := by
  unfold State.flushEntry
  dsimp only
  split
  · exact State.phases?_writeUnit ..
  · split
    · exact State.phases?_congr (foldl_keeps State.jobs (fun _ _ => State.hostWrite_jobs ..) _ _) i
    · rfl
  · rfl
  · split
    · rfl
    · exact State.phases?_congr (foldl_keeps State.jobs (fun _ _ => State.askFabric_jobs ..) _ _) i

@[simp] theorem State.phases?_flushWhere (s : State) (p : WcEntry → Bool) (i : Nat) : (s.flushWhere p).phases? i = s.phases? i :=
  foldl_keeps (State.phases? · i) (fun t die => foldl_keeps (State.phases? · i) (fun u e => State.phases?_flushEntry u die e i) _ t) _ s

/-- Freeing an instance's resources leaves the phases of every job. -/
@[simp] theorem State.phases?_freeInst (s : State) (j n i : Nat) : (s.freeInst j n).phases? i = s.phases? i := by
  unfold State.freeInst
  dsimp only
  rw [State.phases?_congr (State.releaseParts_jobs ..), State.phases?_congr (foldl_keeps State.jobs (fun _ _ => State.onCore_jobs ..) _ _),
    State.phases?_flushWhere]

end Sys2Proof.Machine
end

section
/-! The worst of a phase's statuses in the order of R99, and the two transitions that report an end. -/

namespace Sys2Proof.Machine

/-! ## The order of R99 -/

theorem statusRank_worst (a b : Nat) : statusRank (worst a b) = max (statusRank a) (statusRank b) := by
  unfold worst; split <;> omega

theorem worst_eq_or (a b : Nat) : worst a b = a ∨ worst a b = b := by
  unfold worst; split <;> simp

/-- The worst of a list of statuses is one of them, or the status that it began with. -/
theorem foldl_worst_mem (l : List Nat) (a : Nat) : l.foldl worst a ∈ a :: l := by
  induction l generalizing a with
  | nil => exact List.mem_cons_self
  | cons b l ih =>
    rcases List.mem_cons.1 (ih (worst a b)) with h | h
    · rw [List.foldl_cons, h]
      rcases worst_eq_or a b with e | e <;> simp [e]
    · exact List.mem_cons_of_mem _ (List.mem_cons_of_mem _ h)

/-- No status of a list ranks above the worst. -/
theorem statusRank_le_foldl_worst (l : List Nat) (a : Nat) : ∀ x ∈ a :: l, statusRank x ≤ statusRank (l.foldl worst a) := by
  induction l generalizing a with
  | nil => simp
  | cons b l ih =>
    intro x hx
    have hab : statusRank (worst a b) ≤ statusRank (l.foldl worst (worst a b)) := ih _ _ List.mem_cons_self
    rw [statusRank_worst] at hab
    rcases List.mem_cons.1 hx with rfl | hx
    · exact Nat.le_trans (Nat.le_max_left ..) hab
    · rcases List.mem_cons.1 hx with rfl | hx
      · exact Nat.le_trans (Nat.le_max_right ..) hab
      · exact ih _ x (List.mem_cons_of_mem _ hx)

/-- The four statuses have four ranks. -/
theorem statusRank_inj : ∀ a < 4, ∀ b < 4, statusRank a = statusRank b → a = b := by decide

/-- A status of a list that none ranks above is the worst. -/
theorem foldl_worst_eq {l : List Nat} {st : Nat} (hl : ∀ x ∈ 0 :: l, x < 4) (hst : st ∈ 0 :: l)
    (hmax : ∀ x ∈ 0 :: l, statusRank x ≤ statusRank st) : l.foldl worst 0 = st :=
  have hmem := foldl_worst_mem l 0
  statusRank_inj _ (hl _ hmem) _ (hl _ hst) (Nat.le_antisymm (hmax _ hmem) (statusRank_le_foldl_worst l 0 _ hst))

/-- The worst of a list of statuses is the first that it holds of CANCELLED, FAULT and POISONED, and DONE where it holds none. -/
theorem foldl_worst_first {l : List Nat} (hl : ∀ x ∈ l, x < 4) :
    (2 ∈ l → l.foldl worst 0 = 2)
    ∧ (2 ∉ l → 3 ∈ l → l.foldl worst 0 = 3)
    ∧ (2 ∉ l → 3 ∉ l → 1 ∈ l → l.foldl worst 0 = 1)
    ∧ (2 ∉ l → 3 ∉ l → 1 ∉ l → l.foldl worst 0 = 0) := by
  have h0 : ∀ x ∈ 0 :: l, x < 4 := List.forall_mem_cons.2 ⟨by decide, hl⟩
  have rank2 : ∀ x < 4, statusRank x ≤ statusRank 2 := by decide
  have rank3 : ∀ x < 4, x ≠ 2 → statusRank x ≤ statusRank 3 := by decide
  have rank1 : ∀ x < 4, x ≠ 2 → x ≠ 3 → statusRank x ≤ statusRank 1 := by decide
  have rank0 : ∀ x < 4, x ≠ 2 → x ≠ 3 → x ≠ 1 → statusRank x ≤ statusRank 0 := by decide
  have hne : ∀ {n}, n ∉ l → n ≠ 0 → ∀ x ∈ 0 :: l, x ≠ n := fun hn hn0 =>
    List.forall_mem_cons.2 ⟨hn0.symm, fun _ hx e => hn (e ▸ hx)⟩
  refine ⟨fun m2 => ?_, fun n2 m3 => ?_, fun n2 n3 m1 => ?_, fun n2 n3 n1 => ?_⟩
  · exact foldl_worst_eq h0 (List.mem_cons_of_mem _ m2) fun x hx => rank2 x (h0 x hx)
  · exact foldl_worst_eq h0 (List.mem_cons_of_mem _ m3) fun x hx => rank3 x (h0 x hx) (hne n2 (by decide) x hx)
  · exact foldl_worst_eq h0 (List.mem_cons_of_mem _ m1) fun x hx =>
      rank1 x (h0 x hx) (hne n2 (by decide) x hx) (hne n3 (by decide) x hx)
  · exact foldl_worst_eq h0 List.mem_cons_self fun x hx =>
      rank0 x (h0 x hx) (hne n2 (by decide) x hx) (hne n3 (by decide) x hx) (hne n1 (by decide) x hx)

/-! ## Ends -/

theorem State.job_of_job? {s : State} {j : Nat} {x : Job} (h : s.job? j = some x) : s.job j = x := by
  rw [State.job?] at h
  rw [State.job, Table.getD, h]

theorem State.job?_of_inst? {s : State} {j i : Nat} {v : Instance} (h : s.inst? j i = some v) : ∃ x, s.job? j = some x := by
  unfold State.inst? at h
  split at h
  next x hx => exact ⟨x, hx⟩
  · cases h

/-- An instance that reaches its end is reported with its status, which its phase takes. -/
theorem State.endInst_reports {s : State} {j i : Nat} {v : Instance} (st : Nat) (hv : s.inst? j i = some v) (hst : v.st ≠ .ended) :
    ∃ (u : State) (x : Job), s.endInst j i st = u.event 0x0001 j (natLe 4 (v.id i) ++ natLe 1 st ++ natLe 4 v.poison) ∧ u.job? j = some x
      ∧ x.phases = (s.job j).phases.map (fun p => if p.id = v.phase && !p.ended then { p with statuses := st :: p.statuses } else p) := by
  obtain ⟨x, hx⟩ := State.job?_of_inst? hv
  have hfree : (s.freeInst j i).phases? j = some (s.job j).phases := by
    rw [State.phases?_freeInst, State.phases?_of_job? hx, State.job_of_job? hx]
  obtain ⟨y, hy, hys⟩ := State.phases?_eq_some.1 hfree
  simp only [State.endInst, hv, beq_iff_eq, hst, if_false]
  exact ⟨_, _, rfl, (State.job?_onJob_same _ j _).trans (congrArg _ hy), by rw [← hys]⟩

/-- The front phase of a job, released and closed, whose instances have all ended, ends with the worst of their statuses. -/
theorem State.settleOnce_endsPhase {s : State} {j : Nat} {x : Job} {p : Phase} {rest : List Phase} (hx : s.job? j = some x)
    (hend : x.ended = false) (hst : x.st ≠ .preempting)
    (hwait : x.insts.find? (fun q => q.2.st == .waiting && q.2.preds.isEmpty) = none) (hopen : x.open_ = p :: rest)
    (hcan : p.cancelled = false) (hrel : p.released = true) (hclosed : p.closed = true) (hidle : x.phaseIdle p.id = true) :
    s.settleOnce j = some ((s.setJob j (x.onPhase p.id (fun q => { q with ended := true }))).event 0x0002 j
      (natLe 2 p.id ++ natLe 1 (p.statuses.foldl worst 0))) := by
  simp [State.settleOnce, hx, hend, hst, hwait, hopen, hcan, hrel, hclosed, hidle]

/-- The status of an instance is the first that applies, in the order of R99. -/
theorem Instance.endStatus_first (v : Instance) :
    (v.cancelled = true → v.endStatus = 2)
    ∧ (v.cancelled = false → v.faulted = true → v.endStatus = 3)
    ∧ (v.cancelled = false → v.faulted = false → v.poison ≠ 0 → v.endStatus = 1)
    ∧ (v.cancelled = false → v.faulted = false → v.poison = 0 → v.endStatus = 0) := by
  unfold Instance.endStatus
  refine ⟨fun hc => ?_, fun hc hf => ?_, fun hc hf hp => ?_, fun hc hf hp => ?_⟩
  · rw [if_pos hc]
  · simp [hc, hf]
  · simp [hc, hf, hp]
  · simp [hc, hf, hp]

/-- Settles O51: the statuses of an instance, of the phase that takes them, and of PHASE_END, which carries the worst of its
phase's list in the order of R99. -/
theorem endStatuses : Obligations.EndStatuses := by
  unfold Obligations.EndStatuses
  refine ⟨Instance.endStatus_first, ?_, ?_⟩
  · intro s j i st v hv hst
    obtain ⟨u, x, hu, hx, hphases⟩ := State.endInst_reports st hv hst
    refine ⟨u, x, hu, hx, fun p hp hid hend => ?_⟩
    rw [hphases]
    exact List.mem_map.2 ⟨p, hp, by simp [hid, hend]⟩
  · intro s j x p rest hx hend hst hwait hopen hcan hrel hclosed hidle hlt
    exact ⟨_, State.settleOnce_endsPhase hx hend hst hwait hopen hcan hrel hclosed hidle, foldl_worst_first hlt⟩

end Sys2Proof.Machine
end

section
/-! DIV and REM (R301): the quotient and the remainder by the divisor, and the two words that give them. -/

namespace Sys2Proof.Machine

/-! ## The zero divisor and any other -/

theorem intDiv_of_divisor_zero {ty : ScalarTy} {b : W64} (a : W64) (hb : ival ty b = 0) :
    intDiv ty a b = (iput ty (-1), flDZ) := if_pos hb

theorem intDiv_of_divisor_ne_zero {ty : ScalarTy} {b : W64} (a : W64) (hb : ival ty b ≠ 0) :
    intDiv ty a b = (iput ty (Int.tdiv (ival ty a) (ival ty b)), 0) := if_neg hb

theorem intRem_of_divisor_zero {ty : ScalarTy} {b : W64} (a : W64) (hb : ival ty b = 0) :
    intRem ty a b = (iput ty (ival ty a), flDZ) := if_pos hb

theorem intRem_of_divisor_ne_zero {ty : ScalarTy} {b : W64} (a : W64) (hb : ival ty b ≠ 0) :
    intRem ty a b = (iput ty (Int.tmod (ival ty a) (ival ty b)), 0) := if_neg hb

theorem intDiv_eq_ite (ty : ScalarTy) (a b : W64) : intDiv ty a b =
    if ival ty b = 0 then (iput ty (-1), flDZ) else (iput ty (Int.tdiv (ival ty a) (ival ty b)), 0) := by
  split
  next hb => exact intDiv_of_divisor_zero a hb
  next hb => exact intDiv_of_divisor_ne_zero a hb

theorem intRem_eq_ite (ty : ScalarTy) (a b : W64) : intRem ty a b =
    if ival ty b = 0 then (iput ty (ival ty a), flDZ) else (iput ty (Int.tmod (ival ty a) (ival ty b)), 0) := by
  split
  next hb => exact intRem_of_divisor_zero a hb
  next hb => exact intRem_of_divisor_ne_zero a hb

/-! ## The words -/

theorem div_gives_intDiv (w : RWord) : binaryGives (.div w) w (fun _ a b => intDiv w.ty a b) :=
  binary_gives fun _ => rfl

theorem rem_gives_intRem (w : RWord) : binaryGives (.rem w) w (fun _ a b => intRem w.ty a b) :=
  binary_gives fun _ => rfl

/-- Settles O2: each lane reads A and B as every word of two operands does, and the result it computes of them is by the
divisor, zero or not. -/
theorem division : Obligations.Division := by
  unfold Obligations.Division
  intro w
  have hdiv := div_gives_intDiv w
  have hrem := rem_gives_intRem w
  simp only [intDiv_eq_ite] at hdiv
  simp only [intRem_eq_ite] at hrem
  exact ⟨hdiv, hrem⟩

end Sys2Proof.Machine
end

section
/-! The decoder and the encoder agree (R251 to R263). The opcode map stands between them: it gives for a word's opcode and fields the
instruction that the decoder makes, and the instructions that it gives for an opcode have a form of that opcode. -/

namespace Sys2Proof

/-! ## The opcode map -/

/-- The instruction that the opcode map gives for an opcode and the fields of its format. -/
def Body.instr? (op : Nat) : Body → Option Instr
  | .r w => (rForms.lookup op).map (· w)
  | .m w => (mForms.lookup op).map (· w)
  | .t w => (tForms.lookup op).map (· w)
  | .s w => (sForms.lookup op).map (· w)
  | .i w => (iForms.lookup op).map (· w)

theorem mem_of_lookup {β : Type} {l : List (Nat × β)} {a : Nat} {b : β} (h : l.lookup a = some b) : (a, b) ∈ l := by
  obtain ⟨xs, ys, rfl, -⟩ := List.lookup_eq_some_iff.1 h
  simp

/-- No opcode of the other formats is one of the R format; none is MATCH's, and each has nine bits. -/
theorem rForms_opcodes : ∀ p ∈ rForms, p.1 < 512 ∧ p.1 ≠ 1 := by decide +kernel

theorem mForms_opcodes : ∀ p ∈ mForms, p.1 < 512 ∧ p.1 ≠ 1 ∧ (rForms.lookup p.1).isNone := by decide +kernel

theorem tForms_opcodes : ∀ p ∈ tForms, p.1 < 512 ∧ p.1 ≠ 1 ∧ (rForms.lookup p.1).isNone ∧ (mForms.lookup p.1).isNone := by
  decide +kernel

theorem sForms_opcodes : ∀ p ∈ sForms, p.1 < 512 ∧ p.1 ≠ 1 ∧ (rForms.lookup p.1).isNone ∧ (mForms.lookup p.1).isNone
    ∧ (tForms.lookup p.1).isNone := by decide +kernel

theorem iForms_opcodes : ∀ p ∈ iForms, p.1 < 512 ∧ p.1 ≠ 1 ∧ (rForms.lookup p.1).isNone ∧ (mForms.lookup p.1).isNone
    ∧ (tForms.lookup p.1).isNone ∧ (sForms.lookup p.1).isNone := by decide +kernel

/-- The word of a form decodes to the instruction that the opcode map gives for it. -/
theorem decode_of_instr? {i k : Instr} {op : Nat} {b : Body} {v : W64} (hf : i.form = some (op, b)) (he : encode i = some v)
    (hk : b.instr? op = some k) : decode v = .ok k := by
  cases b with
  | r w =>
    obtain ⟨mk, hmk, rfl⟩ := Option.map_eq_some_iff.1 hk
    obtain ⟨hop, h1⟩ := rForms_opcodes _ (mem_of_lookup hmk)
    exact decode_encode_r hf he hop h1 hmk
  | m w =>
    obtain ⟨mk, hmk, rfl⟩ := Option.map_eq_some_iff.1 hk
    obtain ⟨hop, h1, hr⟩ := mForms_opcodes _ (mem_of_lookup hmk)
    exact decode_encode_m hf he hop h1 (Option.isNone_iff_eq_none.1 hr) hmk
  | t w =>
    obtain ⟨mk, hmk, rfl⟩ := Option.map_eq_some_iff.1 hk
    obtain ⟨hop, h1, hr, hm⟩ := tForms_opcodes _ (mem_of_lookup hmk)
    exact decode_encode_t hf he hop h1 (Option.isNone_iff_eq_none.1 hr) (Option.isNone_iff_eq_none.1 hm) hmk
  | s w =>
    obtain ⟨mk, hmk, rfl⟩ := Option.map_eq_some_iff.1 hk
    obtain ⟨hop, h1, hr, hm, ht⟩ := sForms_opcodes _ (mem_of_lookup hmk)
    exact decode_encode_s hf he hop h1 (Option.isNone_iff_eq_none.1 hr) (Option.isNone_iff_eq_none.1 hm)
      (Option.isNone_iff_eq_none.1 ht) hmk
  | i w =>
    obtain ⟨mk, hmk, rfl⟩ := Option.map_eq_some_iff.1 hk
    obtain ⟨hop, h1, hr, hm, ht, hs⟩ := iForms_opcodes _ (mem_of_lookup hmk)
    exact decode_encode_i hf he hop h1 (Option.isNone_iff_eq_none.1 hr) (Option.isNone_iff_eq_none.1 hm)
      (Option.isNone_iff_eq_none.1 ht) (Option.isNone_iff_eq_none.1 hs) hmk

/-! ## Forms that share an opcode -/

theorem isWellFormed_iff {fsize : Nat} {i : Instr} : isWellFormed fsize i = true ↔ wellFormed fsize i = .ok () := by
  unfold isWellFormed
  cases wellFormed fsize i <;> simp

theorem need_ok {e : WfError} {ok : Bool} {u : Unit} (h : need e ok = .ok u) : ok = true := by
  unfold need at h
  cases ok
  · cases h
  · rfl

theorem wfR_modifier {fsize : Nat} {w : RWord} {d a b c : Role} {ty : TySet} {mk : ModKind}
    (h : wfR fsize w d a b c ty mk = .ok ()) : mk.has w.mod w.c = true := by
  obtain ⟨_, -, h⟩ := bind_ok h
  obtain ⟨_, hm, -⟩ := bind_ok h
  exact need_ok hm

theorem wfM_formFlag {fsize : Nat} {w : MWord} {a b d : Role} {flagOk : Bool} (h : wfM fsize w a b d flagOk = .ok ()) :
    flagOk = true := by
  obtain ⟨_, -, h⟩ := bind_ok h
  obtain ⟨_, -, h⟩ := bind_ok h
  obtain ⟨_, -, h⟩ := bind_ok h
  obtain ⟨_, hm, -⟩ := bind_ok h
  exact need_ok hm

/-- The modifier of a well-formed word, where its kind holds one value. -/
theorem wfR_mod_eq {fsize : Nat} {w : RWord} {d a b c : Role} {ty : TySet} {mk : ModKind} {n : Nat}
    (h : wfR fsize w d a b c ty mk = .ok ()) (hk : ∀ m x, mk.has m x = (m.toNat == n)) (hn : n < 256) : w.mod = BitVec.ofNat 8 n := by
  have := wfR_modifier h
  rw [hk, beq_iff_eq] at this
  apply BitVec.eq_of_toNat_eq
  simp [this, Nat.mod_eq_of_lt hn]

/-- The opcode map gives back a well-formed instruction from its form. -/
theorem instr?_of_form {fsize : Nat} {i : Instr} {op : Nat} {b : Body} (hw : isWellFormed fsize i = true)
    (hf : i.form = some (op, b)) : b.instr? op = some i := by
  have hw := isWellFormed_iff.1 hw
  cases i with
  | perfGet w =>
    have hm := wfR_mod_eq (n := 0) hw (fun _ _ => rfl) (by decide)
    cases hf
    show some (perfForm w) = _
    simp [perfForm, hm]
  | perfSet w =>
    have hm := wfR_mod_eq (n := 1) hw (fun _ _ => rfl) (by decide)
    cases hf
    show some (perfForm w) = _
    simp [perfForm, hm]
  | flagsGet w =>
    have hm := wfR_mod_eq (n := 0) hw (fun _ _ => rfl) (by decide)
    cases hf
    show some (flagsForm w) = _
    simp [flagsForm, hm]
  | flagsSet w =>
    have hm := wfR_mod_eq (n := 1) hw (fun _ _ => rfl) (by decide)
    cases hf
    show some (flagsForm w) = _
    simp [flagsForm, hm]
  | flagsJoin w =>
    have hm := wfR_mod_eq (n := 2) hw (fun _ _ => rfl) (by decide)
    cases hf
    show some (flagsForm w) = _
    simp [flagsForm, hm]
  | rcloseSel w =>
    have hm := eq_of_beq (wfM_formFlag hw)
    cases hf
    show some (rcloseForm w) = _
    simp [rcloseForm, hm]
  | rcloseFin w =>
    have hm := eq_of_beq (wfM_formFlag hw)
    cases hf
    show some (rcloseForm w) = _
    simp [rcloseForm, hm]
  | _ => cases hf <;> rfl

/-- Settles O58: the decoder makes of a word what the opcode map gives for its form, which is the instruction itself. -/
theorem decodeEncode : Obligations.DecodeEncode := by
  unfold Obligations.DecodeEncode
  intro fsize i w hw he
  obtain ⟨⟨op, b⟩, hf, -⟩ := Option.map_eq_some_iff.1 he
  have hd : decode w = .ok i := decode_of_instr? hf he (instr?_of_form hw hf)
  refine ⟨hd, ?_⟩
  have hw8 : BitVec.ofNat 64 (leNat (natLe 8 w.toNat)) = w := by
    rw [leNat_natLe]
    exact BitVec.eq_of_toNat_eq (by simpa using w.isLt)
  simp [decodeBytes, hw8, hd]

/-! ## What a word decodes to -/

theorem perfForm_form (w : RWord) : (perfForm w).form = some (0x1F6, .r w) := by
  unfold perfForm; split <;> rfl

theorem flagsForm_form (w : RWord) : (flagsForm w).form = some (0x1F7, .r w) := by
  unfold flagsForm; split
  · rfl
  · split <;> rfl

theorem rcloseForm_form (w : MWord) : (rcloseForm w).form = some (0x1E3, .m w) := by
  unfold rcloseForm; split <;> rfl

/-- Every entry of the opcode map makes an instruction of the entry's opcode. -/
theorem rForms_form : ∀ p ∈ rForms, ∀ w, (p.2 w).form = some (p.1, .r w) := by
  refine List.forall_mem_append.2 ⟨List.forall_mem_append.2 ⟨?first, ?second⟩, ?third⟩
  case third =>
    repeat' refine List.forall_mem_cons.2 ⟨?_, ?_⟩
    any_goals exact perfForm_form
    any_goals exact flagsForm_form
    any_goals exact List.forall_mem_nil _
    all_goals exact fun _ => rfl
  all_goals
    repeat' refine List.forall_mem_cons.2 ⟨?_, ?_⟩
    any_goals exact List.forall_mem_nil _
    all_goals exact fun _ => rfl

theorem mForms_form : ∀ p ∈ mForms, ∀ w, (p.2 w).form = some (p.1, .m w) := by
  refine List.forall_mem_append.2 ⟨?first, ?second⟩
  case first =>
    repeat' refine List.forall_mem_cons.2 ⟨?_, ?_⟩
    any_goals exact rcloseForm_form
    any_goals exact List.forall_mem_nil _
    all_goals exact fun _ => rfl
  case second =>
    repeat' refine List.forall_mem_cons.2 ⟨?_, ?_⟩
    any_goals exact List.forall_mem_nil _
    all_goals exact fun _ => rfl

theorem tForms_form : ∀ p ∈ tForms, ∀ w, (p.2 w).form = some (p.1, .t w) := by
  refine List.forall_mem_append.2 ⟨?_, ?_⟩
  all_goals
    repeat' refine List.forall_mem_cons.2 ⟨?_, ?_⟩
    any_goals exact List.forall_mem_nil _
    all_goals exact fun _ => rfl

theorem sForms_form : ∀ p ∈ sForms, ∀ w, (p.2 w).form = some (p.1, .s w) := by
  repeat' refine List.forall_mem_cons.2 ⟨?_, ?_⟩
  any_goals exact List.forall_mem_nil _
  all_goals exact fun _ => rfl

theorem iForms_form : ∀ p ∈ iForms, ∀ w, (p.2 w).form = some (p.1, .i w) := by
  repeat' refine List.forall_mem_cons.2 ⟨?_, ?_⟩
  any_goals exact List.forall_mem_nil _
  all_goals exact fun _ => rfl

/-- An opcode that stands in a format's map has its fields read in that format. -/
theorem readForm_some {α : Type} {forms : List (Nat × (α → Instr))} {read : Nat → Except DecodeError α} {op n : Nat}
    {x : Except DecodeError Instr} {i : Instr} (h : readForm forms read op n = some x) (hx : x = .ok i) :
    ∃ mk w, (op, mk) ∈ forms ∧ read n = .ok w ∧ mk w = i := by
  unfold readForm at h
  split at h
  next mk hmk =>
    cases h
    cases hr : read n with
    | error e => rw [hr] at hx; cases hx
    | ok w => rw [hr] at hx; cases hx; exact ⟨mk, w, mem_of_lookup hmk, rfl, rfl⟩
  · cases h

theorem encode_of_form {i : Instr} {op : Nat} {b : Body} {w : W64} (hf : i.form = some (op, b)) (hb : b.write op = w.toNat) :
    encode i = some w := by
  simp [encode, hf, hb]

/-- Settles O59: the opcode and the fields that the decoder reads are those of the instruction's form, and writing them gives the
word again. -/
theorem encodeDecode : Obligations.EncodeDecode := by
  unfold Obligations.EncodeDecode
  intro w i hd
  have hn : w.toNat < 2 ^ 64 := w.isLt
  simp only [decode] at hd
  split at hd
  · cases hd
  · unfold decodeForm at hd
    split at hd
    next x hx =>
      obtain ⟨mk, v, hmem, hr, rfl⟩ := readForm_some hx hd
      exact encode_of_form (rForms_form _ hmem v) (writeR_readR hn hr)
    · split at hd
      next x hx =>
        obtain ⟨mk, v, hmem, hr, rfl⟩ := readForm_some hx hd
        exact encode_of_form (mForms_form _ hmem v) (writeM_readM hn hr)
      · split at hd
        next x hx =>
          obtain ⟨mk, v, hmem, hr, rfl⟩ := readForm_some hx hd
          exact encode_of_form (tForms_form _ hmem v) (writeT_readT hn hr)
        · split at hd
          next x hx =>
            obtain ⟨mk, v, hmem, hr, rfl⟩ := readForm_some hx hd
            exact encode_of_form (sForms_form _ hmem v) (writeS_readS hn hr)
          · split at hd
            next x hx =>
              obtain ⟨mk, v, hmem, hr, rfl⟩ := readForm_some hx hd
              exact encode_of_form (iForms_form _ hmem v) (writeI_readI hn hr)
            · cases hd

/-- Settles O60: the decoder evaluated on each word. -/
theorem decodeWords : Obligations.DecodeWords := by
  unfold Obligations.DecodeWords
  exact ⟨rfl, rfl, rfl, rfl, rfl, rfl, rfl, rfl⟩

end Sys2Proof
end

section
/-! What a word does whose lanes read one or two operands and then go on, as it may trap or not: the shapes of the words that
the laws of R253 and R254 do not cover. -/

namespace Sys2Proof.Machine

/-- What the lanes of a word become, seen as less. -/
theorem wordGives.imp {i : Instr} {h : Hdr} {s : State} {c j g : Nat} {x : Group} {R Q : Firing → Firing → Prop}
    (hw : wordGives i h s c j g x R) (hq : everyLane s c x h (fun l => ∀ l', R l l' → Q l l')) : wordGives i h s c j g x Q := by
  obtain ⟨ls, he, hl, hb⟩ := hw
  refine ⟨ls, he, hl, fun n l l' h1 h2 => ?_⟩
  have hb := hb n l l' h1 h2
  unfold laneBecomes at hb ⊢
  split at hb
  · next hd => rw [if_pos hd]; exact hb
  · next hd =>
    rw [if_neg hd]
    split at hb
    · next hk => rw [if_pos hk]; exact hb
    · next hk =>
      rw [if_neg hk]
      split at hb
      · next hx =>
        rw [if_pos hx]
        obtain ⟨l1, seen, hr, hl'⟩ := hb
        have hrun : l.running = true := by
          simp only [Bool.or_eq_true, not_or, Bool.not_eq_true] at hd hk
          simp [Firing.running, hd, hk]
        exact ⟨l1, seen, hq l (List.mem_of_getElem? h1) hrun hx l1 hr, hl'⟩
      · next hx => rw [if_neg hx]; exact hb

/-- Two things that every lane of a word satisfies. -/
theorem everyLane.and {s : State} {c : Nat} {x : Group} {h : Hdr} {P Q : Firing → Prop} (hp : everyLane s c x h P)
    (hq : everyLane s c x h Q) : everyLane s c x h (fun l => P l ∧ Q l) := fun l h1 h2 h3 => ⟨hp l h1 h2 h3, hq l h1 h2 h3⟩

section
variable {i : Instr} {s : State} {c j g : Nat} {x : Group} {b : Body}

/-- A word whose lane function completes as `R` says in every lane that runs. -/
theorem gives_of_lanes {F : State → Nat → Firing → Except Trap Firing} {R : Firing → Firing → Prop} (hs : s.Issues c j g x)
    (hi : ∀ s, exec i s = word b (lane F) s) (hF : ∀ s c gs p n l, F (s.same c gs p n) c l = F s c l)
    (hR : everyLane s c x b.hdr (fun l => ∃ l', F s c l = .ok l' ∧ R l l')) : wordGives i b.hdr s c j g x R := by
  have h := word_gives_blind (R := fun l l' => F s c l = .ok l') hs (hi s) (fun gs p n l => hF s c gs p n l)
    (everyLane.imp hR fun l ⟨l', h, _⟩ => ⟨l', h⟩) (fun _ _ h => h)
  refine h.imp (everyLane.imp hR fun l ⟨l', h, hr⟩ l1 h1 => ?_)
  rw [h, Except.ok.injEq] at h1
  exact h1 ▸ hr

/-- A word whose lanes read one operand and go on with its value. -/
theorem gives_of_read {sp : Spec} {k : State → Nat → W64 → Firing → Except Trap Firing} {R : W64 → Firing → Firing → Prop}
    (hs : s.Issues c j g x)
    (hi : ∀ s, exec i s = word b (lane fun s c l => do let (a, l1) ← l.read s c sp; k s c a l1) s)
    (hk : ∀ s c gs p n a l, k (s.same c gs p n) c a l = k s c a l)
    (hR : everyLane s c x b.hdr (fun l => l.reaches sp ∧
      ∀ a l1, l.read s c sp = .ok (a, l1) → ∃ l', k s c a l1 = .ok l' ∧ R a l1 l')) :
    wordGives i b.hdr s c j g x (fun l l' => ∃ a l1, l.read s c sp = .ok (a, l1) ∧ R a l1 l') := by
  refine gives_of_lanes hs hi (fun s c gs p n l => by simp [hk]) (everyLane.imp hR fun l ⟨hr, h⟩ => ?_)
  obtain ⟨a, q, ha⟩ := Firing.read_ok l s c sp hr
  obtain ⟨l', hl', hR'⟩ := h a _ ha
  exact ⟨l', by simp only [ha, bind, Except.bind, hl'], a, _, ha, hR'⟩

/-- A word whose lanes read two operands and go on with their values. -/
theorem gives_of_readsTwo {sp sq : Spec} {k : State → Nat → W64 → W64 → Firing → Except Trap Firing}
    {R : W64 → W64 → Firing → Firing → Prop} (hs : s.Issues c j g x)
    (hi : ∀ s, exec i s = word b (lane fun s c l => do
      let (a, l1) ← l.read s c sp
      let (e, l2) ← l1.read s c sq
      k s c a e l2) s)
    (hk : ∀ s c gs p n a e l, k (s.same c gs p n) c a e l = k s c a e l)
    (hR : everyLane s c x b.hdr (fun l => l.reaches sp ∧ l.reaches sq ∧
      ∀ a e l2, readsTwo s c sp sq l a e l2 → ∃ l', k s c a e l2 = .ok l' ∧ R a e l2 l')) :
    wordGives i b.hdr s c j g x (fun l l' => ∃ a e l2, readsTwo s c sp sq l a e l2 ∧ R a e l2 l') := by
  refine gives_of_lanes hs hi (fun s c gs p n l => by simp [hk]) (everyLane.imp hR fun l ⟨hp, hq, h⟩ => ?_)
  obtain ⟨a, e, l2, h2⟩ := readsTwo_ok' (s := s) (c := c) hp hq
  obtain ⟨l', hl', hR'⟩ := h a e l2 h2
  exact ⟨l', by rw [bind_readsTwo h2 (k s c), hl'], a, e, l2, h2, hR'⟩

/-- A word that traps in the one lane that runs it. -/
theorem traps_of {f : LaneFn} {l : Firing} {t : Trap} (ha : s.Alone c j g x b.hdr l) (hi : exec i s = word b f s)
    (ht : f (s.counted c j) c (l.atWord (s.core c) x) = .error t) : trapsAlone i b s c j g x l t := by
  obtain ⟨hl, hw⟩ := issueWord_one (b := b) (f := f) ha.issues ha.lanes
  rw [trapsAlone, hi]
  show Host.Outcome.next (issueWord b f s) = _
  rw [hw, runLane_trap (bad := (s.core c).badWords.contains (x.block, x.pc)) hl ha.running ha.runs ht]
  rfl

/-- A word whose lane function traps in the one lane that runs it. -/
theorem traps_of_lane {F : State → Nat → Firing → Except Trap Firing} {l : Firing} {t : Trap} (ha : s.Alone c j g x b.hdr l)
    (hi : ∀ s, exec i s = word b (lane F) s) (hF : ∀ s c gs p n l, F (s.same c gs p n) c l = F s c l)
    (ht : F s c (l.atWord (s.core c) x) = .error t) : trapsAlone i b s c j g x l t :=
  traps_of ha (hi s) (by rw [lane, State.counted_same, hF, ht]; rfl)

end

theorem readsTwo_reaches {s : State} {c : Nat} {sp sq sr : Spec} {l l2 : Firing} {a e : W64} (h : readsTwo s c sp sq l a e l2)
    (hr : l.reaches sr) : l2.reaches sr := by
  obtain ⟨l1, h1, h2⟩ := h
  exact (Firing.reaches_of_frameless ((Firing.read_frameless h2).trans (Firing.read_frameless h1)) sr).2 hr

theorem Firing.read_reaches {s : State} {c : Nat} {sp sr : Spec} {l l1 : Firing} {a : W64} (h : l.read s c sp = .ok (a, l1))
    (hr : l.reaches sr) : l1.reaches sr := (Firing.reaches_of_frameless (Firing.read_frameless h) sr).2 hr

theorem Firing.result_quietly (l : Firing) (d : Spec) (v : W64) : l.result d (quietly v) = l.writeD d v := by
  simp [Firing.result, quietly, Firing.raise, flNone]

end Sys2Proof.Machine
end

section
/-! The integer, bit and float words complete with their results (R299 to R321). -/

namespace Sys2Proof.Machine

/-- Settles O1: each word is of a shape whose lanes read their operands and put the result in D. -/
theorem integerArithmetic : Obligations.IntegerArithmetic := by
  unfold Obligations.IntegerArithmetic
  intro w
  refine ⟨?add, ?sub, ?mul, ?mulh, ?mad, ?neg, ?abs, ?min, ?max⟩
  case mad => exact ternary_gives fun _ => rfl
  case neg => exact unary_gives' fun _ => rfl
  case abs => exact unary_gives' fun _ => rfl
  all_goals exact binary_gives fun _ => rfl

/-- Settles O3: likewise, over the low n bits of the operands. -/
theorem bitForms : Obligations.BitForms := by
  unfold Obligations.BitForms
  constructor
  · intro w
    refine ⟨?and, ?or, ?xor, ?not, ?andn, ?shl, ?shr, ?sar, ?rol, ?ror, ?clz, ?ctz, ?popc, ?brev⟩
    case not => exact unary_gives' fun _ => rfl
    case clz => exact unary_gives' fun _ => rfl
    case ctz => exact unary_gives' fun _ => rfl
    case popc => exact unary_gives' fun _ => rfl
    case brev => exact unary_gives' fun _ => rfl
    all_goals exact binary_gives fun _ => rfl
  · intro w
    refine ⟨?bfx, ?bfi, ?bilv, ?bdlv⟩
    case bfx => exact binary_gives fun _ => rfl
    case bdlv => exact unary_gives' fun _ => rfl
    all_goals exact ternary_gives fun _ => rfl

/-- LEA's sum where it is an address (R306). -/
theorem effectiveAddr_ok {k : Nat} {a b : W64} (h0 : 0 ≤ (addrOf a : Int) + b.toInt * ((2 ^ k : Nat) : Int))
    (h1 : (addrOf a : Int) + b.toInt * ((2 ^ k : Nat) : Int) < 2 ^ 55) :
    effectiveAddr k a b = .ok (quietly (BitVec.ofInt 64 ((addrOf a : Int) + b.toInt * ((2 ^ k : Nat) : Int)))) := by
  unfold effectiveAddr
  rw [sext_toInt]
  generalize (addrOf a : Int) + b.toInt * ((2 ^ k : Nat) : Int) = z at h0 h1 ⊢
  simp only [Bool.or_eq_true, decide_eq_true_eq]
  rw [if_neg (by omega)]

theorem lea_gives (w : RWord) (s : State) (c j g : Nat) (x : Group) (hs : s.Issues c j g x)
    (hr : everyLane s c x w.hdr (fun l => l.reaches w.a ∧ l.reaches w.b ∧ l.reaches w.d ∧
      ∀ a b l2, readsTwo s c w.a w.b l a b l2 →
        0 ≤ (addrOf a : Int) + b.toInt * ((2 ^ (w.mod.toNat % 8) : Nat) : Int)
        ∧ (addrOf a : Int) + b.toInt * ((2 ^ (w.mod.toNat % 8) : Nat) : Int) < 2 ^ 55)) :
    wordGives (.lea w) w.hdr s c j g x (fun l l' => ∃ a b l2, readsTwo s c w.a w.b l a b l2
      ∧ l2.writeD w.d (BitVec.ofInt 64 ((addrOf a : Int) + b.toInt * ((2 ^ (w.mod.toNat % 8) : Nat) : Int))) = .ok l') := by
  refine gives_of_readsTwo (b := .r w)
    (k := fun _ _ a e l2 => do let r ← effectiveAddr (bits w.mod.toNat 0 3) a e; l2.result w.d r)
    hs (fun _ => rfl) (fun _ _ _ _ _ _ _ _ => rfl) (everyLane.imp hr fun l ⟨ha, hb, hd, h⟩ => ⟨ha, hb, fun a e l2 h2 => ?_⟩)
  obtain ⟨h0, h1⟩ := h a e l2 h2
  have hm : bits w.mod.toNat 0 3 = w.mod.toNat % 8 := by simp [bits]
  obtain ⟨l', hl'⟩ := Firing.writeD_ok l2 w.d (BitVec.ofInt 64 ((addrOf a : Int) + e.toInt * ((2 ^ (w.mod.toNat % 8) : Nat) : Int)))
    (readsTwo_reaches h2 hd)
  refine ⟨l', ?_, hl'⟩
  simp only [hm, effectiveAddr_ok h0 h1, bind, Except.bind, Firing.result_quietly, hl']

/-- Settles O5: CMP, SEL, MOV and EXT are of the shapes of R253 and R254; MOVI reads nothing, MOVH and LEA read and may go on. -/
theorem comparesAndMoves : Obligations.ComparesAndMoves := by
  unfold Obligations.ComparesAndMoves
  refine ⟨⟨fun w => ⟨compares_gives fun _ => rfl, ternary_gives fun _ => rfl, unary_gives' fun _ => rfl, unary_gives' fun _ => rfl⟩,
    fun w s c j g x hs hr => ⟨?movi, ?movh⟩⟩, lea_gives⟩
  case movi =>
    refine gives_of_lanes (b := .i w) (F := fun _ _ l => l.writeD w.d (BitVec.ofInt 64 (sext 32 w.imm.toNat))) hs (fun _ => rfl) (fun _ _ _ _ _ _ => rfl) (everyLane.imp hr fun l ⟨_, hd⟩ => ?_)
    obtain ⟨l', hl'⟩ := Firing.writeD_ok l w.d (BitVec.ofInt 64 w.imm.toInt) hd
    exact ⟨l', by rw [sext_toInt, hl'], hl'⟩
  case movh =>
    refine gives_of_read (b := .i w)
      (k := fun _ _ a l1 => l1.writeD w.d (BitVec.ofNat 64 (w.imm.toNat * 2 ^ 32 + bits a.toNat 0 32)))
      hs (fun _ => rfl) (fun _ _ _ _ _ _ _ => rfl)
      (everyLane.imp hr fun l ⟨ha, hd⟩ => ⟨ha, fun a l1 h1 => ?_⟩)
    obtain ⟨l', hl'⟩ := Firing.writeD_ok l1 w.d (BitVec.ofNat 64 (w.imm.toNat * 2 ^ 32 + a.toNat % 2 ^ 32))
      (Firing.read_reaches h1 hd)
    exact ⟨l', by rw [bits_eq, Nat.pow_zero, Nat.div_one, hl'], hl'⟩

/-- Settles O6: each word is of the shape of two or three operands, the last of them the seed. -/
theorem floatArithmetic : Obligations.FloatArithmetic := by
  unfold Obligations.FloatArithmetic
  intro w
  refine ⟨?fadd, ?fsub, ?fmul, ?ffma, ?fdiv, ?fsqrt, ?frcp, ?frsq, ?frnd, ?fscl⟩
  case fsqrt => exact binary_gives fun _ => rfl
  case frcp => exact binary_gives fun _ => rfl
  case frsq => exact binary_gives fun _ => rfl
  case frnd => exact binary_gives fun _ => rfl
  all_goals exact ternary_gives fun _ => rfl

/-- Settles O7: each word is of the shape of a comparison, or of one or two operands. -/
theorem floatForms : Obligations.FloatForms := by
  unfold Obligations.FloatForms
  intro w
  refine ⟨?fmin, ?fmax, ?fminn, ?fmaxn, ?fabs, ?fneg, ?fcps, ?fcmp, ?fcls, ?fxtr⟩
  case fabs => exact unary_gives' fun _ => rfl
  case fneg => exact unary_gives' fun _ => rfl
  case fcls => exact unary_gives' fun _ => rfl
  case fxtr => exact unary_gives' fun _ => rfl
  case fcmp => exact compares_gives fun _ => rfl
  all_goals exact binary_gives fun _ => rfl

/-- CVT of an unsigned word into an address (R315). -/
theorem cvtScalar_addr {u : ScalarTy} (hu : u = .b64 ∨ u = .z64) (a : W64) (mode : RMode) (sat : Bool) (h : Nat) :
    cvtScalar .addr u a mode sat h = if a.toNat / 2 ^ 55 = 0 then some (a, flNone) else none := by
  have ha : bits a.toNat 55 9 = a.toNat / 2 ^ 55 := by
    have := a.isLt
    rw [bits_eq]; omega
  rcases hu with rfl | rfl <;> simp [cvtScalar, cvtDefined, ScalarTy.float, ha]

theorem convert_addr {w : RWord} (hty : w.ty = .addr) (hty2 : w.ty2 = .b64 ∨ w.ty2 = .z64) (l : Firing) (a seed : W64) :
    convert w l a seed = if a.toNat / 2 ^ 55 = 0 then .ok (quietly a) else .error .type := by
  unfold convert
  rw [hty, cvtScalar_addr hty2]
  by_cases h : a.toNat / 2 ^ 55 = 0
  · rw [if_pos h, if_pos h]; rfl
  · rw [if_neg h, if_neg h]

/-- Settles O8: CVT completes where the conversion of its pair is defined, CVT into ADDR as the value is an address or not, and
the evaluations read their kernel slot. -/
theorem convertAndEvaluate : Obligations.ConvertAndEvaluate := by
  unfold Obligations.ConvertAndEvaluate
  refine ⟨fun w hw => ?_, fun w hty hty2 s c j g x => ⟨fun hs hr => ?_, fun l a b l2 ha h2 hne => ?_⟩, fun w => ?_, fun w => ?_⟩
  · have he : ∀ l a seed, convert w l a seed
        = .ok ((cvtScalar w.ty w.ty2 a (modeOf w) (bitAt w.mod.toNat 3) (seedDraw l seed)).getD (0, 0)) := fun l a seed => by
      obtain ⟨r, hr⟩ := Option.isSome_iff_exists.1 (hw a (modeOf w) (bitAt w.mod.toNat 3) (seedDraw l seed))
      simp [convert, hr]
    refine binary_gives fun s => ?_
    simp only [← he]
    rfl
  · refine gives_of_readsTwo (b := .r w) (k := fun _ _ a e l2 => do let r ← convert w l2 a e; l2.result w.d r)
      hs (fun _ => rfl) (fun _ _ _ _ _ _ _ _ => rfl) (everyLane.imp hr fun l ⟨ha, hb, hd, h⟩ => ⟨ha, hb, fun a e l2 h2 => ?_⟩)
    obtain ⟨l1, h1, -⟩ := id h2
    obtain ⟨l', hl'⟩ := Firing.writeD_ok l2 w.d a (readsTwo_reaches h2 hd)
    refine ⟨l', ?_, hl'⟩
    simp only [convert_addr hty hty2, h a l1 h1, if_true, bind, Except.bind, Firing.result_quietly, hl']
  · refine traps_of_lane (F := fun s c l => do
      let (a, l1) ← l.read s c w.a
      let (e, l2) ← l1.read s c w.b
      let r ← convert w l2 a e
      l2.result w.d r) (b := .r w) ha (fun _ => rfl) (fun s c gs p n l => by simp) ?_
    rw [bind_readsTwo h2 (fun a e l2 => do let r ← convert w l2 a e; l2.result w.d r), convert_addr hty hty2, if_neg hne]
    rfl
  · exact unary_gives (fun _ => rfl) (fun _ _ _ _ _ _ _ => by simp [evalPwl, Core.kernel])
  · exact unary_gives (fun _ => rfl) (fun _ _ _ _ _ _ _ => by simp [evalLut, Core.evalTable, Core.kernel])

end Sys2Proof.Machine
end

section
/-! BFX and BFI bit by bit (R302): the bits of what `iput` makes of an integer, and of a number in which a field is replaced. -/

namespace Sys2Proof

theorem ScalarTy.width_pos (ty : ScalarTy) : 0 < ty.width := by cases ty <;> decide

theorem ScalarTy.width_le (ty : ScalarTy) : ty.width ≤ 64 := by cases ty <;> decide

end Sys2Proof

namespace Sys2Proof.Machine

theorem bitAt_toNat {n : Nat} (x : BitVec n) (i : Nat) : bitAt x.toNat i = x.getLsbD i := rfl

theorem wrapInt_eq (n : Nat) (v : Int) : wrapInt n v = (BitVec.ofInt n v).toNat := by
  rw [wrapInt, BitVec.toNat_ofInt]

theorem iput_signed {ty : ScalarTy} (h : ty.signed = true) (v : Int) : iput ty v = (BitVec.ofInt ty.width v).signExtend 64 := by
  rw [iput, if_pos h, wrapInt_eq, sext_toInt]
  rfl

theorem iput_unsigned {ty : ScalarTy} (h : ty.signed = false) (v : Int) : iput ty v = (BitVec.ofInt ty.width v).setWidth 64 := by
  rw [iput, h, if_neg Bool.false_ne_true, wrapInt_eq]
  exact BitVec.ofNat_toNat ..

/-- The bits of an integer as a type holds it: its low n, and above them its sign for a signed type. -/
theorem getLsbD_iput (ty : ScalarTy) (v : Int) {i : Nat} (hi : i < 64) :
    (iput ty v).getLsbD i = if i < ty.width then (BitVec.ofInt ty.width v).getLsbD i
      else ty.signed && (BitVec.ofInt ty.width v).getLsbD (ty.width - 1) := by
  cases h : ty.signed
  · rw [iput_unsigned h, BitVec.getLsbD_setWidth]
    split
    · simp [hi]
    next hw => simp [BitVec.getLsbD_of_ge _ _ (Nat.le_of_not_lt hw)]
  · rw [iput_signed h, BitVec.getLsbD_signExtend, BitVec.msb_eq_getLsbD_last]
    simp [hi]

/-- The bits of a field. -/
theorem testBit_bits (x lo w i : Nat) : (bits x lo w).testBit i = (decide (i < w) && x.testBit (lo + i)) := by
  rw [bits, Nat.testBit_mod_two_pow, Nat.testBit_shiftRight]

/-- A field replaced by another of its width. -/
theorem testBit_replace_field (x p k y : Nat) (hy : y < 2 ^ k) (i : Nat) :
    (x - bits x p k * 2 ^ p + y * 2 ^ p).testBit i = if p ≤ i ∧ i < p + k then y.testBit (i - p) else x.testBit i := by
  have hsplit : x = 2 ^ p * (2 ^ k * (x / 2 ^ p / 2 ^ k) + bits x p k) + x % 2 ^ p := by
    rw [bits_eq, Nat.div_add_mod, Nat.div_add_mod]
  have hlo : x % 2 ^ p < 2 ^ p := Nat.mod_lt _ (Nat.two_pow_pos p)
  have hf : bits x p k < 2 ^ k := bits_lt x p k
  generalize bits x p k = f at hsplit hf ⊢
  generalize x / 2 ^ p / 2 ^ k = hi at hsplit
  generalize x % 2 ^ p = lo at hsplit hlo
  have hnew : x - f * 2 ^ p + y * 2 ^ p = 2 ^ p * (2 ^ k * hi + y) + lo := by
    rw [hsplit, Nat.mul_add, Nat.mul_add, Nat.mul_comm f, Nat.mul_comm y]
    omega
  rw [hnew, hsplit, Nat.testBit_two_pow_mul_add _ hlo, Nat.testBit_two_pow_mul_add _ hlo, Nat.testBit_two_pow_mul_add _ hy,
    Nat.testBit_two_pow_mul_add _ hf]
  by_cases h1 : i < p
  · rw [if_pos h1, if_pos h1, if_neg (by omega)]
  · rw [if_neg h1, if_neg h1]
    by_cases h2 : i - p < k
    · rw [if_pos h2, if_pos (by omega)]
    · rw [if_neg h2, if_neg h2, if_neg (by omega)]

theorem testBit_ubits (ty : ScalarTy) (a : W64) (i : Nat) : (ubits ty a).testBit i = (decide (i < ty.width) && a.getLsbD i) := by
  rw [ubits, testBit_bits, Nat.zero_add]
  rfl

/-- The field of BFX and BFI is empty. -/
theorem field_empty {n p l : Nat} : (decide (n ≤ p) || l == 0) = true ↔ min l (n - p) = 0 := by
  simp only [Bool.or_eq_true, decide_eq_true_eq, beq_iff_eq]
  omega

/-- The bits of the field of A that BFX extracts. -/
theorem testBit_field {ty : ScalarTy} (a : W64) {p l i : Nat} (hi : i < min l (ty.width - p)) :
    (bits (ubits ty a) p (min l (ty.width - p))).testBit i = bitAt a.toNat (p + i) := by
  rw [testBit_bits, testBit_ubits, bitAt_toNat]
  simp only [hi, decide_true, Bool.true_and, show p + i < ty.width by omega]

/-- The bits that `iput` makes of the field of BFX. -/
theorem getLsbD_field {ty : ScalarTy} {k x i : Nat} (hx : x < 2 ^ k) (h0 : 0 < k) (hk : k ≤ ty.width) (hi : i < 64) :
    (iput ty (if ty.signed then sext k x else (x : Int))).getLsbD i = if i < k then x.testBit i else ty.signed && x.testBit (k - 1) := by
  rw [getLsbD_iput ty _ hi]
  have hbv : (BitVec.ofNat k x).toNat = x := by rw [BitVec.toNat_ofNat, Nat.mod_eq_of_lt hx]
  cases h : ty.signed
  · simp only [if_false, Bool.false_eq_true, Bool.false_and, BitVec.ofInt_natCast, BitVec.getLsbD_ofNat]
    have hhigh : ∀ m, k ≤ m → x.testBit m = false := fun m hm =>
      Nat.testBit_lt_two_pow (Nat.lt_of_lt_of_le hx (Nat.pow_le_pow_right (by decide) hm))
    by_cases hik : i < k
    · simp [hik, Nat.lt_of_lt_of_le hik hk]
    · simp [hik, hhigh i (by omega)]
  · have hs : BitVec.ofInt ty.width (sext k x) = (BitVec.ofNat k x).signExtend ty.width := by
      conv => lhs; rw [← hbv]
      rw [sext_toInt]; rfl
    have hbit : ∀ m, m < ty.width → (BitVec.ofInt ty.width (sext k x)).getLsbD m = if m < k then x.testBit m else x.testBit (k - 1) := by
      intro m hm
      rw [hs, BitVec.getLsbD_signExtend, BitVec.msb_eq_getLsbD_last]
      simp only [hm, decide_true, Bool.true_and, BitVec.getLsbD_ofNat]
      by_cases hmk : m < k
      · simp [hmk]
      · simp [hmk, Nat.sub_lt h0 Nat.one_pos]
    have hlast := hbit (ty.width - 1) (Nat.sub_lt ty.width_pos Nat.one_pos)
    simp only [if_true, Bool.true_and, hlast]
    by_cases hw : i < ty.width
    · rw [if_pos hw, hbit i hw]
    · rw [if_neg hw, if_neg (by omega : ¬ i < k)]
      split
      · rw [show ty.width - 1 = k - 1 by omega]
      · rfl

theorem bitExtract_eq {ty : ScalarTy} {a ctl : W64} {p l : Nat} (hp : bits ctl.toNat 0 8 = p) (hl : bits ctl.toNat 8 8 = l) :
    bitExtract ty a ctl = (if min l (ty.width - p) = 0 then 0 else
      iput ty (if ty.signed then sext (min l (ty.width - p)) (bits (ubits ty a) p (min l (ty.width - p)))
        else (bits (ubits ty a) p (min l (ty.width - p)) : Int)), 0) := by
  subst hp hl
  simp only [bitExtract, quietly, flNone, field_empty]

theorem bitInsert_eq {ty : ScalarTy} {a b ctl : W64} {p l : Nat} (hp : bits ctl.toNat 0 8 = p) (hl : bits ctl.toNat 8 8 = l) :
    bitInsert ty a b ctl = (iput ty ((if min l (ty.width - p) = 0 then ubits ty a else
      ubits ty a - bits (ubits ty a) p (min l (ty.width - p)) * 2 ^ p + bits (ubits ty b) 0 (min l (ty.width - p)) * 2 ^ p : Nat) : Int), 0) := by
  subst hp hl
  simp only [bitInsert, quietly, flNone, field_empty]

theorem bitAt_bitExtract {ty : ScalarTy} {a ctl : W64} {p l i : Nat} (hp : bits ctl.toNat 0 8 = p) (hl : bits ctl.toNat 8 8 = l)
    (hi : i < 64) :
    bitAt (bitExtract ty a ctl).1.toNat i = if i < min l (ty.width - p) then bitAt a.toNat (p + i)
      else ty.signed && decide (0 < min l (ty.width - p)) && bitAt a.toNat (p + min l (ty.width - p) - 1) := by
  have hfield : ∀ {m}, m < min l (ty.width - p) → _ := fun {m} hm => testBit_field (ty := ty) a (p := p) (l := l) (i := m) hm
  have hk : min l (ty.width - p) ≤ ty.width := by omega
  rw [bitExtract_eq hp hl, bitAt_toNat]
  generalize min l (ty.width - p) = k at hfield hk ⊢
  rcases Nat.eq_zero_or_pos k with rfl | h0
  · simp
  · rw [if_neg (by omega : ¬ k = 0), getLsbD_field (bits_lt _ _ _) h0 hk hi]
    split
    next hik => exact hfield hik
    next hik =>
      rw [hfield (by omega : k - 1 < k), show p + (k - 1) = p + k - 1 by omega]
      simp [h0]

theorem bitAt_bitInsert {ty : ScalarTy} {a b ctl : W64} {p l i : Nat} (hp : bits ctl.toNat 0 8 = p) (hl : bits ctl.toNat 8 8 = l)
    (hi : i < ty.width) :
    bitAt (bitInsert ty a b ctl).1.toNat i
      = if p ≤ i ∧ i < p + min l (ty.width - p) then bitAt b.toNat (i - p) else bitAt a.toNat i := by
  rw [bitInsert_eq hp hl, bitAt_toNat, getLsbD_iput ty _ (Nat.lt_of_lt_of_le hi ty.width_le), if_pos hi]
  have hk : min l (ty.width - p) ≤ ty.width := by omega
  generalize min l (ty.width - p) = k at hk ⊢
  rw [BitVec.ofInt_natCast, BitVec.getLsbD_ofNat]
  simp only [hi, decide_true, Bool.true_and]
  split
  next h0 =>
    subst h0
    rw [testBit_ubits, if_neg (by omega)]
    simp [hi, bitAt_toNat]
  next h0 =>
    rw [testBit_replace_field _ _ _ _ (bits_lt _ _ _)]
    split
    next hin =>
      rw [testBit_bits, testBit_ubits, bitAt_toNat]
      simp only [Nat.zero_add, show i - p < k by omega, show i - p < ty.width by omega, decide_true, Bool.true_and]
    · rw [testBit_ubits, bitAt_toNat]
      simp [hi]

/-- Above the type's bits BFI has the sign of a signed type. -/
theorem bitAt_bitInsert_above {ty : ScalarTy} {a b ctl : W64} {i : Nat} (hi : i < 64) (hw : ty.width ≤ i) :
    bitAt (bitInsert ty a b ctl).1.toNat i = (ty.signed && bitAt (bitInsert ty a b ctl).1.toNat (ty.width - 1)) := by
  have hlast : ty.width - 1 < ty.width := Nat.sub_lt ty.width_pos Nat.one_pos
  rw [bitInsert_eq rfl rfl, bitAt_toNat, bitAt_toNat, getLsbD_iput _ _ hi, getLsbD_iput _ _ (by omega), if_neg (by omega),
    if_pos hlast]

theorem iput_natCast {ty : ScalarTy} (h : ty.signed = false) (x : Nat) (hx : x < 2 ^ ty.width) :
    iput ty (x : Int) = BitVec.ofNat 64 x := by
  rw [iput_unsigned h, BitVec.ofInt_natCast, ← BitVec.ofNat_toNat, BitVec.toNat_ofNat, Nat.mod_eq_of_lt hx]

theorem ubits_eq (ty : ScalarTy) (a : W64) : ubits ty a = a.toNat % 2 ^ ty.width := by
  rw [ubits, bits_eq, Nat.pow_zero, Nat.div_one]

/-- Settles O4: the whole field, the empty one, and each bit of the results. -/
theorem bitFieldValues : Obligations.BitFieldValues := by
  unfold Obligations.BitFieldValues
  intro ty a b ctl p l hp hl
  constructor
  · intro hty
    have hu : ty.signed = false := by rcases hty with rfl | rfl <;> rfl
    refine ⟨fun hfit h0 => ?_, fun hempty => ?_⟩
    · rw [bitExtract_eq hp hl, show min l (ty.width - p) = l by omega, if_neg (by omega), hu, if_neg Bool.false_ne_true,
        iput_natCast hu _ (Nat.lt_of_lt_of_le (bits_lt _ _ _) (Nat.pow_le_pow_right (by decide) (by omega))), bits_eq, ubits_eq]
    · have hk : min l (ty.width - p) = 0 := by omega
      rw [bitExtract_eq hp hl, bitInsert_eq hp hl, if_pos hk, if_pos hk, ubits_eq,
        iput_natCast hu _ (Nat.mod_lt _ (Nat.two_pow_pos _))]
      exact ⟨rfl, rfl⟩
  · intro _
    exact ⟨by rw [bitExtract_eq hp hl], by rw [bitInsert_eq hp hl], fun i hi =>
      ⟨bitAt_bitExtract hp hl hi, bitAt_bitInsert hp hl, bitAt_bitInsert_above hi⟩⟩

end Sys2Proof.Machine
end

section
/-! Sends, frame slots, tags, stealing and the words that stage a request or read a register (R282 to R298, R386 to R393). -/

namespace Sys2Proof.Machine

theorem z32_eq (v : W64) : z32 v = v.toNat % 2 ^ 32 := by rw [z32, bits_eq, Nat.pow_zero, Nat.div_one]

theorem Firing.frameless_reaches {l : Firing} (h : l.frameless = false) (sp : Spec) : l.reaches sp := by
  cases sp with
  | slot _ => exact h
  | _ => trivial

/-! ## Sends -/

theorem send2_gives (w : SWord) (s : State) (c j g : Nat) (x : Group) (hs : s.Issues c j g x)
    (hr : everyLane s c x w.hdr (fun l => sendable s c w w.a l ∧ sendable s c w w.b l ∧ l.reaches w.d)) :
    let at_ (l : Firing) (d : W64) (port : Nat) : Target := { l.here s c w (fpBase d) with port := port }
    wordGives (.send2 w) w.hdr s c j g x (fun l l' => ∃ v l1 u l2 d l3, l.sendValue s c w w.a = .ok (v, l1)
      ∧ l1.sendValue s c w w.b = .ok (u, l2) ∧ l2.read s c w.d = .ok (d, l3)
      ∧ l' = (l3.stage (.send (l3.sendToken (s.coreFor c l3) w (at_ l3 d 0) (l3.sendTag w d) v) l3.pc)).stage
          (.send (l3.sendToken (s.coreFor c l3) w (at_ l3 d 1) (l3.sendTag w d) u) l3.pc)) := by
  refine gives_of_lanes (b := .s w) (F := fun s c l => do
    let (v, l1) ← l.sendValue s c w w.a
    let (u, l2) ← l1.sendValue s c w w.b
    let (d, l3) ← l2.read s c w.d
    let at_ (port : Nat) : Target := { l3.here s c w (fpBase d) with port := port }
    let t (port : Nat) (x : W64) : Token := l3.sendToken (s.coreFor c l3) w (at_ port) (l3.sendTag w d) x
    return (l3.stage (.send (t 0 v) l3.pc)).stage (.send (t 1 u) l3.pc)) hs (fun _ => rfl)
    (fun s c gs p n l => by simp) (everyLane.imp hr fun l ⟨ha, hb, hd⟩ => ?_)
  obtain ⟨v, q, hv⟩ := Firing.sendValue_ok ha
  obtain ⟨u, q2, hu⟩ := Firing.sendValue_ok (sendable_shadow q hb)
  obtain ⟨d, q3, hd⟩ := Firing.read_ok { l with shadow := q2 } s c w.d ((Firing.reaches_shadow l q2 w.d).2 hd)
  exact ⟨_, by simp only [hv, hu, hd, bind, Except.bind, pure, Except.pure], v, _, u, _, d, _, hv, hu, hd, rfl⟩

end Sys2Proof.Machine

namespace Sys2Proof

open Machine

/-- Settles O9: each send of one token is of the shape of R283, with the target of Table 11.1; SEND2 reads both values before it
stages its two tokens. -/
theorem sends : Obligations.Sends := by
  unfold Obligations.Sends
  intro w
  refine ⟨?send, ?sendx, ?steer, ?merge, fun s c j g x hs hr => ?send2⟩
  case send2 =>
    refine (send2_gives w s c j g x hs hr).imp fun l _ _ _ l' ⟨v, l1, u, l2, d, l3, hv, hu, hd, h⟩ =>
      ⟨v, l1, u, l2, d, l3, hv, hu, hd, ?_⟩
    rw [h]
    simp [Firing.stage, Firing.here]
  all_goals exact send_gives (fun _ => rfl) (fun _ _ _ _ _ _ _ _ => rfl)

end Sys2Proof

namespace Sys2Proof.Machine

/-! ## Frame slots -/

theorem Firing.slotIndex_ok {l : Firing} {k : Core} {v : W64} (hf : l.frameless = false) (h : v.toNat % 2 ^ 32 < l.frameSize k) :
    l.slotIndex k v = .ok (v.toNat % 2 ^ 32) := by
  rw [← z32_eq] at h ⊢
  simp [Firing.slotIndex, hf, h, check, bind, Except.bind, pure, Except.pure]

theorem Firing.readSlot_ok {l : Firing} (hf : l.frameless = false) (k : Core) (i : Nat) :
    ∃ v q, l.readSlot k i = .ok (v, { l with shadow := q }) := by
  unfold Firing.readSlot
  rw [if_neg (by rw [hf]; exact Bool.false_ne_true)]
  dsimp only
  split
  · exact ⟨_, l.shadow, rfl⟩
  · exact ⟨_, _, rfl⟩

theorem Firing.writeSlot_ok {l : Firing} (hf : l.frameless = false) (i : Nat) (v : W64) :
    l.writeSlot i v = .ok (l.stage (.write (l.frame + i) v)) := by
  rw [Firing.writeSlot, hf, if_neg Bool.false_ne_true]

theorem Firing.keptSlot_ok {l : Firing} {d : Spec} {i : Fin 32} (hd : d = .slot i) (hf : l.frameless = false) :
    l.keptSlot d = .ok (l.frame + i.val) := by
  subst hd
  rw [Firing.keptSlot, hf, if_neg Bool.false_ne_true]

/-- What a frame holds is nothing that a lane leaves out of its sight. -/
theorem Firing.readSlot_same (s : State) (c : Nat) (gs : List Group) (p : Table W64) (n : Nat) (l : Firing) (i : Nat) :
    l.readSlot ((s.same c gs p n).core c) i = l.readSlot (s.core c) i := by
  simp [Firing.readSlot, Core.slot]

theorem Firing.slotIndex_same (s : State) (c : Nat) (gs : List Group) (p : Table W64) (n : Nat) (l : Firing) (v : W64) :
    l.slotIndex ((s.same c gs p n).core c) v = l.slotIndex (s.core c) v := by
  rw [State.core_same]; rfl

section
variable {w : RWord} {s : State} {c j g : Nat} {x : Group}

theorem ldf_gives (hs : s.Issues c j g x) (hr : everyLane s c x w.hdr (fun l => l.frameless = false ∧
      ∀ a l1, l.read s c w.a = .ok (a, l1) → a.toNat % 2 ^ 32 < l.frameSize (s.core c))) :
    wordGives (.ldf w) w.hdr s c j g x (fun l l' => ∃ a l1, l.read s c w.a = .ok (a, l1) ∧ ∃ v l2,
      l1.readSlot (s.core c) (a.toNat % 2 ^ 32) = .ok (v, l2) ∧ l2.writeD w.d v = .ok l') := by
  refine gives_of_read (b := .r w) (k := fun s c a l1 => do
      let i ← l1.slotIndex (s.core c) a
      let (v, l2) ← l1.readSlot (s.core c) i
      l2.writeD w.d v) hs (fun _ => rfl)
    (fun s c gs p n a l => by simp only [Firing.slotIndex_same, Firing.readSlot_same])
    (everyLane.imp hr fun l ⟨hf, h⟩ => ⟨Firing.frameless_reaches hf _, fun a l1 h1 => ?_⟩)
  have hlt := h a l1 h1
  obtain ⟨q, rfl⟩ := Firing.read_shadow h1
  obtain ⟨v, q2, hv⟩ := Firing.readSlot_ok (l := { l with shadow := q }) hf (s.core c) (a.toNat % 2 ^ 32)
  obtain ⟨l', hl'⟩ := Firing.writeD_ok { l with shadow := q2 } w.d v (Firing.frameless_reaches hf _)
  have hi : Firing.slotIndex { l with shadow := q } (s.core c) a = .ok (a.toNat % 2 ^ 32) := Firing.slotIndex_ok hf hlt
  exact ⟨l', by simp only [hi, hv, bind, Except.bind, hl'], v, _, hv, hl'⟩

theorem stf_gives (hs : s.Issues c j g x) (hr : everyLane s c x w.hdr (fun l => l.frameless = false ∧
      ∀ a l1, l.read s c w.a = .ok (a, l1) → a.toNat % 2 ^ 32 < l.frameSize (s.core c))) :
    wordGives (.stf w) w.hdr s c j g x (fun l l' => ∃ a b l2, readsTwo s c w.a w.b l a b l2
      ∧ l' = l2.stage (.write (l2.frame + a.toNat % 2 ^ 32) b)) := by
  refine gives_of_readsTwo (b := .r w) (k := fun s c a b l2 => do
      let i ← l2.slotIndex (s.core c) a
      l2.writeSlot i b) hs (fun _ => rfl)
    (fun s c gs p n a b l => by simp only [Firing.slotIndex_same])
    (everyLane.imp hr fun l ⟨hf, h⟩ =>
      ⟨Firing.frameless_reaches hf _, Firing.frameless_reaches hf _, fun a b l2 h2 => ?_⟩)
  obtain ⟨l1, h1, h3⟩ := h2
  have hlt := h a l1 h1
  obtain ⟨q, rfl⟩ := Firing.read_shadow h1
  obtain ⟨q2, rfl⟩ := Firing.read_shadow h3
  have hi : Firing.slotIndex { l with shadow := q2 } (s.core c) a = .ok (a.toNat % 2 ^ 32) := Firing.slotIndex_ok hf hlt
  exact ⟨_, by simp only [hi, bind, Except.bind]; exact Firing.writeSlot_ok (l := { l with shadow := q2 }) hf _ _, rfl⟩

theorem drop_gives {i : Fin 32} (hd : w.d = .slot i) (hs : s.Issues c j g x)
    (hr : everyLane s c x w.hdr (fun l => l.frameless = false)) :
    wordGives (.drop w) w.hdr s c j g x (fun l l' => l' = l.stage (.drop (l.frame + i.val))) :=
  gives_of_lanes (b := .r w) (F := fun _ _ l => do let i ← l.keptSlot w.d; return l.stage (.drop i)) hs (fun _ => rfl)
    (fun _ _ _ _ _ _ => rfl)
    (everyLane.imp hr fun l hf => ⟨_, by simp only [Firing.keptSlot_ok hd hf, bind, Except.bind, pure, Except.pure], rfl⟩)

theorem keep_gives {i : Fin 32} (hd : w.d = .slot i) (hs : s.Issues c j g x)
    (hr : everyLane s c x w.hdr (fun l => l.frameless = false ∧
      ∀ a l1, l.read s c w.a = .ok (a, l1) → l.handleOk s c a = true)) :
    wordGives (.keep w) w.hdr s c j g x (fun l l' => ∃ a l1, l.read s c w.a = .ok (a, l1)
      ∧ l' = l1.stage (.keep (l.frame + i.val) a l1.pc)) := by
  have h := gives_of_read (b := .r w) (i := .keep w) (k := fun s c a l1 => do
      let i ← l1.keptSlot w.d
      check .tileStale (l1.handleOk s c a)
      return l1.stage (.keep i a l1.pc)) (R := fun a l1 l' => l' = l1.stage (.keep (l1.frame + i.val) a l1.pc)) hs (fun _ => rfl)
    (fun s c gs p n a l => by simp only [Firing.handleOk_same])
    (everyLane.imp hr fun l ⟨hf, h⟩ => ⟨Firing.frameless_reaches hf _, fun a l1 h1 => ?_⟩)
  · refine h.imp fun l _ _ _ l' ⟨a, l1, h1, hl'⟩ => ⟨a, l1, h1, ?_⟩
    obtain ⟨q, rfl⟩ := Firing.read_shadow h1
    exact hl'
  · have hok := h a l1 h1
    obtain ⟨q, rfl⟩ := Firing.read_shadow h1
    have hk : Firing.keptSlot { l with shadow := q } w.d = .ok (l.frame + i.val) := Firing.keptSlot_ok hd hf
    have hok : Firing.handleOk { l with shadow := q } s c a = true := hok
    exact ⟨_, by simp only [hk, hok, check, bind, Except.bind, pure, Except.pure, if_true], rfl⟩

end

end Sys2Proof.Machine

namespace Sys2Proof

open Machine

/-- Settles O10: what each word does in a lane with a frame, whose slots it reads or stages a write of. -/
theorem frameSlots : Obligations.FrameSlots := by
  unfold Obligations.FrameSlots
  intro w s c j g x hs
  refine ⟨fun hr => ⟨(ldf_gives hs hr).imp fun l _ _ _ l' ⟨a, l1, h1, v, l2, h2, h3⟩ => ⟨a, l1, v, l2, h1, h2, h3⟩, stf_gives hs hr⟩,
    fun i hd hr => ⟨drop_gives hd hs hr, fun hk => keep_gives hd hs (everyLane.and hr hk)⟩⟩

end Sys2Proof

namespace Sys2Proof.Machine

/-! ## Tags, SKIP and NOP -/

/-- Settles O11: each word changes in its lane the one field that it names, DIMS where its operand is a DIM. -/
theorem tagsSkipNop : Obligations.TagsSkipNop := by
  unfold Obligations.TagsSkipNop
  refine ⟨fun w s c j g x hs => ⟨fun hr => ?tags, fun hr => ?dims, ?skip, ?nop⟩, fun w s c j g x hs => ?tagi⟩
  case tags =>
    refine gives_of_read (b := .r w) (k := fun _ _ a l1 => .ok { l1 with otag := BitVec.ofNat 32 (z32 a) }) hs
      (fun _ => rfl) (fun _ _ _ _ _ _ _ => rfl) (everyLane.imp hr fun l ha => ⟨ha, fun a l1 _ => ⟨_, rfl, ?_⟩⟩)
    rw [z32_eq, show BitVec.ofNat 32 (a.toNat % 2 ^ 32) = BitVec.setWidth 32 a from BitVec.eq_of_toNat_eq (by simp)]
  case dims =>
    refine gives_of_read (b := .r w) (k := fun _ _ a l1 => do
        check .type (a != 6 && decide (a.toNat ≤ 7))
        return { l1 with odim := a.toNat }) hs
      (fun _ => rfl) (fun _ _ _ _ _ _ _ => rfl) (everyLane.imp hr fun l ⟨ha, h⟩ => ⟨ha, fun a l1 h1 => ⟨_, ?_, rfl⟩⟩)
    obtain ⟨h6, h7⟩ := h a l1 h1
    exact check_bind (by rw [bne_iff_ne.2 h6, decide_eq_true h7]; rfl) _
  case skip =>
    exact gives_of_lanes (b := .r w) (F := fun _ _ l => .ok { l with skipped := true }) hs (fun _ => rfl)
      (fun _ _ _ _ _ _ => rfl) (fun l _ _ _ => ⟨_, rfl, rfl⟩)
  case nop =>
    exact gives_of_lanes (b := .r w) (F := fun _ _ l => .ok l) hs (fun _ => rfl)
      (fun _ _ _ _ _ _ => rfl) (fun l _ _ _ => ⟨_, rfl, rfl⟩)
  case tagi =>
    exact gives_of_lanes (b := .i w) (F := fun _ _ l => .ok { l with otag := l.otag + w.imm }) hs (fun _ => rfl)
      (fun _ _ _ _ _ _ => rfl) (fun l _ _ _ => ⟨_, rfl, rfl⟩)

end Sys2Proof.Machine
end

section
/-! The words that stage a request: where the checks of their form hold each stages it (R286, R357), and where one fails each traps
as the check says (R324, R358). -/

namespace Sys2Proof.Machine

/-! ## A word in its one lane -/

theorem Firing.peek_of_read {l l1 : Firing} {s : State} {c : Nat} {sp : Spec} {v : W64} (h : l.read s c sp = .ok (v, l1)) :
    l.peek s c sp = v := by
  rw [Firing.peek, h]

theorem Firing.peek_counted (s : State) (c j : Nat) (l : Firing) (sp : Spec) : l.peek (s.counted c j) c sp = l.peek s c sp := by
  rw [State.counted_same, Firing.peek, Firing.read_same]; rfl

/-- The value of a specifier does not depend on the lane's shadow. -/
theorem Firing.peek_shadow (l : Firing) (q : Bool) (s : State) (c : Nat) (sp : Spec) :
    ({ l with shadow := q } : Firing).peek s c sp = l.peek s c sp := by
  unfold Firing.peek
  cases h : ({ l with shadow := q } : Firing).read s c sp with
  | ok p =>
    obtain ⟨r, hr⟩ := Firing.read_of_shadow h
    rw [hr]
  | error e =>
    cases h2 : l.read s c sp with
    | error e => rfl
    | ok p =>
      obtain ⟨r, hr⟩ := Firing.read_of_shadow (l := { l with shadow := q }) (q := l.shadow) h2
      rw [h] at hr
      cases hr

theorem readsThree_peek {s : State} {c : Nat} {x y z : Spec} {l l3 : Firing} {a b d : W64} (h : readsThree s c x y z l a b d l3) :
    l.peek s c x = a ∧ l.peek s c y = b ∧ l.peek s c z = d := by
  obtain ⟨l2, ⟨l1, h1, h2⟩, h3⟩ := h
  obtain ⟨q, rfl⟩ := Firing.read_shadow h1
  obtain ⟨q2, rfl⟩ := Firing.read_shadow h2
  exact ⟨Firing.peek_of_read h1, (Firing.peek_shadow l q s c y).symm.trans (Firing.peek_of_read h2),
    (Firing.peek_shadow l q2 s c z).symm.trans (Firing.peek_of_read h3)⟩

/-- The site of a trap of a word that reads three operands. -/
theorem Firing.values_of_readsThree {s : State} {c j : Nat} {l l3 : Firing} {body : Body} {a b d : W64}
    (h : readsThree s c body.sources.1 body.sources.2.1 body.sources.2.2 l a b d l3) : l.values (s.counted c j) c body = (a, b, d) := by
  obtain ⟨h1, h2, h3⟩ := readsThree_peek h
  simp only [Firing.values, Firing.peek_counted, h1, h2, h3]

/-! ## Requests of the M and R formats -/

section
variable {i : Instr} {chk : State → Nat → Firing → Req → Except Trap Req}

theorem memory_gives_of {w : MWord} {ok : State → Nat → Firing → Req → Prop} {mk : State → Nat → Firing → Req → Req}
    (hi : ∀ s, exec i s = word (.m w) (requestM w i chk) s)
    (hb : ∀ s c gs p n l r, chk (s.same c gs p n) c l r = chk s c l r)
    (hok : ∀ s c l r, ok s c l r → chk s c l r = .ok (mk s c l r)) : memoryGives i w ok mk := by
  intro s c j g x hs hr
  refine gives_of_lanes (b := .m w) hs hi (fun s c gs p n l => by simp [hb]) (everyLane.imp hr fun l ⟨ha, he, hd, h⟩ => ?_)
  obtain ⟨a, b, d, l3, h3⟩ := readsThree_ok' (s := s) (c := c) ha he hd
  have hc := hok _ _ _ _ (h a b d l3 h3)
  refine ⟨l3.stage (.request (mk s c l3 (l3.ask s c i w.cent w.cport a b d))), ?_, a, b, d, l3, h3, rfl⟩
  rw [bind_readsThree h3 (fun a b d l3 => do
    let r ← chk s c l3 (l3.ask s c i w.cent w.cport a b d)
    return l3.stage (.request r)), hc]
  rfl

theorem memory_traps_of {w : MWord} {bad : State → Nat → Firing → Req → Trap → Prop}
    (hi : ∀ s, exec i s = word (.m w) (requestM w i chk) s)
    (hb : ∀ s c gs p n l r, chk (s.same c gs p n) c l r = chk s c l r)
    (hbad : ∀ s c l r t, bad s c l r t → chk s c l r = .error t) : memoryTraps i w bad := by
  intro s c j g x l ha a b d l3 t h3 ht
  refine traps_of_lane (b := .m w) ha hi (fun s c gs p n l => by simp [hb]) ?_
  rw [bind_readsThree h3 (fun a b d l3 => do
    let r ← chk s c l3 (l3.ask s c i w.cent w.cport a b d)
    return l3.stage (.request r)), hbad _ _ _ _ _ ht]
  rfl

theorem plain_gives_of {w : RWord} {ok : State → Nat → Firing → Req → Prop}
    (hi : ∀ s, exec i s = word (.r w) (requestR w i chk) s)
    (hb : ∀ s c gs p n l r, chk (s.same c gs p n) c l r = chk s c l r)
    (hok : ∀ s c l r, ok s c l r → chk s c l r = .ok r) : plainGives i w ok := by
  intro s c j g x hs hr
  refine gives_of_readsTwo (b := .r w) (k := fun s c a e l2 => do
    let r ← chk s c l2 (l2.ask s c i 0 .l a e 0)
    return l2.stage (.request r)) hs hi (fun s c gs p n a e l => by simp [hb])
    (everyLane.imp hr fun l ⟨ha, he, h⟩ => ⟨ha, he, fun a e l2 h2 => ⟨_, ?_, rfl⟩⟩)
  rw [hok _ _ _ _ (h a e l2 h2)]
  rfl

/-- A word that reads A and B and goes on traps where what follows does. -/
theorem binary_traps_of {w : RWord} {k : State → Nat → W64 → W64 → Firing → Except Trap Firing}
    {bad : State → Nat → Firing → Req → Trap → Prop}
    (hi : ∀ s, exec i s = word (.r w) (lane fun s c l => do
      let (a, l1) ← l.read s c w.a
      let (b, l2) ← l1.read s c w.b
      k s c a b l2) s)
    (hk : ∀ s c gs p n a b l, k (s.same c gs p n) c a b l = k s c a b l)
    (hbad : ∀ s c l a b t, bad s c l (l.ask s c i 0 .l a b 0) t → k s c a b l = .error t) : plainTraps i w bad := by
  intro s c j g x l ha a b l2 t h2 ht
  refine traps_of_lane (b := .r w) ha hi (fun s c gs p n l => by simp [hk]) ?_
  rw [bind_readsTwo h2 (k s c), hbad _ _ _ _ _ _ ht]

theorem plain_traps_of {w : RWord} {bad : State → Nat → Firing → Req → Trap → Prop}
    (hi : ∀ s, exec i s = word (.r w) (requestR w i chk) s)
    (hb : ∀ s c gs p n l r, chk (s.same c gs p n) c l r = chk s c l r)
    (hbad : ∀ s c l r t, bad s c l r t → chk s c l r = .error t) : plainTraps i w bad := by
  refine binary_traps_of (k := fun s c a b l2 => do
    let r ← chk s c l2 (l2.ask s c i 0 .l a b 0)
    return l2.stage (.request r)) hi (fun s c gs p n a b l => by simp [hb]) fun s c l a b t ht => ?_
  rw [hbad _ _ _ _ _ ht]
  rfl

end

/-- A word that reads A and goes on traps where what follows does. -/
theorem unary_traps_of {i : Instr} {w : RWord} {k : State → Nat → W64 → Firing → Except Trap Firing}
    {bad : State → Nat → Firing → W64 → Trap → Prop}
    (hi : ∀ s, exec i s = word (.r w) (lane fun s c l => do let (a, l1) ← l.read s c w.a; k s c a l1) s)
    (hk : ∀ s c gs p n a l, k (s.same c gs p n) c a l = k s c a l)
    (hbad : ∀ s c l a t, bad s c l a t → k s c a l = .error t) : unaryTraps i w bad := by
  intro s c j g x l ha a l1 t h1 ht
  refine traps_of_lane (b := .r w) ha hi (fun s c gs p n l => by simp [hk]) ?_
  simp only [h1, bind, Except.bind, hbad _ _ _ _ _ ht]

/-! ## Requests of the T format -/

theorem tileChecks_ok {rule : Core → Req → TileRule} {s : State} {c : Nat} {l : Firing} {r : Req} (h : tileOk rule s c l r) :
    tileChecks rule s c l r = .ok r := by
  obtain ⟨h1, h2, h3⟩ := h
  simp only [tileChecks]
  rw [check_bind (by simpa using h1), check_bind (by simpa using h2), check_bind h3]
  rfl

theorem check_false_bind {α : Type} {t : Trap} {b : Bool} (h : b = false) (k : Except Trap α) : (do check t b; k) = .error t := by
  subst h; rfl

theorem tileChecks_stale {rule : Core → Req → TileRule} {s : State} {c : Nat} {l : Firing} {r : Req}
    (h : ∃ h ∈ r.named, l.handleOk s c h = false) : tileChecks rule s c l r = .error .tileStale :=
  check_false_bind (by simpa using h) _

theorem tileChecks_type {rule : Core → Req → TileRule} {s : State} {c : Nat} {l : Firing} {r : Req}
    (hv : ∀ h ∈ r.named, l.handleOk s c h = true)
    (h : (∃ p ∈ (rule (s.core c) r).codes, ((s.core c).opTile p.1).fmt ≠ p.2) ∨ (rule (s.core c) r).shapes = false) :
    tileChecks rule s c l r = .error .type := by
  simp only [tileChecks]
  rw [check_bind (by simpa using hv)]
  cases hc : (rule (s.core c) r).codes.all (fun p => ((s.core c).opTile p.1).fmt == p.2)
  · rfl
  · have hs : (rule (s.core c) r).shapes = false := by
      refine h.resolve_left fun ⟨p, hp, hne⟩ => hne ?_
      simpa using List.all_eq_true.1 hc p hp
    rw [hs]; rfl

section
variable {i : Instr} {w : TWord} {rule : Core → Req → TileRule}
  (hb : ∀ (k : Core) gs p n r, rule { k with groups := gs, perf := p, lastIssue := n } r = rule k r)
include hb

theorem tileChecks_same (s : State) (c : Nat) (gs : List Group) (p : Table W64) (n : Nat) (l : Firing) (r : Req) :
    tileChecks rule (s.same c gs p n) c l r = tileChecks rule s c l r := by
  simp only [tileChecks, Firing.handleOk_same, State.core_same, hb]
  rfl

theorem tile_traps (hi : ∀ s, exec i s = word (.t w) (requestT w i rule) s) : tileTraps i w rule := by
  intro s c j g x l ha a b d l3 h3 _ r
  have traps {t : Trap} (ht : tileChecks rule s c l3 r = .error t) : trapsAlone i (.t w) s c j g x l t := by
    refine traps_of_lane (b := .t w) ha hi (fun s c gs p n l => by simp [tileChecks_same hb]) ?_
    rw [bind_readsThree h3 (fun a b d l3 => do
      let r ← tileChecks rule s c l3 (l3.ask s c i w.cent w.cport a b d)
      return l3.stage (.request r)), ht]
    rfl
  exact ⟨fun h => traps (tileChecks_stale h), fun hv h => traps (tileChecks_type hv h)⟩

/-- RACC and RACS stage their request: what a shadow firing does not check holds here all the same (R350). -/
theorem acc_gives (hi : ∀ s, exec i s = word (.t w) (requestAcc w i rule) s) : tileGives i w rule := by
  intro s c j g x hs hr
  refine gives_of_lanes (b := .t w) hs hi (fun s c gs p n l => by simp [tileChecks_same hb])
    (everyLane.imp hr fun l ⟨ha, he, hd, h⟩ => ?_)
  obtain ⟨a, b, d, l3, h3⟩ := readsThree_ok' (s := s) (c := c) ha he hd
  refine ⟨_, ?_, a, b, d, l3, h3, rfl⟩
  rw [bind_readsThree h3 (fun a b d l3 => do
    let q := l3.ask s c i w.cent w.cport a b d
    let r ← if l3.shadow then .ok q else tileChecks rule s c l3 q
    return l3.stage (.request r))]
  simp only [tileChecks_ok (h a b d l3 h3), ite_self]
  rfl

theorem acc_traps (hi : ∀ s, exec i s = word (.t w) (requestAcc w i rule) s) : tileTraps i w rule true := by
  intro s c j g x l ha a b d l3 h3 hq r
  have traps {t : Trap} (ht : tileChecks rule s c l3 r = .error t) : trapsAlone i (.t w) s c j g x l t := by
    refine traps_of_lane (b := .t w) ha hi (fun s c gs p n l => by simp [tileChecks_same hb]) ?_
    rw [bind_readsThree h3 (fun a b d l3 => do
      let q := l3.ask s c i w.cent w.cport a b d
      let r ← if l3.shadow then .ok q else tileChecks rule s c l3 q
      return l3.stage (.request r)), hq rfl]
    simp only [Bool.false_eq_true, if_false]
    rw [ht]
    rfl
  exact ⟨fun h => traps (tileChecks_stale h), fun hv h => traps (tileChecks_type hv h)⟩

end

/-- Settles O17: each word stages its request where the checks of R324 hold by its own rule. -/
theorem tileWords : Obligations.TileWords := by
  unfold Obligations.TileWords
  refine ⟨fun w => ?_, fun w => ?_, fun w => ⟨acc_gives (fun _ _ _ _ _ => rfl) fun _ => rfl, acc_gives (fun _ _ _ _ _ => rfl) fun _ => rfl, ?_⟩⟩
  all_goals repeat' apply And.intro
  all_goals exact tile_gives (fun _ => rfl) (fun _ _ _ _ _ => rfl)

end Sys2Proof.Machine
end

section
/-! The words that stage requests to the scheduler, to memory and to the engines, and those that read registers (R287 to R298,
R317, R318, R358 to R392). -/

namespace Sys2Proof.Machine

/-! ## Checks -/

theorem check_false {t : Trap} : check t false = .error t := rfl

theorem needs_ok {t : Trap} {ok : Req → Bool} {s : State} {c : Nat} {l : Firing} {r : Req} (h : ok r = true) :
    needs t ok s c l r = .ok r := check_bind h _

theorem needs_fails {t : Trap} {ok : Req → Bool} {s : State} {c : Nat} {l : Firing} {r : Req} (h : ok r = false) :
    needs t ok s c l r = .error t := check_false_bind h _

theorem addrOf_eq (v : W64) : addrOf v = v.toNat % 2 ^ 55 := by rw [addrOf, bits_eq, Nat.pow_zero, Nat.div_one]

theorem aligned16_iff {v : W64} : aligned16 v = true ↔ v.toNat % 16 = 0 := by simp [aligned16]

theorem handlesOk_valid {s : State} {c : Nat} {l : Firing} {r : Req} (h : ∀ h ∈ r.handles, l.handleOk s c h = true) :
    handlesOk s c l r = .ok () := by
  rw [handlesOk, List.all_eq_true.2 h, check_true]

theorem handlesOk_stale {s : State} {c : Nat} {l : Firing} {r : Req} (h : ∃ h ∈ r.handles, l.handleOk s c h = false) :
    handlesOk s c l r = .error .tileStale := by
  rw [handlesOk, List.all_eq_false.2 (by simpa using h), check_false]

@[simp] theorem handlesOk_same (s : State) (c : Nat) (gs : List Group) (p : Table W64) (n : Nat) (l : Firing) (r : Req) :
    handlesOk (s.same c gs p n) c l r = handlesOk s c l r := by
  simp [handlesOk]

/-! ## Requests to the scheduler -/

theorem cntrd_gives {w : MWord} {s : State} {c j g : Nat} {x : Group} (hs : s.Issues c j g x)
    (hr : everyLane s c x w.hdr (fun l => l.reaches w.a ∧ ∀ a l1, l.read s c w.a = .ok (a, l1) → a.toNat % 2 ^ 32 < 64)) :
    wordGives (.cntrd w) w.hdr s c j g x (fun l l' => ∃ a l1, l.read s c w.a = .ok (a, l1)
      ∧ l' = l1.stage (.counter (l1.ask s c (.cntrd w) w.cent w.cport a 0 0))) := by
  refine gives_of_read (b := .m w) (k := fun s c a l1 => do
      check .type (decide (z32 a < 64))
      return l1.stage (.counter (l1.ask s c (.cntrd w) w.cent w.cport a 0 0))) hs (fun _ => rfl)
    (fun _ _ _ _ _ _ _ => rfl) (everyLane.imp hr fun l ⟨ha, h⟩ => ⟨ha, fun a l1 h1 => ⟨_, ?_, rfl⟩⟩)
  have hlt := h a l1 h1
  exact check_bind (by rw [z32_eq]; exact decide_eq_true hlt) _

theorem expoOk_iff {v : W64} : expoOk v = true ↔ v.toNat / 2 ^ 48 = 0 ∧ v.toNat / 2 ^ 11 % 2 ^ 21 = 0 := by
  have h := v.isLt
  simp only [expoOk, bits_eq, Bool.and_eq_true, beq_iff_eq]
  rw [Nat.mod_eq_of_lt (a := v.toNat / 2 ^ 48) (by omega)]

/-- Settles O13: each word stages its request where its check holds. -/
theorem controlRequests : Obligations.ControlRequests := by
  unfold Obligations.ControlRequests
  refine ⟨⟨fun w => ?falloc, fun w => ?ffree, fun w => ?gdone, fun w => ?cancel, fun w => ?perfSet⟩,
    fun w => ⟨?svwr, ?tick, ?expo, fun s c j g x hs hr => cntrd_gives hs hr⟩⟩
  case falloc =>
    exact memory_gives_of (fun _ => rfl) (fun _ _ _ _ _ _ _ => rfl) fun s c l r ⟨h1, h2⟩ =>
      check_bind (by simpa [z32_eq] using ⟨h1, h2⟩) _
  case ffree =>
    exact plain_gives_of (fun _ => rfl) (fun _ _ _ _ _ _ _ => rfl) fun s c l r h =>
      check_bind (by rw [fpDev, bits_eq, h]; exact beq_self_eq_true _) _
  case gdone => exact plain_gives_of (fun _ => rfl) (fun _ _ _ _ _ _ _ => rfl) fun _ _ _ _ _ => rfl
  case cancel =>
    exact plain_gives_of (fun _ => rfl) (fun _ _ _ _ _ _ _ => rfl) fun s c l r h =>
      needs_ok (by simpa [z32_eq, or_assoc] using h)
  case perfSet =>
    exact plain_gives_of (fun _ => rfl) (fun _ _ _ _ _ _ _ => rfl) fun s c l r h => needs_ok (by simpa [z32_eq] using h)
  case svwr =>
    exact memory_gives_of (fun _ => rfl) (fun _ _ _ _ _ _ _ => rfl) fun s c l r h => needs_ok (by simpa [z32_eq] using h)
  case tick =>
    exact memory_gives_of (fun _ => rfl) (fun _ _ _ _ _ _ _ => rfl) fun s c l r h => needs_ok (by simpa [z32_eq] using h)
  case expo =>
    exact memory_gives_of (fun _ => rfl) (fun _ _ _ _ _ _ _ => rfl) fun s c l r h => needs_ok (expoOk_iff.2 h)

/-! ## Memory words -/

section
variable {s : State} {c : Nat} {l : Firing} {r : Req}

theorem scalarAligned_ok (h : r.a.toNat % 2 ^ 55 % r.bytes = 0) : scalarAligned s c l r = .ok r :=
  check_bind (by rw [addrOf_eq]; exact beq_iff_eq.2 h) _

theorem watchChecks_ok (hd : r.d.toNat ≤ 2 ^ 40) (h : r.a.toNat % 2 ^ 55 % r.bytes = 0) : watchChecks s c l r = .ok r := by
  unfold watchChecks
  rw [check_bind (decide_eq_true hd), check_bind (by rw [addrOf_eq]; exact beq_iff_eq.2 h)]
  rfl

theorem tldChecks_ok (hb : shapeWordOk r.memFmt r.b = true) (ha : r.a.toNat % 16 = 0) (hd : r.d.toNat % 16 = 0) :
    tldChecks s c l r = .ok r := by
  unfold tldChecks
  rw [check_bind hb, check_bind (by rw [aligned16_iff.2 ha, aligned16_iff.2 hd]; rfl)]
  rfl

theorem tstChecks_ok (hv : ∀ h ∈ r.handles, l.handleOk s c h = true) (hf : (s.tileOf c r.b).fmt = r.memFmt)
    (ha : r.a.toNat % 16 = 0) (hd : r.d.toNat % 16 = 0) : tstChecks s c l r = .ok r := by
  unfold tstChecks
  rw [handlesOk_valid hv]
  show (do check .type ((s.tileOf c r.b).fmt == r.memFmt); check .align (aligned16 r.a && aligned16 r.d); return r) = _
  rw [check_bind (beq_iff_eq.2 hf), check_bind (by rw [aligned16_iff.2 ha, aligned16_iff.2 hd]; rfl)]
  rfl

theorem tldiChecks_ok (hv : ∀ h ∈ r.handles, l.handleOk s c h = true) (hi : indexTileOk (s.tileOf c r.b) = true)
    (hs : shapeWordOk r.memFmt r.d = true) (he : (shapeOf r.d).2 = (s.tileOf c r.b).entries) (ha : r.a.toNat % 16 = 0) :
    tldiChecks s c l r = .ok r := by
  unfold tldiChecks
  rw [handlesOk_valid hv]
  show (do check .type (indexTileOk (s.tileOf c r.b) && shapeWordOk r.memFmt r.d && (shapeOf r.d).2 == (s.tileOf c r.b).entries)
           check .align (aligned16 r.a)
           return r) = _
  rw [check_bind (by simp [hi, hs, he]), check_bind (aligned16_iff.2 ha)]
  rfl

theorem tstiChecks_ok (hv : ∀ h ∈ r.handles, l.handleOk s c h = true) (hi : indexTileOk (s.tileOf c r.d) = true)
    (hf : (s.tileOf c r.b).fmt = r.memFmt) (he : (s.tileOf c r.b).nrows = (s.tileOf c r.d).entries) (ha : r.a.toNat % 16 = 0) :
    tstiChecks s c l r = .ok r := by
  unfold tstiChecks
  rw [handlesOk_valid hv]
  show (do check .type (indexTileOk (s.tileOf c r.d) && (s.tileOf c r.b).fmt == r.memFmt
             && (s.tileOf c r.b).nrows == (s.tileOf c r.d).entries)
           check .align (aligned16 r.a)
           return r) = _
  rw [check_bind (by simp [hi, hf, he]), check_bind (aligned16_iff.2 ha)]
  rfl

end

theorem tstChecks_same (s : State) (c : Nat) (gs : List Group) (p : Table W64) (n : Nat) (l : Firing) (r : Req) :
    tstChecks (s.same c gs p n) c l r = tstChecks s c l r := by simp [tstChecks]

theorem tldiChecks_same (s : State) (c : Nat) (gs : List Group) (p : Table W64) (n : Nat) (l : Firing) (r : Req) :
    tldiChecks (s.same c gs p n) c l r = tldiChecks s c l r := by simp [tldiChecks]

theorem tstiChecks_same (s : State) (c : Nat) (gs : List Group) (p : Table W64) (n : Nat) (l : Firing) (r : Req) :
    tstiChecks (s.same c gs p n) c l r = tstiChecks s c l r := by simp [tstiChecks]

theorem aligned_gives {i : Instr} {w : MWord} (hi : ∀ s, exec i s = word (.m w) (requestM w i scalarAligned) s) :
    memoryGives i w (fun _ _ _ r => r.a.toNat % 2 ^ 55 % r.bytes = 0) :=
  memory_gives_of hi (fun _ _ _ _ _ _ _ => rfl) fun _ _ _ _ h => scalarAligned_ok h

theorem unchecked_gives {i : Instr} {w : MWord} (hi : ∀ s, exec i s = word (.m w) (requestM w i unchecked) s) :
    memoryGives i w (fun _ _ _ _ => True) :=
  memory_gives_of hi (fun _ _ _ _ _ _ _ => rfl) fun _ _ _ _ _ => rfl

/-- Settles O14: each word stages its request where its checks hold. -/
theorem memoryWords : Obligations.MemoryWords := by
  unfold Obligations.MemoryWords
  refine ⟨fun w => ⟨aligned_gives fun _ => rfl, aligned_gives fun _ => rfl, aligned_gives fun _ => rfl, aligned_gives fun _ => rfl,
      aligned_gives fun _ => rfl, aligned_gives fun _ => rfl, ?watch, ?pref, unchecked_gives fun _ => rfl,
      unchecked_gives fun _ => rfl, unchecked_gives fun _ => rfl, unchecked_gives fun _ => rfl⟩,
    fun w => ⟨?tld, ?tst, ?tldi, ?tsti, ?cpy, ?cpyr⟩⟩
  case watch => exact memory_gives_of (fun _ => rfl) (fun _ _ _ _ _ _ _ => rfl) fun _ _ _ _ ⟨hd, h⟩ => watchChecks_ok hd h
  case pref => exact memory_gives_of (fun _ => rfl) (fun _ _ _ _ _ _ _ => rfl) fun _ _ _ _ h => needs_ok (decide_eq_true h)
  case tld => exact memory_gives_of (fun _ => rfl) (fun _ _ _ _ _ _ _ => rfl) fun _ _ _ _ ⟨hb, ha, hd⟩ => tldChecks_ok hb ha hd
  case tst => exact memory_gives_of (fun _ => rfl) tstChecks_same fun _ _ _ _ ⟨hv, hf, ha, hd⟩ => tstChecks_ok hv hf ha hd
  case tldi =>
    exact memory_gives_of (fun _ => rfl) tldiChecks_same fun _ _ _ _ ⟨hv, hi, hs, he, ha⟩ => tldiChecks_ok hv hi hs he ha
  case tsti =>
    exact memory_gives_of (fun _ => rfl) tstiChecks_same fun _ _ _ _ ⟨hv, hi, hf, he, ha⟩ => tstiChecks_ok hv hi hf he ha
  case cpy =>
    exact memory_gives_of (fun _ => rfl) (fun _ _ _ _ _ _ _ => rfl) fun _ _ _ _ h =>
      check_bind (by rw [addrOf_eq]; exact beq_iff_eq.2 h) _
  case cpyr => exact memory_gives_of (fun _ => rfl) (fun _ _ _ _ _ _ _ => rfl) fun _ _ _ _ _ => rfl

/-! ## Walker and routing words -/

/-- WGO's walker is in store mode (R380). -/
def storesAt (s : State) (c : Nat) (r : Req) : Bool :=
  match (s.core c).liveWalker r with
  | some (_, k) => k.shape.store
  | none => false

theorem wgoChecks_eq (s : State) (c : Nat) (l : Firing) (r : Req) :
    wgoChecks s c l r = (do
      handlesOk s c l { r with hasTile := storesAt s c r }
      check .type (!walkerWordBad r.a)
      return { r with hasTile := storesAt s c r }) := rfl

theorem storesAt_same (s : State) (c : Nat) (gs : List Group) (p : Table W64) (n : Nat) (r : Req) :
    storesAt (s.same c gs p n) c r = storesAt s c r := by
  unfold storesAt
  rw [State.core_same]
  rfl

theorem wgoChecks_same (s : State) (c : Nat) (gs : List Group) (p : Table W64) (n : Nat) (l : Firing) (r : Req) :
    wgoChecks (s.same c gs p n) c l r = wgoChecks s c l r := by
  simp only [wgoChecks_eq, handlesOk_same, storesAt_same]

theorem wgoChecks_ok {s : State} {c : Nat} {l : Firing} {r : Req} (hw : walkerWordBad r.a = false)
    (hv : ∀ h ∈ ({ r with hasTile := storesAt s c r } : Req).handles, l.handleOk s c h = true) :
    wgoChecks s c l r = .ok { r with hasTile := storesAt s c r } := by
  rw [wgoChecks_eq, handlesOk_valid hv, hw]
  rfl

/-- Settles O15: each word stages its request where its checks hold. -/
theorem engineWords : Obligations.EngineWords := by
  unfold Obligations.EngineWords
  refine ⟨fun w => ⟨unchecked_gives fun _ => rfl, ?wgo, ?wpar, ?wstop, ?wstat⟩,
    fun w => ⟨unchecked_gives fun _ => rfl, ?rsel, unchecked_gives fun _ => rfl, unchecked_gives fun _ => rfl,
      unchecked_gives fun _ => rfl, unchecked_gives fun _ => rfl, unchecked_gives fun _ => rfl, unchecked_gives fun _ => rfl⟩⟩
  case wgo => exact memory_gives_of (fun _ => rfl) wgoChecks_same fun _ _ _ _ ⟨hw, hv⟩ => wgoChecks_ok hw hv
  case wpar =>
    exact memory_gives_of (fun _ => rfl) (fun _ _ _ _ _ _ _ => rfl) fun _ _ _ _ h => needs_ok (by simpa [wparOk] using h)
  case wstop =>
    exact memory_gives_of (fun _ => rfl) (fun _ _ _ _ _ _ _ => rfl) fun _ _ _ _ h => needs_ok (by simpa using h)
  case wstat =>
    exact memory_gives_of (fun _ => rfl) (fun _ _ _ _ _ _ _ => rfl) fun _ _ _ _ h => needs_ok (by simpa using h)
  case rsel =>
    exact memory_gives_of (fun _ => rfl) (fun _ _ _ _ _ _ _ => by simp [rselChecks]) fun _ _ _ _ h => by
      rw [rselChecks, handlesOk_valid h]; rfl

/-! ## Reads of registers -/

section
variable {w : RWord} {s : State} {c j g : Nat} {x : Group}

/-- A lane that reads an index below `n` and puts what `v` has there for its job in D (SVRD, CLK, PERF `.get`). -/
def indexedLane (w : RWord) (n : Nat) (v : Nat → Nat → W64) (s : State) (c : Nat) (l : Firing) : Except Trap Firing := do
  let (a, l1) ← l.read s c w.a
  check .type (decide (z32 a < n))
  l1.writeD w.d (v l1.job (z32 a))

theorem indexedLane_same (n : Nat) (v : Nat → Nat → W64) (gs : List Group) (p : Table W64) (m : Nat) (l : Firing) :
    indexedLane w n v (s.same c gs p m) c l = indexedLane w n v s c l := by simp [indexedLane]

theorem indexedLane_ok {n : Nat} {v : Nat → Nat → W64} {l l' : Firing} (h : indexedLane w n v s c l = .ok l') :
    ∃ a l1, l.read s c w.a = .ok (a, l1) ∧ l1.writeD w.d (v l.job (a.toNat % 2 ^ 32)) = .ok l' := by
  cases hr : l.read s c w.a with
  | error e => simp [indexedLane, hr, bind, Except.bind] at h
  | ok p =>
    obtain ⟨a, l1⟩ := p
    obtain ⟨q, rfl⟩ := Firing.read_shadow hr
    simp only [indexedLane, hr, bind, Except.bind] at h
    split at h
    · cases h
    · exact ⟨a, _, rfl, by rw [← z32_eq]; exact h⟩

theorem indexedLane_completes {n : Nat} (v : Nat → Nat → W64) {l : Firing} (ha : l.reaches w.a) (hd : l.reaches w.d)
    (hn : ∀ a l1, l.read s c w.a = .ok (a, l1) → a.toNat % 2 ^ 32 < n) : ∃ l', indexedLane w n v s c l = .ok l' := by
  obtain ⟨a, q, hr⟩ := Firing.read_ok l s c w.a ha
  obtain ⟨l', hl'⟩ := Firing.writeD_ok _ w.d (v l.job (z32 a)) (Firing.read_reaches hr hd)
  refine ⟨l', ?_⟩
  simp only [indexedLane, hr, bind, Except.bind]
  rw [z32_eq] at hl' ⊢
  exact (check_bind (decide_eq_true (hn a _ hr)) _).trans hl'

/-- A word that reads an index below a bound and puts what stands there, with the issue counted, in D. -/
theorem indexed_gives {i : Instr} {n : Nat} {f : State → Nat → Nat → Nat → W64} {v : Nat → Nat → W64} (hs : s.Issues c j g x)
    (hi : ∀ s, exec i s = word (.r w) (lane fun s c l => indexedLane w n (f s c) s c l) s)
    (hf : ∀ gs, f (s.same c gs ((s.core c).count j 0 1).perf s.clock) c = v)
    (hr : everyLane s c x w.hdr (fun l => l.reaches w.a ∧ l.reaches w.d ∧
      ∀ a l1, l.read s c w.a = .ok (a, l1) → a.toNat % 2 ^ 32 < n)) :
    wordGives i w.hdr s c j g x (fun l l' => ∃ a l1, l.read s c w.a = .ok (a, l1)
      ∧ l1.writeD w.d (v l.job (a.toNat % 2 ^ 32)) = .ok l') := by
  refine word_gives (b := .r w) hs (hi s) (fun ls l => ?_) (everyLane.imp hr fun l ⟨ha, hd, hn⟩ => ?_) fun l l1 h => ?_
  · rw [State.withLanes_same, State.counted_same, hf, hf, indexedLane_same, indexedLane_same]
  · rw [State.counted_same, hf, indexedLane_same]
    exact indexedLane_completes v ha hd hn
  · rw [State.counted_same, hf, indexedLane_same] at h
    exact indexedLane_ok h

theorem flagsOperand_ok {v : W64} (h : v.toNat < 32) : flagsOperand v = .ok (BitVec.setWidth 5 v) := by
  have hb : bits v.toNat 5 59 = 0 := by rw [bits_eq]; omega
  rw [flagsOperand, check_bind (beq_iff_eq.2 hb), BitVec.ofNat_toNat]
  rfl

/-- FLAGS `.set` and `.join` stage their operand (R392). -/
theorem flags_gives {i : Instr} {mk : BitVec 5 → Staged} (hs : s.Issues c j g x)
    (hi : ∀ s, exec i s = word (.r w) (lane fun s c l => do
      let (a, l1) ← l.read s c w.a
      let f ← flagsOperand a
      return l1.stage (mk f)) s)
    (hr : everyLane s c x w.hdr (fun l => l.reaches w.a ∧ ∀ a l1, l.read s c w.a = .ok (a, l1) → a.toNat < 32)) :
    wordGives i w.hdr s c j g x (fun l l' => ∃ a l1, l.read s c w.a = .ok (a, l1) ∧ l' = l1.stage (mk (BitVec.setWidth 5 a))) := by
  refine gives_of_read (b := .r w) (k := fun _ _ a l1 => do let f ← flagsOperand a; return l1.stage (mk f)) hs hi
    (fun _ _ _ _ _ _ _ => rfl) (everyLane.imp hr fun l ⟨ha, h⟩ => ⟨ha, fun a l1 h1 => ⟨_, ?_, rfl⟩⟩)
  rw [flagsOperand_ok (h a l1 h1)]
  rfl

end

/-- Settles O16: the words that read an index put what it names in D; PERF sees its own issue counted; FLAGS reads or stages. -/
theorem systemReads : Obligations.SystemReads := by
  unfold Obligations.SystemReads
  intro w s c j g x hs
  refine ⟨fun hr => ?svrd, fun hr => ?clk, fun hr => ?perfGet, fun hr => ?flagsGet, fun hr => ⟨?flagsSet, ?flagsJoin⟩⟩
  case svrd =>
    exact indexed_gives (i := .svrd w) (n := 32) (f := fun s c jb n => ((s.job jb).varsAt ((s.job jb).jobCore c)).getD n 0)
      (v := fun jb n => ((s.job jb).varsAt ((s.job jb).jobCore c)).getD n 0) hs (fun _ => rfl) (fun _ => rfl) hr
  case clk =>
    exact indexed_gives (i := .clk w) (n := 2) (f := fun s _ _ n => if n = 0 then s.time else BitVec.ofNat 64 s.clock)
      (v := fun _ n => if n = 0 then s.time else BitVec.ofNat 64 s.clock) hs (fun _ => rfl) (fun _ => rfl) hr
  case perfGet =>
    exact indexed_gives (i := .perfGet w) (n := 64) (f := fun s c jb n => (s.core c).counter jb n) hs (fun _ => rfl)
      (fun gs => by simp only [State.core_same]; rfl) hr
  case flagsGet =>
    refine gives_of_lanes (b := .r w) (F := fun s c l => l.writeD w.d (BitVec.ofNat 64 (Table.getD (s.core c).xflags l.job 0).toNat))
      hs (fun _ => rfl) (fun s c gs p n l => by rw [State.core_same]) (everyLane.imp hr fun l hd => ?_)
    obtain ⟨l', hl'⟩ := Firing.writeD_ok l w.d (BitVec.setWidth 64 (Table.getD (s.core c).xflags l.job 0)) hd
    exact ⟨l', by rw [BitVec.ofNat_toNat, hl'], hl'⟩
  case flagsSet => exact flags_gives hs (fun _ => rfl) hr
  case flagsJoin => exact flags_gives hs (fun _ => rfl) hr

end Sys2Proof.Machine
end

section
/-! Range stealing and the limits of blocks (R289, R296, R297). -/

namespace Sys2Proof.Machine

section
variable {s u : State} {c j g : Nat} {x : Group} {l l2 : Firing}

theorem readsTwo_shadow {sp sq : Spec} {a b : W64} (h : readsTwo s c sp sq l a b l2) : ∃ q, l2 = { l with shadow := q } := by
  obtain ⟨l1, h1, h2⟩ := h
  obtain ⟨q, rfl⟩ := Firing.read_shadow h1
  obtain ⟨q2, rfl⟩ := Firing.read_shadow h2
  exact ⟨q2, rfl⟩

/-- The one lane of a group is changed. -/
theorem State.setLane_one (hg : (u.core c).groups[g]? = some x) (hx : x.lanes = [l]) (l2 : Firing) :
    u.setLane c g 0 l2 = u.withLanes c g x [l2] := by
  simp [State.setLane, State.withLanes, State.onCore, Core.setLane, hg, hx, setAt]

/-- A word of a group of one lane that runs it without a trap, whatever else it changes. -/
theorem word_one {i : Instr} {b : Body} {f : LaneFn} (hs : s.Issues c j g x) (hx : x.lanes = [l]) (hr : l.running = true)
    (he : (l.atWord (s.core c) x).executes b.hdr = true) (hi : exec i s = word b f s)
    (hf : f (s.counted c j) c (l.atWord (s.core c) x) = .ok (u, l2)) (hg : (u.core c).groups[g]? = some x) :
    ∃ seen, exec i s = .next ((u.withLanes c g x [{ l2 with seen := seen }]).endWord c g b.hdr.last) := by
  obtain ⟨hl, hw⟩ := issueWord_one (b := b) (f := f) hs hx
  obtain ⟨seen, h⟩ := runLane_ok (bad := (s.core c).badWords.contains (x.block, x.pc)) (word := (s.core c).wordAt j x) hl hr he hf
  refine ⟨seen, hi.trans (congrArg Host.Outcome.next ?_)⟩
  rw [hw, h, State.setLane_one hg hx]

end

theorem steal_gives {w : SWord} {s : State} {c j g : Nat} {x : Group} (hs : s.Issues c j g x)
    (hr : everyLane s c x w.hdr (fun l => l.reaches w.a ∧ l.reaches w.b)) :
    wordGives (.steal w) w.hdr s c j g x (fun l l' => ∃ a b l2, readsTwo s c w.a w.b l a b l2
      ∧ l' = l2.stage (.steal (z32 a) (l2.sendToken (s.coreFor c l2) w
        { l2.here s c w (fpBase b) with dev := fpDev b } l2.otag 0))) :=
  gives_of_readsTwo (b := .s w) (k := fun s c a b l2 => return l2.stage (.steal (z32 a) (l2.sendToken (s.coreFor c l2) w
      { l2.here s c w (fpBase b) with dev := fpDev b } l2.otag 0)))
    hs (fun _ => rfl) (fun _ _ _ _ _ _ _ _ => rfl)
    (everyLane.imp hr fun _ ⟨ha, hb⟩ => ⟨ha, hb, fun _ _ _ _ => ⟨_, rfl, rfl⟩⟩)

theorem flimit_gives {w : RWord} {s : State} {c j g : Nat} {x : Group} (hs : s.Issues c j g x)
    (hr : everyLane s c x w.hdr (fun l => l.reaches w.a ∧ l.reaches w.b ∧ ∀ a b l2, readsTwo s c w.a w.b l a b l2 →
      b.toNat < 256 ∧ ((s.core c).blockOf l.job (z32 a)).isSome)) :
    wordGives (.flimit w) w.hdr s c j g x (fun l l' => ∃ a b l2, readsTwo s c w.a w.b l a b l2
      ∧ l' = l2.stage (.flimit (z32 a) b.toNat)) := by
  refine gives_of_readsTwo (b := .r w) (k := fun s c a b l2 => do
      check .type (decide (b.toNat < 256))
      check .blockAbsent ((s.core c).blockOf l2.job (z32 a)).isSome
      return l2.stage (.flimit (z32 a) b.toNat)) hs (fun _ => rfl)
    (fun s c gs p n a b l => by rw [State.core_same]; rfl)
    (everyLane.imp hr fun l ⟨ha, hb, h⟩ => ⟨ha, hb, fun a b l2 h2 => ⟨_, ?_, rfl⟩⟩)
  obtain ⟨hlt, hblock⟩ := h a b l2 h2
  obtain ⟨q, rfl⟩ := readsTwo_shadow h2
  rw [check_bind (decide_eq_true hlt), check_bind hblock]
  rfl

theorem bits_high (a : W64) : bits a.toNat 32 32 = a.toNat / 2 ^ 32 := by
  have := a.isLt
  rw [bits_eq]
  omega

theorem bits_low (a : W64) : bits a.toNat 0 32 = a.toNat % 2 ^ 32 := z32_eq a

/-- The mailbox in which the request `q` is reserved. -/
def Core.reserve (k : Core) (q : StealReq) : Core :=
  { k with mailbox := k.mailbox.map (fun m => if m.id = q.id then { m with reserved := true } else m) }

section
variable {w : RWord} {s : State} {c : Nat} {l l1 : Firing} {a : W64}

/-- RSPLIT while no request waits. -/
theorem splits_whole (h : l.read s c w.a = .ok (a, l1)) (hle : a.toNat % 2 ^ 32 ≤ a.toNat / 2 ^ 32)
    (hq : (s.core c).stealFor l1 = none) : splits w s c l = (l1.writeD w.d a).map (s, ·) := by
  simp only [splits, h, bind, Except.bind, bits_high, bits_low, hq]
  rw [show check Trap.type (decide (a.toNat % 2 ^ 32 ≤ a.toNat / 2 ^ 32)) = .ok () by rw [decide_eq_true hle]; rfl]
  cases l1.writeD w.d a <;> rfl

/-- RSPLIT that reserves the request `q`: what it keeps, and what it gives away. -/
theorem splits_shared {q : StealReq} (h : l.read s c w.a = .ok (a, l1)) (hle : a.toNat % 2 ^ 32 ≤ a.toNat / 2 ^ 32)
    (hq : (s.core c).stealFor l1 = some q) :
    let lo := a.toNat % 2 ^ 32
    let hi := a.toNat / 2 ^ 32
    let mid := lo + (hi - lo) / 2
    let kept := if 2 ≤ hi - lo then rangeVal lo mid else a
    let given := if 2 ≤ hi - lo then rangeVal mid hi else 0
    splits w s c l = (l1.writeD w.d kept).map (fun l2 => (s.onCore c (·.reserve q),
      l2.stage (.stealReply q.id { q.reply with w2 := given, src := BitVec.ofNat 7 (s.coreFor c l1) }))) := by
  intro lo hi mid kept given
  simp only [splits, h, bind, Except.bind, bits_high, bits_low, hq]
  rw [show check Trap.type (decide (a.toNat % 2 ^ 32 ≤ a.toNat / 2 ^ 32)) = .ok () by rw [decide_eq_true hle]; rfl]
  by_cases hw : 2 ≤ hi - lo
  · simp only [kept, given, if_pos hw]
    rw [if_pos hw]
    cases l1.writeD w.d (rangeVal lo mid) <;> rfl
  · simp only [kept, given, if_neg hw]
    rw [if_neg hw]
    cases l1.writeD w.d a <;> rfl

end

/-- Settles O12: FLIMIT and STEAL stage their request; RSPLIT, in its one lane, writes D and reserves the oldest steal request. -/
theorem stealing : Obligations.Stealing := by
  unfold Obligations.Stealing
  refine ⟨⟨fun w s c j g x hs hr => flimit_gives hs hr, fun w s c j g x hs hr => steal_gives hs hr⟩, ?_⟩
  intro w s c j g x l a l1 hs hx hr he hd ha lo hi hle
  refine ⟨fun hq => ?whole, fun q hq => ?shared⟩
  all_goals
    have hg := (Core.issuing_group hs.group).1
    have ha' : (l.atWord (s.core c) x).read (s.counted c j) c w.a = .ok (a, l1) := by
      rw [State.counted_same, Firing.read_same]; exact ha
    have hd1 : l1.reaches w.d := Firing.read_reaches ha hd
  case whole =>
    obtain ⟨l2, h2⟩ := Firing.writeD_ok l1 w.d a hd1
    have hf := splits_whole ha' hle (by rw [State.core_counted]; exact hq)
    rw [h2] at hf
    obtain ⟨seen, h⟩ := word_one (i := .rsplit w) (b := .r w) hs hx hr he rfl hf (by rw [State.core_counted]; exact hg)
    exact ⟨l2, seen, h2, h⟩
  case shared =>
    intro mid kept given
    obtain ⟨l2, h2⟩ := Firing.writeD_ok l1 w.d kept hd1
    have hf := splits_shared ha' hle (by rw [State.core_counted]; exact hq)
    dsimp only at hf
    rw [show l1.writeD w.d (if 2 ≤ a.toNat / 2 ^ 32 - a.toNat % 2 ^ 32 then _ else a) = .ok l2 from h2] at hf
    obtain ⟨seen, h⟩ := word_one (i := .rsplit w) (b := .r w) hs hx hr he rfl hf (by
      simp only [State.core_onCore_same, State.core_counted]; exact hg)
    exact ⟨l2, seen, h2, h⟩

end Sys2Proof.Machine
end

section
/-! What the words trap with whose operands fail a check (R287 to R297, R324, R358 to R392). -/

namespace Sys2Proof.Machine

/-! ## Checks that fail -/

section
variable {s : State} {c : Nat} {l : Firing} {r : Req} {t : Trap}

theorem scalarAligned_traps (h : r.a.toNat % 2 ^ 55 % r.bytes ≠ 0) : scalarAligned s c l r = .error .align :=
  check_false_bind (by rw [addrOf_eq]; exact beq_eq_false_iff_ne.2 h) _

theorem watchChecks_traps (h : 2 ^ 40 < r.d.toNat ∧ t = .type
      ∨ r.d.toNat ≤ 2 ^ 40 ∧ r.a.toNat % 2 ^ 55 % r.bytes ≠ 0 ∧ t = .align) : watchChecks s c l r = .error t := by
  unfold watchChecks
  rcases h with ⟨hd, rfl⟩ | ⟨hd, ha, rfl⟩
  · exact check_false_bind (decide_eq_false (Nat.not_le.2 hd)) _
  · rw [check_bind (decide_eq_true hd)]
    exact scalarAligned_traps (s := s) (c := c) (l := l) ha

/-- The checks of a tile memory word: handles, then codes and shapes, then alignment. -/
def tileMemoryChecks (fits aligned : Bool) (s : State) (c : Nat) (l : Firing) (r : Req) : Except Trap Req := do
  handlesOk s c l r
  check .type fits
  check .align aligned
  return r

theorem tileMemoryChecks_traps {fits aligned : Bool} {fit line : Prop} (hf : fits = true ↔ fit) (hl : aligned = true ↔ line)
    (h : (∃ h ∈ r.handles, l.handleOk s c h = false) ∧ t = .tileStale
      ∨ ¬(∃ h ∈ r.handles, l.handleOk s c h = false) ∧ ¬fit ∧ t = .type
      ∨ ¬(∃ h ∈ r.handles, l.handleOk s c h = false) ∧ fit ∧ ¬line ∧ t = .align) :
    tileMemoryChecks fits aligned s c l r = .error t := by
  unfold tileMemoryChecks
  have valid (hv : ¬(∃ h ∈ r.handles, l.handleOk s c h = false)) : handlesOk s c l r = .ok () :=
    handlesOk_valid (by simpa using hv)
  rcases h with ⟨hs, rfl⟩ | ⟨hv, hn, rfl⟩ | ⟨hv, hy, hn, rfl⟩
  · rw [handlesOk_stale hs]; rfl
  · rw [valid hv]
    exact check_false_bind (Bool.eq_false_iff.2 fun h => hn (hf.1 h)) _
  · rw [valid hv]
    show (do check .type fits; check .align aligned; return r) = _
    rw [check_bind (hf.2 hy)]
    exact check_false_bind (Bool.eq_false_iff.2 fun h => hn (hl.1 h)) _

theorem tldChecks_traps (h : shapeWordOk r.memFmt r.b = false ∧ t = .type
      ∨ shapeWordOk r.memFmt r.b = true ∧ ¬(r.a.toNat % 16 = 0 ∧ r.d.toNat % 16 = 0) ∧ t = .align) :
    tldChecks s c l r = .error t := by
  unfold tldChecks
  rcases h with ⟨hb, rfl⟩ | ⟨hb, ha, rfl⟩
  · exact check_false_bind hb _
  · rw [check_bind hb]
    refine check_false_bind ?_ _
    rw [← Bool.not_eq_true, Bool.and_eq_true, aligned16_iff, aligned16_iff]
    exact ha

theorem wgoChecks_traps (h : (∃ h ∈ ({ r with hasTile := storesAt s c r } : Req).handles, l.handleOk s c h = false) ∧ t = .tileStale
      ∨ ¬(∃ h ∈ ({ r with hasTile := storesAt s c r } : Req).handles, l.handleOk s c h = false)
        ∧ walkerWordBad r.a = true ∧ t = .type) : wgoChecks s c l r = .error t := by
  rw [wgoChecks_eq]
  rcases h with ⟨hs, rfl⟩ | ⟨hv, hw, rfl⟩
  · rw [handlesOk_stale hs]; rfl
  · rw [handlesOk_valid (by simpa using hv), hw]; rfl

theorem Firing.slotIndex_traps {k : Core} {v : W64} (h : l.frameless = true ∨ l.frameSize k ≤ v.toNat % 2 ^ 32) :
    l.slotIndex k v = .error .frameBad := by
  refine check_false_bind ?_ _
  rw [z32_eq]
  rcases h with h | h
  · rw [h]; rfl
  · rw [decide_eq_false (Nat.not_lt.2 h), Bool.and_false]

theorem flagsOperand_traps {v : W64} (h : 32 ≤ v.toNat) : flagsOperand v = .error .type := by
  refine check_false_bind ?_ _
  have := v.isLt
  rw [bits_eq, beq_eq_false_iff_ne]
  omega

theorem expoOk_fails {v : W64} (h : v.toNat / 2 ^ 48 ≠ 0 ∨ v.toNat / 2 ^ 11 % 2 ^ 21 ≠ 0) : expoOk v = false := by
  rw [← Bool.not_eq_true, expoOk_iff]
  omega

theorem splits_traps {w : RWord} {a : W64} {l1 : Firing} (h : l.read s c w.a = .ok (a, l1))
    (hlt : a.toNat / 2 ^ 32 < a.toNat % 2 ^ 32) : splits w s c l = .error .type := by
  simp only [splits, h, bind, Except.bind, bits_high, bits_low]
  rw [decide_eq_false (Nat.not_le.2 hlt)]
  rfl

end

/-! ## The words of each format -/

section
variable {i : Instr}

theorem misaligned_traps {w : MWord} (hi : ∀ s, exec i s = word (.m w) (requestM w i scalarAligned) s) :
    memoryTraps i w (fun _ _ _ r t => r.a.toNat % 2 ^ 55 % r.bytes ≠ 0 ∧ t = .align) :=
  memory_traps_of hi (fun _ _ _ _ _ _ _ => rfl) fun _ _ _ _ _ ⟨h, ht⟩ => ht ▸ scalarAligned_traps h

/-- A word of the M format with a check of its own. -/
theorem needed_traps {w : MWord} {ok : Req → Bool} {bad : Req → Prop}
    (hi : ∀ s, exec i s = word (.m w) (requestM w i (needs .type ok)) s) (hb : ∀ r, bad r → ok r = false) :
    memoryTraps i w (fun _ _ _ r t => bad r ∧ t = .type) :=
  memory_traps_of hi (fun _ _ _ _ _ _ _ => rfl) fun _ _ _ _ _ ⟨h, ht⟩ => ht ▸ needs_fails (hb _ h)

end

theorem memory_words_trap (w : MWord) :
    let misaligned (_ : State) (_ : Nat) (_ : Firing) (r : Req) (t : Trap) : Prop := r.a.toNat % 2 ^ 55 % r.bytes ≠ 0 ∧ t = .align
    memoryTraps (.ld w) w misaligned ∧ memoryTraps (.st w) w misaligned ∧ memoryTraps (.lda w) w misaligned
    ∧ memoryTraps (.str w) w misaligned ∧ memoryTraps (.atom w) w misaligned ∧ memoryTraps (.atmn w) w misaligned
    ∧ memoryTraps (.watch w) w (fun s c l r t => 2 ^ 40 < r.d.toNat ∧ t = .type ∨ r.d.toNat ≤ 2 ^ 40 ∧ misaligned s c l r t)
    ∧ memoryTraps (.pref w) w (fun _ _ _ r t => 2 ^ 36 < r.b.toNat ∧ t = .type)
    ∧ memoryTraps (.cpy w) w (fun _ _ _ r t => r.a.toNat % 2 ^ 55 % 32 ≠ 0 ∧ t = .align) := by
  refine ⟨misaligned_traps fun _ => rfl, misaligned_traps fun _ => rfl, misaligned_traps fun _ => rfl, misaligned_traps fun _ => rfl,
    misaligned_traps fun _ => rfl, misaligned_traps fun _ => rfl, ?watch, ?pref, ?cpy⟩
  case watch => exact memory_traps_of (fun _ => rfl) (fun _ _ _ _ _ _ _ => rfl) fun _ _ _ _ _ h => watchChecks_traps h
  case pref => exact needed_traps (fun _ => rfl) fun r h => decide_eq_false (Nat.not_le.2 h)
  case cpy =>
    exact memory_traps_of (fun _ => rfl) (fun _ _ _ _ _ _ _ => rfl) fun _ _ _ r _ ⟨h, ht⟩ =>
      ht ▸ check_false_bind (by rw [addrOf_eq]; exact beq_eq_false_iff_ne.2 h) _

theorem tile_memory_words_trap (w : MWord) :
    let stale (s : State) (c : Nat) (l : Firing) (r : Req) : Prop := ∃ h ∈ r.handles, l.handleOk s c h = false
    let checked (fits : State → Nat → Req → Prop) (aligned : Req → Prop) (s : State) (c : Nat) (l : Firing) (r : Req) (t : Trap) : Prop :=
      stale s c l r ∧ t = .tileStale ∨ ¬stale s c l r ∧ ¬fits s c r ∧ t = .type
        ∨ ¬stale s c l r ∧ fits s c r ∧ ¬aligned r ∧ t = .align
    let both (r : Req) : Prop := r.a.toNat % 16 = 0 ∧ r.d.toNat % 16 = 0
    let one (r : Req) : Prop := r.a.toNat % 16 = 0
    memoryTraps (.tld w) w (fun _ _ _ r t => shapeWordOk r.memFmt r.b = false ∧ t = .type
      ∨ shapeWordOk r.memFmt r.b = true ∧ ¬both r ∧ t = .align)
    ∧ memoryTraps (.tst w) w (checked (fun s c r => (s.tileOf c r.b).fmt = r.memFmt) both)
    ∧ memoryTraps (.tldi w) w (checked (fun s c r => indexTileOk (s.tileOf c r.b) = true ∧ shapeWordOk r.memFmt r.d = true
        ∧ (shapeOf r.d).2 = (s.tileOf c r.b).entries) one)
    ∧ memoryTraps (.tsti w) w (checked (fun s c r => indexTileOk (s.tileOf c r.d) = true ∧ (s.tileOf c r.b).fmt = r.memFmt
        ∧ (s.tileOf c r.b).nrows = (s.tileOf c r.d).entries) one)
    ∧ memoryTraps (.rsel w) w (fun s c l r t => stale s c l r ∧ t = .tileStale) := by
  refine ⟨?tld, ?tst, ?tldi, ?tsti, ?rsel⟩
  case tld => exact memory_traps_of (fun _ => rfl) (fun _ _ _ _ _ _ _ => rfl) fun _ _ _ _ _ h => tldChecks_traps h
  case tst =>
    exact memory_traps_of (fun _ => rfl) tstChecks_same fun s c l r _ h =>
      tileMemoryChecks_traps (fits := (s.tileOf c r.b).fmt == r.memFmt) (aligned := aligned16 r.a && aligned16 r.d)
        beq_iff_eq (by rw [Bool.and_eq_true, aligned16_iff, aligned16_iff]) h
  case tldi =>
    exact memory_traps_of (fun _ => rfl) tldiChecks_same fun s c l r _ h =>
      tileMemoryChecks_traps (aligned := aligned16 r.a)
        (fits := indexTileOk (s.tileOf c r.b) && shapeWordOk r.memFmt r.d && (shapeOf r.d).2 == (s.tileOf c r.b).entries)
        (by simp [and_assoc]) aligned16_iff h
  case tsti =>
    exact memory_traps_of (fun _ => rfl) tstiChecks_same fun s c l r _ h =>
      tileMemoryChecks_traps (aligned := aligned16 r.a)
        (fits := indexTileOk (s.tileOf c r.d) && (s.tileOf c r.b).fmt == r.memFmt && (s.tileOf c r.b).nrows == (s.tileOf c r.d).entries)
        (by simp [and_assoc]) aligned16_iff h
  case rsel =>
    exact memory_traps_of (fun _ => rfl) (fun _ _ _ _ _ _ _ => by simp [rselChecks]) fun s c l r t ⟨h, ht⟩ => by
      rw [rselChecks, handlesOk_stale h, ht]; rfl

theorem engine_words_trap (w : MWord) :
    let stale (s : State) (c : Nat) (l : Firing) (r : Req) : Prop :=
      ∃ h ∈ ({ r with hasTile := storesAt s c r } : Req).handles, l.handleOk s c h = false
    let reserved (_ : State) (_ : Nat) (_ : Firing) (r : Req) (t : Trap) : Prop := walkerWordBad r.a = true ∧ t = .type
    memoryTraps (.wgo w) w (fun s c l r t => stale s c l r ∧ t = .tileStale ∨ ¬stale s c l r ∧ reserved s c l r t)
    ∧ memoryTraps (.wpar w) w (fun _ _ _ r t =>
        (walkerWordBad r.a = true ∨ 2 ≤ r.m.mflg.toNat ∧ 16777215 < r.b.toNat) ∧ t = .type)
    ∧ memoryTraps (.wstop w) w reserved ∧ memoryTraps (.wstat w) w reserved
    ∧ memoryTraps (.falloc w) w (fun s _ _ r t =>
        (4096 ≤ r.a.toNat % 2 ^ 32 ∨ s.devCore r.job (r.b.toNat % 2 ^ 32) = none) ∧ t = .type)
    ∧ memoryTraps (.svwr w) w (fun _ _ _ r t => 32 ≤ r.a.toNat % 2 ^ 32 ∧ t = .type)
    ∧ memoryTraps (.tick w) w (fun _ _ _ r t => (r.a.toNat % 2 ^ 32 = 0 ∨ 65536 ≤ r.a.toNat % 2 ^ 32) ∧ t = .type)
    ∧ memoryTraps (.expo w) w (fun _ _ _ r t => (r.a.toNat / 2 ^ 48 ≠ 0 ∨ r.a.toNat / 2 ^ 11 % 2 ^ 21 ≠ 0) ∧ t = .type)
    ∧ memoryTraps (.cntrd w) w (fun _ _ _ r t => 64 ≤ r.a.toNat % 2 ^ 32 ∧ t = .type) := by
  have reserved_fails (r : Req) (h : walkerWordBad r.a = true) : (!walkerWordBad r.a) = false := by rw [h]; rfl
  refine ⟨?wgo, ?wpar, needed_traps (fun _ => rfl) reserved_fails, needed_traps (fun _ => rfl) reserved_fails, ?falloc, ?svwr, ?tick,
    ?expo, ?cntrd⟩
  case wgo => exact memory_traps_of (fun _ => rfl) wgoChecks_same fun _ _ _ _ _ h => wgoChecks_traps h
  case wpar =>
    refine needed_traps (bad := fun r => walkerWordBad r.a = true ∨ 2 ≤ r.m.mflg.toNat ∧ 16777215 < r.b.toNat) (fun _ => rfl)
      fun r h => ?_
    rcases h with h | ⟨hm, hb⟩
    · rw [wparOk, h]; rfl
    · rw [wparOk, decide_eq_false (Nat.not_lt.2 hm), decide_eq_false (Nat.not_le.2 hb)]
      exact Bool.and_false _
  case falloc =>
    refine memory_traps_of (fun _ => rfl) (fun _ _ _ _ _ _ _ => rfl) fun s c l r t ⟨h, ht⟩ => ht ▸ check_false_bind ?_ _
    rw [z32_eq, z32_eq]
    rcases h with h | h
    · rw [decide_eq_false (Nat.not_lt.2 h)]; rfl
    · rw [h]; exact Bool.and_false _
  case svwr => exact needed_traps (fun _ => rfl) fun r h => by rw [z32_eq]; exact decide_eq_false (Nat.not_lt.2 h)
  case tick =>
    refine needed_traps (bad := fun r => r.a.toNat % 2 ^ 32 = 0 ∨ 65536 ≤ r.a.toNat % 2 ^ 32) (fun _ => rfl) fun r h => ?_
    rw [z32_eq]
    rcases h with h | h
    · rw [h]; rfl
    · rw [decide_eq_false (p := _ < 65536) (Nat.not_lt.2 h)]; exact Bool.and_false _
  case expo => exact needed_traps (fun _ => rfl) fun r h => expoOk_fails h
  case cntrd =>
    intro s c j g x l ha a b d l3 t ⟨l2, ⟨l1, h1, _⟩, _⟩ ⟨h, ht⟩
    refine traps_of_lane (b := .m w) ha (fun _ => rfl) (fun s c gs p n l => by simp only [Firing.read_same]; rfl) ?_
    simp only [h1, bind, Except.bind]
    exact ht ▸ check_false_bind (by rw [z32_eq]; exact decide_eq_false (Nat.not_lt.2 h)) _

/-! ## The words of the R and S formats -/

section
variable {i : Instr} {w : RWord}

/-- A word that reads an index below `n`. -/
theorem indexed_traps {n : Nat} {f : State → Nat → Nat → Nat → W64}
    (hi : ∀ s, exec i s = word (.r w) (lane fun s c l => indexedLane w n (f s c) s c l) s) :
    unaryTraps i w (fun _ _ _ a t => n ≤ a.toNat % 2 ^ 32 ∧ t = .type) := by
  intro s c j g x l ha a l1 t h1 ⟨h, ht⟩
  refine traps_of ha (hi s) ?_
  have hr : (l.atWord (s.core c) x).read (s.counted c j) c w.a = .ok (a, l1) := by
    rw [State.counted_same, Firing.read_same]; exact h1
  simp only [lane, indexedLane, hr, bind, Except.bind]
  rw [z32_eq, decide_eq_false (Nat.not_lt.2 h), ht]
  rfl

/-- FLAGS `.set` and `.join`. -/
theorem flags_traps {mk : BitVec 5 → Staged}
    (hi : ∀ s, exec i s = word (.r w) (lane fun s c l => do
      let (a, l1) ← l.read s c w.a
      let f ← flagsOperand a
      return l1.stage (mk f)) s) : unaryTraps i w (fun _ _ _ a t => 32 ≤ a.toNat ∧ t = .type) :=
  unary_traps_of (k := fun _ _ a l1 => do let f ← flagsOperand a; return l1.stage (mk f)) hi (fun _ _ _ _ _ _ _ => rfl)
    fun _ _ _ _ _ ⟨h, ht⟩ => by rw [flagsOperand_traps h, ht]; rfl

/-- An R-format request with a check of its own. -/
theorem needed_plain_traps {ok : Req → Bool} {bad : State → Req → Prop}
    (hi : ∀ s, exec i s = word (.r w) (requestR w i (needs .type ok)) s) (hb : ∀ s r, bad s r → ok r = false) :
    plainTraps i w (fun s _ _ r t => bad s r ∧ t = .type) :=
  plain_traps_of hi (fun _ _ _ _ _ _ _ => rfl) fun _ _ _ _ _ ⟨h, ht⟩ => ht ▸ needs_fails (hb _ _ h)

theorem Firing.keptSlot_traps {l : Firing} {d : Spec} {n : Fin 32} (hd : d = .slot n) (hf : l.frameless = true) :
    l.keptSlot d = .error .frameBad := by
  subst hd
  rw [Firing.keptSlot, if_pos hf]

theorem keep_traps {n : Fin 32} (hd : w.d = .slot n) :
    unaryTraps (.keep w) w (fun s c l a t => l.frameless = true ∧ t = .frameBad
      ∨ l.frameless = false ∧ l.handleOk s c a = false ∧ t = .tileStale) := by
  refine unary_traps_of (k := fun s c a l1 => do
      let i ← l1.keptSlot w.d
      check .tileStale (l1.handleOk s c a)
      return l1.stage (.keep i a l1.pc)) (fun _ => rfl) (fun _ _ _ _ _ _ _ => by simp) fun s c l a t h => ?_
  rcases h with ⟨hf, rfl⟩ | ⟨hf, hh, rfl⟩
  · rw [Firing.keptSlot_traps hd hf]; rfl
  · rw [Firing.keptSlot_ok hd hf, hh]; rfl

theorem drop_traps {n : Fin 32} (hd : w.d = .slot n) {s : State} {c j g : Nat} {x : Group} {l : Firing} (ha : s.Alone c j g x w.hdr l)
    (hf : l.frameless = true) : trapsAlone (.drop w) (.r w) s c j g x l .frameBad := by
  have hk : (l.atWord (s.core c) x).keptSlot w.d = .error .frameBad := Firing.keptSlot_traps hd hf
  refine traps_of (b := .r w) ha rfl ?_
  simp only [lane, hk]
  rfl

end

theorem register_words_trap (w : RWord) :
    plainTraps (.ffree w) w (fun s _ _ r t => r.a.toNat / 2 ^ 26 % 2 ^ 10 ≠ s.host.devnum.toNat ∧ t = .type)
    ∧ plainTraps (.cancel w) w (fun _ _ _ r t =>
        w.mod ≠ 0 ∧ r.a.toNat % 2 ^ 32 ≠ 0xFFFFFFFF ∧ 65536 ≤ r.a.toNat % 2 ^ 32 ∧ t = .type)
    ∧ plainTraps (.perfSet w) w (fun _ _ _ r t => 64 ≤ r.a.toNat % 2 ^ 32 ∧ t = .type)
    ∧ plainTraps (.flimit w) w (fun s c l r t => 256 ≤ r.b.toNat ∧ t = .type
        ∨ r.b.toNat < 256 ∧ (s.core c).blockOf l.job (r.a.toNat % 2 ^ 32) = none ∧ t = .blockAbsent)
    ∧ plainTraps (.stf w) w (fun s c l r t =>
        (l.frameless = true ∨ l.frameSize (s.core c) ≤ r.a.toNat % 2 ^ 32) ∧ t = .frameBad)
    ∧ unaryTraps (.ldf w) w (fun s c l a t => (l.frameless = true ∨ l.frameSize (s.core c) ≤ a.toNat % 2 ^ 32) ∧ t = .frameBad)
    ∧ unaryTraps (.dims w) w (fun _ _ _ a t => (a = 6 ∨ 7 < a.toNat) ∧ t = .type)
    ∧ unaryTraps (.svrd w) w (fun _ _ _ a t => 32 ≤ a.toNat % 2 ^ 32 ∧ t = .type)
    ∧ unaryTraps (.clk w) w (fun _ _ _ a t => 2 ≤ a.toNat % 2 ^ 32 ∧ t = .type)
    ∧ unaryTraps (.perfGet w) w (fun _ _ _ a t => 64 ≤ a.toNat % 2 ^ 32 ∧ t = .type)
    ∧ unaryTraps (.flagsSet w) w (fun _ _ _ a t => 32 ≤ a.toNat ∧ t = .type)
    ∧ unaryTraps (.flagsJoin w) w (fun _ _ _ a t => 32 ≤ a.toNat ∧ t = .type)
    ∧ unaryTraps (.rsplit w) w (fun _ _ _ a t => a.toNat / 2 ^ 32 < a.toNat % 2 ^ 32 ∧ t = .type)
    ∧ ∀ i, w.d = .slot i →
      unaryTraps (.keep w) w (fun s c l a t => l.frameless = true ∧ t = .frameBad
        ∨ l.frameless = false ∧ l.handleOk s c a = false ∧ t = .tileStale)
      ∧ ∀ s c j g x l, s.Alone c j g x w.hdr l → l.frameless = true → trapsAlone (.drop w) (.r w) s c j g x l .frameBad := by
  refine ⟨?ffree, ?cancel, ?perfSet, ?flimit, ?stf, ?ldf, ?dims, ?svrd, ?clk, ?perfGet, flags_traps fun _ => rfl,
    flags_traps fun _ => rfl, ?rsplit, fun i hd => ⟨keep_traps hd, fun s c j g x l ha hf => drop_traps hd ha hf⟩⟩
  case ffree =>
    refine plain_traps_of (fun _ => rfl) (fun _ _ _ _ _ _ _ => rfl) fun s c l r t ⟨h, ht⟩ => ht ▸ check_false_bind ?_ _
    rw [fpDev, bits_eq]
    exact beq_eq_false_iff_ne.2 h
  case cancel =>
    refine plain_traps_of (fun _ => rfl) (fun _ _ _ _ _ _ _ => rfl) fun s c l r t ⟨hm, hn, hb, ht⟩ => ht ▸ needs_fails ?_
    rw [z32_eq, decide_eq_false (Nat.not_lt.2 hb), beq_eq_false_iff_ne.2 hm, beq_eq_false_iff_ne.2 hn]
    rfl
  case perfSet =>
    exact needed_plain_traps (bad := fun _ r => 64 ≤ r.a.toNat % 2 ^ 32) (fun _ => rfl) fun s r h => by
      rw [z32_eq]; exact decide_eq_false (Nat.not_lt.2 h)
  case flimit =>
    refine binary_traps_of (k := fun s c a b l2 => do
        check .type (decide (b.toNat < 256))
        check .blockAbsent ((s.core c).blockOf l2.job (z32 a)).isSome
        return l2.stage (.flimit (z32 a) b.toNat)) (fun _ => rfl) (fun s c gs p n a b l => by rw [State.core_same]; rfl)
      fun s c l a b t h => ?_
    rcases h with ⟨hb, rfl⟩ | ⟨hb, hn, rfl⟩
    · exact check_false_bind (decide_eq_false (Nat.not_lt.2 hb)) _
    · rw [check_bind (decide_eq_true (p := b.toNat < 256) hb), z32_eq,
        show (s.core c).blockOf l.job (a.toNat % 2 ^ 32) = none from hn]
      rfl
  case stf =>
    refine binary_traps_of (k := fun s c a b l2 => do
        let i ← l2.slotIndex (s.core c) a
        l2.writeSlot i b) (fun _ => rfl) (fun s c gs p n a b l => by simp only [Firing.slotIndex_same])
      fun s c l a b t ⟨h, ht⟩ => ?_
    rw [Firing.slotIndex_traps (v := a) h, ht]
    rfl
  case ldf =>
    refine unary_traps_of (k := fun s c a l1 => do
        let i ← l1.slotIndex (s.core c) a
        let (v, l2) ← l1.readSlot (s.core c) i
        l2.writeD w.d v) (fun _ => rfl) (fun s c gs p n a l => by simp only [Firing.slotIndex_same, Firing.readSlot_same])
      fun s c l a t ⟨h, ht⟩ => ?_
    rw [Firing.slotIndex_traps h, ht]
    rfl
  case dims =>
    refine unary_traps_of (k := fun _ _ a l1 => do
        check .type (a != 6 && decide (a.toNat ≤ 7))
        return { l1 with odim := a.toNat }) (fun _ => rfl) (fun _ _ _ _ _ _ _ => rfl) fun s c l a t ⟨h, ht⟩ =>
      ht ▸ check_false_bind ?_ _
    rcases h with rfl | h
    · rfl
    · rw [decide_eq_false (Nat.not_le.2 h), Bool.and_false]
  case svrd =>
    exact indexed_traps (i := .svrd w) (f := fun s c jb n => ((s.job jb).varsAt ((s.job jb).jobCore c)).getD n 0) fun _ => rfl
  case clk => exact indexed_traps (i := .clk w) (f := fun s _ _ n => if n = 0 then s.time else BitVec.ofNat 64 s.clock) fun _ => rfl
  case perfGet => exact indexed_traps (i := .perfGet w) (f := fun s c jb n => (s.core c).counter jb n) fun _ => rfl
  case rsplit =>
    intro s c j g x l ha a l1 t h1 ⟨h, ht⟩
    refine traps_of (i := .rsplit w) (b := .r w) ha rfl (ht ▸ splits_traps (l1 := l1) ?_ h)
    rw [State.counted_same, Firing.read_same]
    exact h1

/-- A send of a tile whose handle is not valid. -/
theorem send_traps {w : SWord} {s : State} {c j g : Nat} {x : Group} {l l1 : Firing} {v : W64} (ha : s.Alone c j g x w.hdr l)
    (hw : w.sty = .tile) (hr : (l.atWord (s.core c) x).read s c w.a = .ok (v, l1)) (hh : l1.handleOk s c v = false) :
    trapsAlone (.send w) (.s w) s c j g x l .tileStale := by
  refine traps_of (i := .send w) (b := .s w) ha rfl ?_
  have hv : (l.atWord (s.core c) x).sendValue (s.counted c j) c w w.a = .error .tileStale := by
    rw [State.counted_same, Firing.sendValue_same, Firing.sendValue, if_neg (by rw [hw]; decide)]
    simp only [hr, bind, Except.bind, if_pos hw, hh]
    rfl
  simp only [sends, lane, hv]
  rfl

theorem tile_words_trap (w : TWord) :
    tileTraps (.talloc w) w (fun _ r => { shapes := shapeWordOk r.t.fc.toNat r.a })
    ∧ tileTraps (.tfree w) w (fun _ _ => {})
    ∧ tileTraps (.tdesc w) w (fun _ r => { shapes := decide (r.b.toNat % 2 ^ 32 < 2) })
    ∧ tileTraps (.tview w) w viewTile
    ∧ tileTraps (.tfill w) w (fun _ r => { shapes := shapeWordOk r.t.fc.toNat r.a })
    ∧ tileTraps (.tcopy w) w copyTile ∧ tileTraps (.tcvt w) w oneTile ∧ tileTraps (.tqnt w) w quantTile
    ∧ tileTraps (.tget w) w elementRule ∧ tileTraps (.tset w) w elementRule
    ∧ tileTraps (.tadd w) w twoTiles ∧ tileTraps (.tsub w) w twoTiles ∧ tileTraps (.tmul w) w twoTiles
    ∧ tileTraps (.tmin w) w twoTiles ∧ tileTraps (.tmax w) w twoTiles ∧ tileTraps (.tcmp w) w twoTiles
    ∧ tileTraps (.tfma w) w fmaTiles ∧ tileTraps (.tabs w) w signTile ∧ tileTraps (.tneg w) w signTile
    ∧ tileTraps (.tsel w) w selTiles ∧ tileTraps (.tpwp w) w oneTile ∧ tileTraps (.tlut w) w oneTile
    ∧ tileTraps (.tred w) w redTileRule ∧ tileTraps (.tscan w) w oneTile ∧ tileTraps (.tbcst w) w bcastTile
    ∧ tileTraps (.ttrn w) w turnTile ∧ tileTraps (.tgth w) w gatherTile ∧ tileTraps (.tsct w) w scatterTile
    ∧ tileTraps (.tspl w) w splitTile ∧ tileTraps (.tcat w) w joinTiles
    ∧ tileTraps (.racc w) w raccRule true
    ∧ tileTraps (.racs w) w (fun _ r => { shapes := decide (r.b.toNat % 2 ^ 32 < 256) }) true
    ∧ tileTraps (.mma w) w matrixRule ∧ tileTraps (.mmas w) w matrixRule
    ∧ tileTraps (.mmaw w) w matrixRule ∧ tileTraps (.mmax w) w matrixRule := by
  iterate 30 refine ⟨tile_traps (fun _ _ _ _ _ => rfl) fun _ => rfl, ?_⟩
  refine ⟨acc_traps (fun _ _ _ _ _ => rfl) fun _ => rfl, acc_traps (fun _ _ _ _ _ => rfl) fun _ => rfl, ?_, ?_, ?_, ?_⟩
  all_goals exact tile_traps (fun _ _ _ _ _ => rfl) fun _ => rfl

/-! ## The obligation -/

/-- The values in the record are those that the word's three operands had. -/
theorem trapsAlone_site {i : Instr} {b : Body} {s : State} {c j g : Nat} {x : Group} {l l3 : Firing} {t : Trap} {a e d : W64}
    (h3 : readsThree s c b.sources.1 b.sources.2.1 b.sources.2.2 (l.atWord (s.core c) x) a e d l3)
    (h : trapsAlone i b s c j g x l t) :
    let m := l.atWord (s.core c) x
    let site : TrapSite := { word := (s.core c).wordAt j x, index := x.pc, a := a, b := e, cd := d, input := some l.first }
    exec i s = .next ((((s.counted c j).takeTrap c m t site).setLane c g 0 { m with dead := true }).endWord c g b.hdr.last) := by
  have hv := Firing.values_of_readsThree (j := j) h3
  rw [trapsAlone, hv] at h
  exact h

/-- Settles O18: each word's check, where it fails, ends its lane before anything is staged. -/
theorem requestTraps : Obligations.RequestTraps := by
  unfold Obligations.RequestTraps
  refine ⟨?tadd, ?ld, tile_words_trap, memory_words_trap, tile_memory_words_trap, engine_words_trap, register_words_trap,
    fun w s c j g x l v l1 ha hw hr hh => send_traps ha hw hr hh⟩
  case tadd =>
    intro w s c j g x l a b d l3 hs hx hr he h3 hva hvb h
    refine trapsAlone_site (b := .t w) h3 ?_
    have ht : tileTraps (.tadd w) w twoTiles := tile_traps (fun _ _ _ _ _ => rfl) fun _ => rfl
    refine (ht s c j g x l ⟨hs, hx, hr, he⟩ a b d l3 h3 (fun h => nomatch h)).2 (fun v hv => ?_) ?_
    · have hm : v ∈ [a, b].eraseDups := hv
      rw [List.mem_eraseDups, List.mem_cons, List.mem_singleton] at hm
      rcases hm with rfl | rfl
      · exact hva
      · exact hvb
    · rcases h with h | h
      · exact .inl ⟨(a, w.fa.toNat), List.mem_cons_self, h⟩
      · refine .inr ?_
        show (broadcasts ((s.core c).opTile b) ((s.core c).opTile a) && _) = false
        rw [h, Bool.false_and]
  case ld =>
    intro w s c j g x l a b d l3 hs hx hr he h3 h
    exact trapsAlone_site (b := .m w) h3 ((memory_words_trap w).1 s c j g x l ⟨hs, hx, hr, he⟩ a b d l3 .align h3 ⟨h, rfl⟩)

end Sys2Proof.Machine
end

section
/-! Traps that software raises, and what a trap does to its job (R127, R142, R393). -/

namespace Sys2Proof.Machine

/-! ## TRAP and BRK -/

/-- Lane `n` of a word that traps `t` in every lane in which it runs (R393). -/
def State.trapLane (s : State) (c j g : Nat) (x : Group) (w : IWord) (t : Trap) (u : State) (n : Nat) : State :=
  match (u.core c).laneAt g n with
  | some l =>
    let m := l.atWord (s.core c) x
    if !l.running then (if l.skipped && !l.dead && !l.ended then u.setLane c g n { l with pc := x.pc } else u)
    else if m.executes w.hdr then
      let site : TrapSite :=
        { word := (s.core c).wordAt j x, index := x.pc, a := m.peek u c w.a, b := m.peek u c w.b, input := some m.first }
      (u.takeTrap c m t site).setLane c g n { m with dead := true }
    else u.setLane c g n m
  | none => u

section
variable {u : State} {c g index n : Nat} {word : W64} {b : Body} {bad : Bool} {f : LaneFn} {l : Firing}

/-- A lane in which a word is switched off only comes to stand at it (R252). -/
theorem runLane_off (hl : (u.core c).laneAt g n = some l) (hr : l.running = true)
    (he : Firing.executes { l with pc := index, shadow := l.shadow || bad } b.hdr = false) :
    u.runLane c g index word b bad f n = u.setLane c g n { l with pc := index, shadow := l.shadow || bad } := by
  simp only [Firing.running, Bool.and_eq_true, Bool.not_eq_true'] at hr
  obtain ⟨⟨hd, hn⟩, hk⟩ := hr
  unfold State.runLane
  rw [hl]
  dsimp only
  rw [if_neg (by simp [hd, hn]), if_neg (by simp [hk]), if_pos (by simp [he])]

/-- A lane that does not run: one that was skipped comes to stand at the word. -/
theorem runLane_idle (hl : (u.core c).laneAt g n = some l) (hr : l.running = false) :
    u.runLane c g index word b bad f n
      = if l.skipped && !l.dead && !l.ended then u.setLane c g n { l with pc := index } else u := by
  unfold State.runLane
  rw [hl]
  dsimp only
  by_cases hd : (l.dead || l.ended) = true
  · rw [if_pos hd, if_neg]
    intro h
    simp only [Bool.and_eq_true, Bool.not_eq_true'] at h
    obtain ⟨⟨-, h1⟩, h2⟩ := h
    simp [h1, h2] at hd
  · have hk : l.skipped = true := by
      simp only [Bool.or_eq_true, not_or, Bool.not_eq_true] at hd
      simpa [Firing.running, hd] using hr
    simp only [Bool.or_eq_true, not_or, Bool.not_eq_true] at hd
    rw [if_neg (by simp [hd]), if_pos hk, if_pos (by simp [hd, hk])]

end

theorem runLane_error (s u : State) (c j g n : Nat) (x : Group) (w : IWord) (t : Trap) :
    u.runLane c g x.pc ((s.core c).wordAt j x) (.i w) ((s.core c).badWords.contains (x.block, x.pc)) (lane fun _ _ _ => .error t) n
      = s.trapLane c j g x w t u n := by
  unfold State.trapLane
  cases hl : (u.core c).laneAt g n with
  | none => rw [State.runLane, hl]
  | some l =>
    dsimp only
    cases hr : l.running with
    | false => exact runLane_idle hl hr
    | true =>
      cases he : (l.atWord (s.core c) x).executes w.hdr with
      | false => exact runLane_off (b := .i w) hl hr he
      | true => exact runLane_trap (b := .i w) hl hr he rfl

theorem issueWord_error {s : State} {c j g : Nat} {x : Group} {w : IWord} {t : Trap} (hs : s.Issues c j g x) :
    issueWord (.i w) (lane fun _ _ _ => .error t) s
      = ((List.range x.lanes.length).foldl (s.trapLane c j g x w t) (s.counted c j)).endWord c g w.hdr.last := by
  unfold issueWord
  rw [hs.issue]
  simp only [hs.group]
  congr 2
  funext u n
  exact runLane_error s u c j g n x w t

theorem takeTrap_eq (s : State) (c : Nat) (l : Firing) (t : Trap) (x : TrapSite) :
    let p := if t.code = 9 then (if (s.job l.job).policy = 2 then 2 else 1) else (s.job l.job).policy
    s.takeTrap c l t x = ((s.putTrap l.job (trapBytes s c l t x p)).count c l.job 3 1).applyPolicy c l p := by
  intro p
  have hp : policyOf (s.job l.job).policy t.code = p := by
    simp only [policyOf, p]
    by_cases h9 : t.code = 9
    · by_cases h2 : (s.job l.job).policy = 2 <;> simp [h9, h2]
    · simp [h9]
  rw [State.takeTrap, hp]

theorem natLe_length (n x : Nat) : (natLe n x).length = n := by
  induction n generalizing x with
  | zero => rfl
  | succ n ih => rw [natLe, List.length_cons, ih]

/-- The bytes of a trap record before its immediate (Table 13.11). -/
def trapHead (s : State) (c : Nat) (l : Firing) (t : Trap) (x : TrapSite) (policy : Nat) : List Byte :=
  natLe 2 t.code ++ natLe 1 l.job ++ natLe 1 l.lane ++ natLe 1 (s.coreFor c l) ++ natLe 1 policy ++ natLe 2 l.block
    ++ natLe 4 l.frame ++ natLe 1 l.entry ++ natLe 1 x.index ++ zeros 2 ++ natLe 4 (s.instId l.job l.inst)

theorem trapHead_length (s : State) (c : Nat) (l : Firing) (t : Trap) (x : TrapSite) (p : Nat) : (trapHead s c l t x p).length = 20 := by
  simp only [trapHead, List.length_append, natLe_length, zeros, List.length_replicate]

theorem trapBytes_head (s : State) (c : Nat) (l : Firing) (t : Trap) (x : TrapSite) (p : Nat) :
    ∃ rest, trapBytes s c l t x p = trapHead s c l t x p ++ (natLe 4 t.imm.toNat ++ rest) := by
  unfold trapBytes trapHead
  simp only [List.append_assoc]
  exact ⟨_, rfl⟩

theorem trapBytes_imm (s : State) (c : Nat) (l : Firing) (t : Trap) (x : TrapSite) (p : Nat) :
    ((trapBytes s c l t x p).drop 20).take 4 = natLe 4 t.imm.toNat := by
  obtain ⟨rest, hr⟩ := trapBytes_head s c l t x p
  rw [hr, List.drop_left' (trapHead_length s c l t x p), List.take_left' (natLe_length _ _)]

theorem roleOk_unused {b : Bool} {sp : Spec} (h : roleOk b .unused sp = true) : sp = .zero := by
  simpa [roleOk] using h

theorem wfI_unused {fsize : Nat} {w : IWord} (h : wfI fsize w .unused .unused = .ok ()) : w.d = .zero ∧ w.a = .zero ∧ w.b = .zero := by
  obtain ⟨_, hs, -⟩ := bind_ok h
  have := need_ok hs
  simp only [Bool.and_eq_true, beq_iff_eq] at this
  obtain ⟨⟨hd, ha⟩, hb⟩ := this
  exact ⟨roleOk_unused hd, roleOk_unused ha, hb⟩

theorem nop_unused {fsize : Nat} {w : RWord} (h : wfR fsize w .unused .unused .unused .unused .none .zero = .ok ()) :
    w.d = .zero ∧ w.a = .zero ∧ w.b = .zero ∧ w.c = .zero := by
  obtain ⟨_, -, h⟩ := bind_ok h
  obtain ⟨_, -, h⟩ := bind_ok h
  obtain ⟨_, hs, -⟩ := bind_ok h
  have := need_ok hs
  simp only [Bool.and_eq_true] at this
  obtain ⟨⟨⟨hd, ha⟩, hb⟩, hc⟩ := this
  exact ⟨roleOk_unused hd, roleOk_unused ha, roleOk_unused hb, roleOk_unused hc⟩

theorem nop_gives (w : RWord) {s : State} {c j g : Nat} {x : Group} (hs : s.Issues c j g x) :
    wordGives (.nop w) w.hdr s c j g x (fun l l' => l' = l) :=
  gives_of_lanes (b := .r w) (F := fun _ _ l => .ok l) hs (fun _ => rfl) (fun _ _ _ _ _ _ => rfl) fun _ _ _ _ => ⟨_, rfl, rfl⟩

/-- Settles O19: TRAP and BRK trap in every lane that they run in; the record holds the immediate. -/
theorem softwareTraps : Obligations.SoftwareTraps := by
  unfold Obligations.SoftwareTraps
  refine ⟨fun w s c j g x hs => ⟨congrArg Host.Outcome.next (issueWord_error hs), congrArg Host.Outcome.next (issueWord_error hs)⟩,
    fun s c l t x => ⟨takeTrap_eq s c l t x, trapBytes_imm s c l t x _⟩, fun imm => ⟨rfl, rfl, rfl, rfl⟩,
    fun fsize w h => ?_, fun fsize w h => nop_unused (isWellFormed_iff.1 h), fun w s c j g x hs => nop_gives w hs⟩
  rcases h with h | h <;> exact wfI_unused (isWellFormed_iff.1 h)

/-! ## The policy of a trap -/

/-- A state in which job 0 freezes on a trap (R127). -/
def freezing : State := ({} : State).setJob 0 { st := .opened, policy := 1 }

/-- Refutes O20: under FREEZE the abort of the firing is counted too (R174), in counter 2 of its job, which the statement leaves as
it was. -/
theorem not_trapPolicy : ¬ Obligations.TrapPolicy := by
  unfold Obligations.TrapPolicy
  intro h
  have hp := (h freezing 0 {} (.soft 0) {}).2.2.2.1 (by decide +kernel)
  have hc := congrArg (fun s : State => Table.getD (s.core 0).perf 2 0) hp
  exact absurd hc (by decide +kernel)

end Sys2Proof.Machine
end

section
/-! Predicates, what a word whose predicate is false leaves alone, and what each word leaves alone (R139, R252). -/

namespace Sys2Proof.Machine

/-! ## Every instruction word issues its word -/

/-- An instruction that has an encoding runs its lane function in the lanes of the issuing group. -/
theorem exec_word {i : Instr} {op : Nat} {b : Body} (h : i.form = some (op, b)) : ∃ f : LaneFn, ∀ s, exec i s = word b f s := by
  cases i
  all_goals cases h <;> exact ⟨_, fun _ => rfl⟩

/-! ## Predicates -/

theorem Firing.executes_zero (l : Firing) {h : Hdr} (hp : h.pidx = 0) : l.executes h = !h.pneg := by
  rw [Firing.executes, hp]
  exact Bool.true_xor _

theorem Firing.pred_setPred_same {l : Firing} (i : Nat) (b : Bool) (hl : l.preds.length = 3) (h1 : 1 ≤ i) (h3 : i ≤ 3) :
    (l.setPred i b).pred i = b := by
  rw [Firing.pred, if_neg (by omega), Firing.setPred, List.getD_eq_getElem?_getD, getElem?_setAt_same _ _ _ (by omega)]
  rfl

theorem Firing.pred_setPred_ne (l : Firing) {i n : Nat} (b : Bool) (h : n ≠ i) (hi : 1 ≤ i) (hn : 1 ≤ n) :
    (l.setPred i b).pred n = l.pred n := by
  rw [Firing.pred, Firing.pred, if_neg (by omega), if_neg (by omega), Firing.setPred, List.getD_eq_getElem?_getD,
    List.getD_eq_getElem?_getD, getElem?_setAt_ne _ _ _ _ (by omega)]

/-! ## A word that is switched off -/

/-- The lanes of a word that is switched off in each of them, up to the `n`-th. -/
theorem foldl_runLane_off {s : State} {c j g : Nat} {x : Group} {b : Body} {f : LaneFn} (word : W64)
    (hg : (s.core c).groups[g]? = some x)
    (hoff : ∀ l ∈ x.lanes, l.running = true ∧ (l.atWord (s.core c) x).executes b.hdr = false) (n : Nat) (hn : n ≤ x.lanes.length) :
    (List.range n).foldl (fun t n => t.runLane c g x.pc word b ((s.core c).badWords.contains (x.block, x.pc)) f n) (s.counted c j)
      = (s.counted c j).withLanes c g x ((x.lanes.take n).map (·.atWord (s.core c) x) ++ x.lanes.drop n) := by
  have hg' : ((s.counted c j).core c).groups[g]? = some x := by rw [State.core_counted]; exact hg
  induction n with
  | zero =>
    exact foldl_runLane (b := b) (F := fun _ _ l => .ok l) word hg (fun _ _ => rfl) (fun _ _ _ _ => ⟨_, rfl⟩) 0 (Nat.zero_le _)
  | succ n ih =>
    have hlt : n < x.lanes.length := hn
    obtain ⟨hr, he⟩ := hoff _ (List.getElem_mem hlt)
    have hlen : ((x.lanes.take n).map (·.atWord (s.core c) x)).length = n := by simp [Nat.min_eq_left (Nat.le_of_lt hlt)]
    rw [List.range_succ, List.foldl_append, ih (Nat.le_of_lt hn), List.foldl_cons, List.foldl_nil, List.drop_eq_getElem_cons hlt]
    have hl : (((s.counted c j).withLanes c g x ((x.lanes.take n).map (·.atWord (s.core c) x)
        ++ x.lanes[n] :: x.lanes.drop (n + 1))).core c).laneAt g n = some x.lanes[n] := by
      rw [State.laneAt_withLanes _ _ _ _ _ _ hg', List.getElem?_append_right (Nat.le_of_eq hlen), hlen, Nat.sub_self]
      rfl
    rw [runLane_off hl hr he, State.setLane_withLanes _ _ _ _ _ _ _ hg']
    have hset := setAt_append_cons ((x.lanes.take n).map (·.atWord (s.core c) x)) (x.lanes.drop (n + 1)) x.lanes[n]
      (x.lanes[n].atWord (s.core c) x)
    rw [hlen] at hset
    rw [show (Firing.mk .. : Firing) = x.lanes[n].atWord (s.core c) x from rfl, hset, List.take_succ_eq_append_getElem hlt,
      List.map_append, List.map_singleton, List.append_assoc, List.singleton_append]

theorem issueWord_off {s : State} {c j g : Nat} {x : Group} {b : Body} {f : LaneFn} (hs : s.Issues c j g x)
    (hoff : ∀ l ∈ x.lanes, l.running = true ∧ (l.atWord (s.core c) x).executes b.hdr = false) :
    issueWord b f s = ((s.counted c j).withLanes c g x (x.lanes.map (·.atWord (s.core c) x))).endWord c g b.hdr.last := by
  have h := foldl_runLane_off (j := j) (f := f) ((s.core c).wordAt j x) (Core.issuing_group hs.group).1 hoff x.lanes.length (Nat.le_refl _)
  rw [List.take_length, List.drop_length, List.append_nil] at h
  unfold issueWord
  rw [hs.issue]
  simp only [hs.group]
  exact congrArg (fun t => State.endWord t c g b.hdr.last) h

/-- Settles O21: whatever a word does, a lane in which it is switched off only comes to stand at it. -/
theorem predication : Obligations.Predication := by
  unfold Obligations.Predication
  refine ⟨?_, fun l h => ⟨l.executes_zero, fun i b hl h1 h3 hp => ?_, fun i n b => l.pred_setPred_ne b⟩⟩
  · intro s c j g x hs off after i op b hf hoff
    obtain ⟨f, he⟩ := exec_word hf
    rw [he]
    exact congrArg Host.Outcome.next (issueWord_off hs hoff)
  · rw [Firing.executes, hp, Firing.pred_setPred_same i b hl h1 h3]

end Sys2Proof.Machine
end

section
/-! What a word leaves alone, and what the commit of a firing does (R139). -/

namespace Sys2Proof.Machine

/-! ## A word that is not the last of its body -/

theorem removeAt_setAt {α : Type} (xs : List α) (i : Nat) (v : α) : removeAt (setAt xs i v) i = removeAt xs i := by
  induction xs generalizing i with
  | nil => rfl
  | cons x xs ih => cases i <;> simp [setAt, removeAt, ih]

/-- The groups of a core after a word at which the lanes of group `g`, which is `x`, become `ls`. -/
def groupsAfter (gs : List Group) (g : Nat) (x : Group) (ls : List Firing) : List Group :=
  if ls.all (fun l => l.dead) then removeAt gs g else setAt gs g { x with lanes := ls, pc := x.pc + 1 }

theorem State.onCore_onCore (s : State) (c : Nat) (f h : Core → Core) : (s.onCore c f).onCore c h = s.onCore c (fun k => h (f k)) := by
  simp [State.onCore, State.setCore, State.core, Table.put_put]

theorem endWord_going {s : State} {c g : Nat} {x : Group} (ls : List Firing) (hg : (s.core c).groups[g]? = some x) :
    (s.withLanes c g x ls).endWord c g false = s.onCore c (fun k => { k with groups := groupsAfter k.groups g x ls }) := by
  have hlt : g < (s.core c).groups.length := (List.getElem?_eq_some_iff.1 hg).1
  unfold State.endWord groupsAfter
  rw [State.core_withLanes]
  simp only [getElem?_setAt_same _ _ _ hlt, Bool.false_eq_true, if_false]
  by_cases hd : ls.all (fun l => l.dead) = true
  · simp only [if_pos hd, State.withLanes, State.onCore_onCore, removeAt_setAt]
  · simp only [if_neg hd, State.withLanes, State.onCore_onCore, setAt_setAt]

theorem endWord_last {s : State} {c g : Nat} {x : Group} (hg : (s.core c).groups[g]? = some x) (hl : ∃ l ∈ x.lanes, l.dead = false) :
    s.endWord c g true = (s.onCore c (fun k => { k with
      groups := setAt k.groups g { x with lanes := x.lanes.map (fun l => { l with ended := true }) } })).resumeCommits c := by
  have hd : ¬ x.lanes.all (fun l => l.dead) = true := by simpa using hl
  unfold State.endWord
  rw [hg]
  simp only [if_neg hd, if_true]

/-! ## The commit of a lane -/

section
variable {s : State} {c : Nat} {l : Firing}

theorem commitLane_trap (he : l.entered = false) {t : Trap} {i : Nat} (ht : l.commitTrap s c = some (t, i)) :
    s.commitLane c l = (s.takeTrap c l t (s.siteAt c l i), none) := by
  unfold State.commitLane
  simp only [he, ht, Bool.false_eq_true, if_false]

theorem commitLane_done (he : l.entered = false) (ht : l.commitTrap s c = none) (hs : l.shadow = false) {t u : State} {m : Firing}
    (hm : s.enterCommit c { l with frees := l.requests.filterMap (fun r => match r.instr with | .tfree _ => some r.a | _ => none) }
      = (t, m))
    (hu : ((t.count c l.job 1 1).progress l.job l.inst).stepRequests c m.shadow m.requests = (u, [])) :
    s.commitLane c l = (u.finishCommit c m, none) := by
  simp only [he, hs] at hm
  unfold State.commitLane
  simp only [he, ht, hs, Bool.false_eq_true, if_false]
  erw [hm]
  simp only [hu, List.isEmpty_nil, if_true]

end

/-! ## Steps 1 to 3 -/

theorem foldl_applyStaged (l : Firing) (xs : List Staged) (k : Core) (hs : List W64) :
    (xs.foldl (fun (p : Core × List W64) x => let (k, r) := p.1.applyStaged l x; (k, p.2 ++ r)) (k, hs)).1
      = xs.foldl (fun k x => (k.applyStaged l x).1) k := by
  induction xs generalizing k hs with
  | nil => rfl
  | cons x xs ih => exact ih _ _

/-- What a core becomes by a commit's slot writes, references and limits. -/
theorem enterCommit_core (s : State) (c : Nat) (l : Firing) :
    (s.enterCommit c l).1.core c
      = l.increments.foldl (fun k h => k.retain (handleIndex h)) (l.staged.foldl (fun k x => (k.applyStaged l x).1) (s.core c)) := by
  simp only [State.enterCommit, State.core_setCore_same]
  rw [foldl_applyStaged]

/-! ### References -/

section
variable (hs : List W64) (k : Core)

theorem foldl_retain_slot (n : Nat) : (hs.foldl (fun k h => k.retain (handleIndex h)) k).slot n = k.slot n := by
  induction hs generalizing k with
  | nil => rfl
  | cons h hs ih => exact ih _

theorem foldl_retain_blocks : (hs.foldl (fun k h => k.retain (handleIndex h)) k).blocks = k.blocks := by
  induction hs generalizing k with
  | nil => rfl
  | cons h hs ih => exact ih _

theorem tile_retain (i n : Nat) : ((k.retain i).tile n).refcnt = (k.tile n).refcnt + if i = n then 1 else 0 := by
  simp only [Core.retain, Core.onTile, Core.setTile, Core.tile, Table.getD_put]
  by_cases h : i = n
  · subst h; simp
  · rw [if_neg (fun e => h e.symm), if_neg h]; rfl

theorem foldl_retain_refcnt (i : Nat) : ((hs.foldl (fun k h => k.retain (handleIndex h)) k).tile i).refcnt
    = (k.tile i).refcnt + countIf (fun h => handleIndex h == i) hs := by
  induction hs generalizing k with
  | nil => rfl
  | cons h hs ih =>
    rw [List.foldl_cons, ih, tile_retain]
    by_cases hi : handleIndex h = i <;> simp [countIf, hi, Nat.add_assoc, Nat.add_comm 1]

end

/-! ### Slots -/

theorem applyStaged_slot_same {x : Staged} {n : Nat} {v : W64} {kept : Bool} (k : Core) (l : Firing) (h : x.slotWrite = some (n, v, kept)) :
    (k.applyStaged l x).1.slot n = { k.slot n with val := v, poison := l.shadow, kept := kept, owner := some l.job } := by
  cases x <;> simp only [Staged.slotWrite, Option.some.injEq, Prod.mk.injEq, reduceCtorEq] at h <;> obtain ⟨rfl, rfl, rfl⟩ := h <;>
    simp [Core.applyStaged, Core.commitWrite]

theorem Core.slot_setSlot_ne (k : Core) {i n : Nat} (x : Slot) (h : n ≠ i) : (k.setSlot i x).slot n = k.slot n := by
  simp [Core.slot, Core.setSlot, Table.getD_put_ne _ _ _ _ _ h]

theorem applyStaged_slot_ne {x : Staged} {n : Nat} (k : Core) (l : Firing) (h : ∀ q, x.slotWrite = some q → q.1 ≠ n) :
    (k.applyStaged l x).1.slot n = k.slot n := by
  cases x with
  | write a v => exact k.slot_setSlot_ne _ (h _ rfl).symm
  | keep a v i => exact k.slot_setSlot_ne _ (h _ rfl).symm
  | drop a => exact k.slot_setSlot_ne _ (h _ rfl).symm
  | flimit b m =>
    unfold Core.applyStaged
    dsimp only
    split <;> rfl
  | _ => rfl

theorem foldl_applyStaged_slot_ne {n : Nat} (l : Firing) (xs : List Staged) (k : Core)
    (h : ∀ y ∈ xs, ∀ q, y.slotWrite = some q → q.1 ≠ n) : (xs.foldl (fun k x => (k.applyStaged l x).1) k).slot n = k.slot n := by
  induction xs generalizing k with
  | nil => rfl
  | cons x xs ih =>
    rw [List.foldl_cons, ih _ fun y hy => h y (List.mem_cons_of_mem _ hy), applyStaged_slot_ne k l (h x List.mem_cons_self)]

/-! ### Tiles and limits -/

theorem applyStaged_tiles (k : Core) (l : Firing) (x : Staged) : (k.applyStaged l x).1.tiles = k.tiles := by
  cases x with
  | flimit b m =>
    unfold Core.applyStaged
    dsimp only
    split <;> rfl
  | _ => rfl

theorem foldl_applyStaged_tiles (l : Firing) (xs : List Staged) (k : Core) :
    (xs.foldl (fun k x => (k.applyStaged l x).1) k).tiles = k.tiles := by
  induction xs generalizing k with
  | nil => rfl
  | cons x xs ih => rw [List.foldl_cons, ih, applyStaged_tiles]

/-- A staged item that sets no limit of the block leaves it. -/
theorem applyStaged_block_ne {x : Staged} {b : Nat} (k : Core) (l : Firing) (h : ∀ m, x ≠ .flimit b m) :
    Table.find (k.applyStaged l x).1.blocks b = Table.find k.blocks b := by
  cases x with
  | flimit a m =>
    have hne : b ≠ a := fun e => h m (by rw [e])
    unfold Core.applyStaged
    dsimp only
    split
    · exact Table.find_put_ne _ _ _ _ hne
    · rfl
  | _ => rfl

theorem applyStaged_limit {b n : Nat} {k : Core} {blk : Block} (l : Firing) (h : Table.find k.blocks b = some blk) :
    Table.find (k.applyStaged l (.flimit b n)).1.blocks b = some { blk with limit := n } := by
  simp only [Core.applyStaged, h, Table.find_put_same]

/-- Whatever is staged, a block stays but for its limit. -/
theorem foldl_applyStaged_block {b : Nat} (l : Firing) (xs : List Staged) {k : Core} {blk : Block} (h : Table.find k.blocks b = some blk) :
    ∃ m, Table.find (xs.foldl (fun k x => (k.applyStaged l x).1) k).blocks b = some { blk with limit := m } := by
  induction xs generalizing k blk with
  | nil => exact ⟨blk.limit, h⟩
  | cons x xs ih =>
    by_cases hx : ∃ m, x = .flimit b m
    · obtain ⟨m, rfl⟩ := hx
      exact ih (blk := { blk with limit := m }) (applyStaged_limit l h)
    · exact ih ((applyStaged_block_ne k l fun m e => hx ⟨m, e⟩).trans h)

theorem foldl_applyStaged_block_ne {b : Nat} (l : Firing) (xs : List Staged) (k : Core) (h : ∀ y ∈ xs, ∀ m, y ≠ .flimit b m) :
    Table.find (xs.foldl (fun k x => (k.applyStaged l x).1) k).blocks b = Table.find k.blocks b := by
  induction xs generalizing k with
  | nil => rfl
  | cons x xs ih =>
    rw [List.foldl_cons, ih _ fun y hy => h y (List.mem_cons_of_mem _ hy), applyStaged_block_ne k l (h x List.mem_cons_self)]

/-! ### Together -/

section
variable (s : State) (c : Nat) (l : Firing)

theorem enterCommit_written {xs ys : List Staged} {x : Staged} {n : Nat} {v : W64} {kept : Bool} (h : l.staged = xs ++ x :: ys)
    (hx : x.slotWrite = some (n, v, kept)) (hy : ∀ y ∈ ys, ∀ q, y.slotWrite = some q → q.1 ≠ n) :
    let y := ((s.enterCommit c l).1.core c).slot n
    y.val = v ∧ y.kept = kept ∧ y.poison = l.shadow := by
  rw [enterCommit_core, foldl_retain_slot, h, List.foldl_append, List.foldl_cons, foldl_applyStaged_slot_ne l ys _ hy,
    applyStaged_slot_same _ _ hx]
  exact ⟨rfl, rfl, rfl⟩

theorem enterCommit_unwritten {n : Nat} (h : ∀ y ∈ l.staged, ∀ q, y.slotWrite = some q → q.1 ≠ n) :
    ((s.enterCommit c l).1.core c).slot n = (s.core c).slot n := by
  rw [enterCommit_core, foldl_retain_slot, foldl_applyStaged_slot_ne l _ _ h]

theorem enterCommit_refcnt (i : Nat) : (((s.enterCommit c l).1.core c).tile i).refcnt
    = ((s.core c).tile i).refcnt + countIf (fun h => handleIndex h == i) l.increments := by
  rw [enterCommit_core, foldl_retain_refcnt, Core.tile, Core.tile, foldl_applyStaged_tiles]

theorem enterCommit_limit {xs ys : List Staged} {b n : Nat} {blk : Block} (h : l.staged = xs ++ .flimit b n :: ys)
    (hy : ∀ y ∈ ys, ∀ m, y ≠ .flimit b m) (hb : Table.find (s.core c).blocks b = some blk) :
    Table.find ((s.enterCommit c l).1.core c).blocks b = some { blk with limit := n } := by
  obtain ⟨m, hm⟩ := foldl_applyStaged_block l xs hb
  rw [enterCommit_core, foldl_retain_blocks, h, List.foldl_append, List.foldl_cons, foldl_applyStaged_block_ne l ys _ hy,
    applyStaged_limit l hm]

end

/-! ## Steps 5 to 7 -/

/-- Step 6 of a firing that is not in shadow. -/
def Core.raiseFlags (k : Core) (l : Firing) : Core :=
  let f := Table.getD k.xflags l.job 0
  let g := l.staged.foldl Staged.flags f
  if g = f then k else { k with xflags := Table.put k.xflags l.job g }

theorem foldl_fixed {α β : Type} {f : α → β → α} {a : α} {xs : List β} (h : ∀ x ∈ xs, f a x = a) : xs.foldl f a = a := by
  induction xs with
  | nil => rfl
  | cons x xs ih => rw [List.foldl_cons, h x List.mem_cons_self, ih fun y hy => h y (List.mem_cons_of_mem _ hy)]

theorem stepSend_silent {s : State} {c : Nat} {l : Firing} {x : Staged} (h : x.silent = true) : s.stepSend c l x = s := by
  cases x with
  | send t i => cases h
  | steal v t => cases h
  | stealReply n t => cases h
  | _ => rfl

theorem stepCounter_silent {s : State} {c : Nat} {l : Firing} {x : Staged} (h : x.silent = true) : s.stepCounter c l x = s := by
  cases x with
  | counter r => cases h
  | _ => rfl

/-- What a core becomes by the last steps of a commit that sends nothing. -/
theorem finishCommit_silent {s : State} {c : Nat} {l : Firing} (h : ∀ x ∈ l.staged, x.silent = true) :
    (s.finishCommit c l).core c = l.release.foldl (fun k h => k.releaseHandle (s.coreFor c l) l.job h)
      (l.frees.foldl (fun k h => k.freeAtCommit h) (if l.shadow then s.core c else (s.core c).raiseFlags l)) := by
  have hsend : l.staged.foldl (fun t x => t.stepSend c l x) s = s := foldl_fixed fun x hx => stepSend_silent (h x hx)
  have hcount : l.staged.foldl (fun t x => t.stepCounter c l x) s = s := foldl_fixed fun x hx => stepCounter_silent (h x hx)
  unfold State.finishCommit
  simp only [hsend, hcount, State.core_onCore_same]
  rfl

theorem releaseHandle_xflags (k : Core) (jc job : Nat) (v : W64) : (k.releaseHandle jc job v).xflags = k.xflags := by
  unfold Core.releaseHandle
  split <;> rfl

theorem foldl_release_xflags (hs : List W64) (k : Core) (jc job : Nat) :
    (hs.foldl (fun k h => k.releaseHandle jc job h) k).xflags = k.xflags := by
  induction hs generalizing k with
  | nil => rfl
  | cons h hs ih => rw [List.foldl_cons, ih, releaseHandle_xflags]

theorem foldl_free_xflags (hs : List W64) (k : Core) : (hs.foldl (fun k h => k.freeAtCommit h) k).xflags = k.xflags := by
  induction hs generalizing k with
  | nil => rfl
  | cons h hs ih => rw [List.foldl_cons, ih]; rfl

theorem raiseFlags_job (k : Core) (l : Firing) :
    Table.getD (k.raiseFlags l).xflags l.job 0 = l.staged.foldl Staged.flags (Table.getD k.xflags l.job 0) := by
  unfold Core.raiseFlags
  dsimp only
  split
  · next h => exact h.symm
  · exact Table.getD_put_same _ _ _ _

theorem raiseFlags_other (k : Core) (l : Firing) {j : Nat} (h : j ≠ l.job) :
    Table.getD (k.raiseFlags l).xflags j 0 = Table.getD k.xflags j 0 := by
  unfold Core.raiseFlags
  dsimp only
  split
  · rfl
  · exact Table.getD_put_ne _ _ _ _ _ h

theorem raiseFlags_tiles (k : Core) (l : Firing) : (k.raiseFlags l).tiles = k.tiles := by
  unfold Core.raiseFlags
  dsimp only
  split <;> rfl

theorem opTile_onTile_same (k : Core) (v : W64) (f : Tile → Tile) : (k.onTile (handleIndex v) f).opTile v = f (k.opTile v) := by
  simp [Core.opTile, Core.onTile, Core.setTile, Core.tile]

theorem opTile_of_tiles {k k1 : Core} (h : k.tiles = k1.tiles) (v : W64) : k.opTile v = k1.opTile v := by
  rw [Core.opTile, Core.opTile, Core.tile, Core.tile, h]

theorem handleOk_of_tiles {k k1 : Core} (h : k.tiles = k1.tiles) (jc job : Nat) (v : W64) : k.handleOk jc job v = k1.handleOk jc job v := by
  rw [Core.handleOk, Core.handleOk, Core.tile, Core.tile, h]

theorem opTile_freeAtCommit {k : Core} {v : W64} (h : (k.opTile v).st.live = true) :
    ((k.freeAtCommit v).opTile v).refcnt = 0 ∧ ((k.freeAtCommit v).opTile v).st = .freeing := by
  have ht : (k.freeAtCommit v).opTile v = { k.opTile v with refcnt := 0, st := .freeing } :=
    (opTile_onTile_same k v _).trans (if_pos h)
  rw [ht]
  exact ⟨rfl, rfl⟩

theorem opTile_releaseHandle {k : Core} {jc job : Nat} {v : W64} (h : k.handleOk jc job v = true) (h2 : 2 ≤ (k.opTile v).refcnt) :
    ((k.releaseHandle jc job v).opTile v).refcnt = (k.opTile v).refcnt - 1 := by
  have hl : (k.opTile v).st.live = true := by
    simp only [Core.handleOk, Bool.and_eq_true] at h
    exact h.1.1.1.2
  rw [Core.releaseHandle, if_pos h, Core.release, opTile_onTile_same, hl, if_neg (by decide), if_neg (by omega)]

section
variable {s : State} {c : Nat} {l : Firing} (h : ∀ x ∈ l.staged, x.silent = true)
include h

theorem finishCommit_xflags :
    ((s.finishCommit c l).core c).xflags = (if l.shadow then s.core c else (s.core c).raiseFlags l).xflags := by
  rw [finishCommit_silent h, foldl_release_xflags, foldl_free_xflags]

theorem finishCommit_other {j : Nat} (hj : j ≠ l.job) :
    Table.getD ((s.finishCommit c l).core c).xflags j 0 = Table.getD (s.core c).xflags j 0 := by
  rw [finishCommit_xflags h]
  split
  · rfl
  · exact raiseFlags_other _ _ hj

theorem finishCommit_freed (hs : l.shadow = false) {v : W64} (hf : l.frees = [v]) (hr : l.release = [])
    (hv : ((s.core c).opTile v).st.live = true) :
    (((s.finishCommit c l).core c).opTile v).refcnt = 0 ∧ (((s.finishCommit c l).core c).opTile v).st = .freeing := by
  have ht : ((s.core c).raiseFlags l).opTile v = (s.core c).opTile v := by
    rw [Core.opTile, Core.opTile, Core.tile, Core.tile, raiseFlags_tiles]
  have hl : (((s.core c).raiseFlags l).opTile v).st.live = true := by rw [opTile_of_tiles (raiseFlags_tiles _ _)]; exact hv
  rw [finishCommit_silent h, hf, hr, hs]
  exact opTile_freeAtCommit hl

theorem finishCommit_released {v : W64} (hf : l.frees = []) (hr : l.release = [v])
    (hv : (s.core c).handleOk (s.coreFor c l) l.job v = true) (h2 : 2 ≤ ((s.core c).opTile v).refcnt) :
    (((s.finishCommit c l).core c).opTile v).refcnt = ((s.core c).opTile v).refcnt - 1 := by
  have ht : (if l.shadow then s.core c else (s.core c).raiseFlags l).tiles = (s.core c).tiles := by
    split
    · rfl
    · exact raiseFlags_tiles _ _
  rw [finishCommit_silent h, hf, hr, ← opTile_of_tiles ht v]
  exact opTile_releaseHandle ((handleOk_of_tiles ht _ _ v).trans hv) (Nat.le_trans h2 (Nat.le_of_eq (by rw [← opTile_of_tiles ht v]; rfl)))

end

/-! ## The obligation -/

theorem word_leaves {i : Instr} {h : Hdr} {s : State} {c j g : Nat} {x : Group} {R : Firing → Firing → Prop} {t : State}
    (hs : s.Issues c j g x) (hl : h.last = false) (hw : wordGives i h s c j g x R) (ht : exec i s = .next t) :
    ∃ ls : List Firing, t = (s.counted c j).onCore c (fun k => { k with groups := groupsAfter k.groups g x ls }) := by
  obtain ⟨ls, he, -, -⟩ := hw
  have hg : ((s.counted c j).core c).groups[g]? = some x := by rw [State.core_counted]; exact (Core.issuing_group hs.group).1
  rw [ht, hl, endWord_going ls hg, Host.Outcome.next.injEq] at he
  exact ⟨ls, he⟩

/-- Settles O22: a word that ends no body changes only the groups of its core; the last one commits its lanes step by step. -/
theorem wordFrame : Obligations.WordFrame := by
  unfold Obligations.WordFrame
  refine ⟨fun i h s c j g x R t hs hl hw ht => ?_, fun s c g x hg hl => endWord_last hg hl,
    fun s c l he => ⟨fun t i ht => commitLane_trap he ht, ?_⟩,
    ?_, ?_⟩
  · obtain ⟨ls, rfl⟩ := word_leaves hs hl hw ht
    refine ⟨⟨ls, rfl⟩, fun _ => rfl, fun _ => rfl, rfl, rfl, rfl, rfl, rfl, rfl, fun d hd => ?_, ?_⟩
    · rw [State.core_onCore_ne _ _ _ _ hd, State.counted, State.core_onCore_ne _ _ _ _ hd]
      rfl
    · rw [State.core_onCore_same, State.core_counted]
      exact ⟨rfl, rfl, rfl, rfl, rfl, rfl, rfl, rfl⟩
  · intro ht hs t m u freed hm hu
    exact commitLane_done he ht hs hm hu
  · intro s c l k
    exact ⟨fun xs x ys n v kept h hx hy => enterCommit_written s c l h hx hy, fun n h => enterCommit_unwritten s c l h,
      enterCommit_refcnt s c l, fun xs ys b n h hy blk hb => enterCommit_limit s c l h hy hb⟩
  · intro s c l h k
    refine ⟨fun hs => ?_, fun hs => ?_, fun j hj => finishCommit_other h hj,
      fun v hs hf hr hv => finishCommit_freed h hs hf hr hv, fun v hf hr hv h2 => finishCommit_released h hf hr hv h2⟩
    · rw [finishCommit_xflags h, if_pos hs]
    · rw [finishCommit_xflags h, if_neg (by rw [hs]; decide), raiseFlags_job]

end Sys2Proof.Machine
end

section
/-! What a step runs, and what reset leaves. -/

namespace Sys2Proof.Machine

/-- Settles O54: the meaning of every instruction and event is a next state. -/
theorem eventsNeverStop : Obligations.EventsNeverStop := by
  unfold Obligations.EventsNeverStop
  intro i s _
  cases i
  all_goals exact ⟨_, rfl⟩

/-! ## Fetching -/

section
variable {s : State} {c j g : Nat} {x : Group}

theorem step_word {b : Block} {w : W64} {i : Instr} (hs : s.Issues c j g x) (hb : (s.core c).blockOf j x.block = some b)
    (hw : b.code[x.pc]? = some w) (hd : decode w = .ok i) : step s = exec i s := by
  have h : s.wordAt c j = some (some w) := by simp only [State.wordAt, hs.group, hb, hw]
  simp only [step, State.fetch, hs.issue, h, hd]

theorem step_without_group (hi : s.issue = some (c, j)) (hg : (s.core c).issuing j = none) : step s = .next { s with issue := none } := by
  simp only [step, State.fetch, hi, State.wordAt, hg]

theorem step_input {y : Input} {rest : List Input} (hi : s.issue = none) (ha : s.agenda = y :: rest) :
    step s = exec y.event ((({ s with agenda := rest, enginesRest := y.rest } : State).tick y.clocks).hostWrites y.host) := by
  simp only [step, State.fetch, hi, ha]

theorem step_idle (hi : s.issue = none) (ha : s.agenda = []) : step s = .next s := by
  simp only [step, State.fetch, hi, ha]

end

/-- Settles O53: the cases of the fetch. -/
theorem stepFetches : Obligations.StepFetches := by
  unfold Obligations.StepFetches
  exact fun s => ⟨fun c j g x b w i hs hb hw hd => step_word hs hb hw hd, fun c j hi hg => step_without_group hi hg,
    fun x rest hi ha => step_input hi ha, step_idle⟩

/-! ## Reset -/

/-- Settles O55: reset lists no byte. -/
theorem memoryAtReset : Obligations.MemoryAtReset := by
  unfold Obligations.MemoryAtReset
  exact ⟨rfl, rfl, rfl, rfl⟩

/-- Settles O52: the registers as reset leaves them. -/
theorem resetState : Obligations.ResetState := by
  unfold Obligations.ResetState
  refine ⟨rfl, rfl, rfl, rfl, rfl, rfl, rfl, rfl, rfl, rfl, rfl, rfl, ?_, rfl, rfl, rfl, rfl, rfl, rfl, rfl, ?_, ?_, ?_, ?_, ?_⟩
  · decide +kernel
  all_goals intros; rfl

end Sys2Proof.Machine
end

section
/-! Resets, power, temperature and the power cap (R27, R28, R30, R31, R39, R43). -/

namespace Sys2Proof.Machine

section
variable {s : State}

theorem romLevel_eq (h : Hkc) : h.romLevel = if h.fuseOk then Level.rom else .romFail := by
  unfold Hkc.romLevel
  cases h.fuseOk <;> rfl

theorem romCode_eq (h : Hkc) : h.romCode = if h.fuseOk then (0 : BitVec 8) else 0x0A := by
  unfold Hkc.romCode
  cases h.fuseOk <;> rfl

theorem exec_reset (ha : s.hkc.aux = true) (hh : s.hkc.main = false ∨ s.hkc.level ≠ .halted) : exec .fundamentalReset s
    = .next (s.cold { lastOff := if s.hkc.main then 0 else s.hkc.lastOff, fuseOk := s.hkc.fuseOk, level := s.hkc.romLevel,
                      failCode := s.hkc.romCode }) := by
  have hc : ¬ (!s.hkc.aux || (s.hkc.main && s.hkc.level == .halted)) = true := by
    rcases hh with h | h <;> simp [ha, h]
  exact congrArg Host.Outcome.next (if_neg hc)

theorem exec_reset_ignored (h : s.hkc.aux = false ∨ (s.hkc.main = true ∧ s.hkc.level = .halted)) : exec .fundamentalReset s = .next s := by
  have hc : (!s.hkc.aux || (s.hkc.main && s.hkc.level == .halted)) = true := by
    rcases h with h | ⟨h1, h2⟩
    · simp [h]
    · simp [h1, h2]
  exact congrArg Host.Outcome.next (if_pos hc)

/-- What a temperature that is kept reports (R28). -/
def State.sensed (s : State) (sensor : Nat) (temp : BitVec 16) : State :=
  { s with hkc := { s.hkc with tsense := Table.put s.hkc.tsense sensor temp } }

/-- The THERMAL event of a reading (Table 3.13). -/
def State.thermal (s : State) (sensor : Nat) (temp : BitVec 16) (action : Nat) : State :=
  (s.sensed sensor temp).event 0x000E 0xFF (natLe 1 sensor ++ natLe 2 temp.toNat ++ natLe 1 action)

theorem exec_temperature (hm : s.hkc.main = true) {sensor : Nat} (hs : sensor < 90) (temp : BitVec 16) :
    exec (.temperatureThreshold sensor temp) s = .next (
      if 1840 ≤ temp.toInt then (s.thermal sensor temp 1).powerOff true 1 .halted
      else if 1600 ≤ temp.toInt then (s.thermal sensor temp 0).lowerLimits else s.sensed sensor temp) := by
  change execTemperatureThreshold .. = _
  rw [execTemperatureThreshold, powered_main hm]
  exact congrArg Host.Outcome.next (if_neg (Nat.not_le.2 hs))

theorem exec_powerCapWindow (hm : s.hkc.main = true) (avg peak : Nat) :
    let kept : State := { s with hkc := { s.hkc with pwrAvg := BitVec.ofNat 12 avg, pwrPeak := BitVec.ofNat 12 peak } }
    exec (.powerCapWindow avg peak) s = .next (if s.hkc.pwrCap.toNat < avg then kept.lowerLimits
      else ({ kept with draws := kept.draws + 1 } : State).setLimits (fun _ => (Config.freeWord kept.draws).toNat % 257)) := by
  intro kept
  change execPowerCapWindow .. = _
  rw [execPowerCapWindow, powered_main hm]
  rfl

end

/-- Settles O23: each event by the cases of its meaning. -/
theorem powerEvents : Obligations.PowerEvents := by
  unfold Obligations.PowerEvents
  intro s bare level code
  refine ⟨fun ha hh => ?reset, exec_reset_ignored, rfl, fun hm => ?undervoltage, fun fuses => ⟨fun ha => ?present, fun ha => ?there⟩,
    fun hm watchdog => ?fault, fun hm sensor temp => ?temperature, fun hm avg peak => ?window,
    fun hm => ⟨?_, fun _ => ?_, fun _ _ => ?_, fun _ _ => ?_⟩⟩
  case reset => rw [exec_reset ha hh, romLevel_eq, romCode_eq]; rfl
  case undervoltage => change execMainUndervoltage .. = _; rw [execMainUndervoltage, powered_main hm]; rfl
  case fault => change execHkcFault .. = _; rw [execHkcFault, powered_main hm]; rfl
  case present =>
    refine congrArg Host.Outcome.next ((if_neg (by rw [ha]; decide)).trans ?_)
    simp only [State.onHkc, romLevel_eq, romCode_eq]
    rfl
  case there => exact congrArg Host.Outcome.next (if_pos ha)
  case temperature =>
    intro kept told
    refine ⟨fun h => ?_, fun hs h => ?_, fun hs h h2 => ?_, fun hs h => ?_⟩
    · change execTemperatureThreshold .. = _
      rw [execTemperatureThreshold, powered_main hm, if_pos h]
    all_goals rw [exec_temperature hm hs]
    · rw [if_neg (by omega), if_neg (by omega)]; rfl
    · rw [if_neg (by omega), if_pos h]; rfl
    · rw [if_pos h]; rfl
  case window =>
    intro kept
    exact ⟨fun h => (exec_powerCapWindow hm avg peak).trans (congrArg Host.Outcome.next (if_pos h)),
      fun h => (exec_powerCapWindow hm avg peak).trans (congrArg Host.Outcome.next (if_neg (Nat.not_lt.2 h)))⟩
  · change execMainUndervoltage .. = _
    rw [execMainUndervoltage, powered_off hm]
  · change execHkcFault .. = _
    rw [execHkcFault, powered_off hm]
  · change execTemperatureThreshold .. = _
    rw [execTemperatureThreshold, powered_off hm]
  · change execPowerCapWindow .. = _
    rw [execPowerCapWindow, powered_off hm]

end Sys2Proof.Machine
end

section
/-! The firmware's download and verification, and the service levels (R32 to R39). -/

namespace Sys2Proof.Machine

/-! ## The firmware mailbox -/

theorem bitAt_go (v : W64) : bitAt (v ||| 0x80000000).toNat 31 = true := by
  rw [bitAt, ← BitVec.getLsbD]
  simp

section
variable {h : Hkc} {offset len : Nat} {done : Bool}

theorem takeChunk_misplaced (hl : len = 0 ∨ 65536 < len ∨ offset ≠ h.received) : h.takeChunk offset len done = h.downloadFails 3 := by
  rw [Hkc.takeChunk, if_pos]
  rcases hl with hl | hl | hl <;> simp [hl]

theorem takeChunk_fits (h0 : 0 < len) (h1 : len ≤ 65536) (ho : offset = h.received) :
    ¬ (len = 0 || decide (65536 < len) || offset != h.received) = true := by
  simp [ho, Nat.not_lt.2 h1, Nat.pos_iff_ne_zero.1 h0]

theorem takeChunk_over (h0 : 0 < len) (h1 : len ≤ 65536) (ho : offset = h.received) (hi : imageLimit < h.received + len) :
    h.takeChunk offset len done = h.downloadFails 2 := by
  rw [Hkc.takeChunk, if_neg (takeChunk_fits h0 h1 ho), if_pos hi]

theorem takeChunk_staged (h0 : 0 < len) (h1 : len ≤ 65536) (ho : offset = h.received) (hi : h.received + len ≤ imageLimit) :
    let k := h.takeChunk offset len done
    k.received = h.received + len
    ∧ k.staging = Memory.write (if h.received = 0 then [] else h.staging) h.received (Memory.read h.fwdata 0 len)
    ∧ k.imageIn = done ∧ k.mboxGo = false ∧ (h.received = 0 → k.failCode = 0) := by
  rw [Hkc.takeChunk, if_neg (takeChunk_fits h0 h1 ho), if_neg (Nat.not_lt.2 hi)]
  refine ⟨rfl, rfl, rfl, rfl, fun hr => ?_⟩
  dsimp only
  split
  · rfl
  · next hn => simpa [hr] using hn

end

/-- A chunk that the open mailbox takes. -/
theorem exec_chunk {s : State} (hr : s.hostReaches = true) (ho : s.hkc.mailboxOpen = true) (v : W64) :
    ∃ h : Hkc, h.received = s.hkc.received ∧ h.staging = s.hkc.staging ∧ h.fwdata = s.hkc.fwdata ∧ exec (.fwmboxChunk v) s
      = .next (s.onHkc fun _ => h.takeChunk (bits (v ||| 0x80000000).toNat 32 32) (bits (v ||| 0x80000000).toNat 0 17)
          (bitAt (v ||| 0x80000000).toNat 30)) := by
  refine ⟨{ s.hkc with
    mboxOffset := BitVec.ofNat 32 (bits (v ||| 0x80000000).toNat 32 32), mboxDone := bitAt (v ||| 0x80000000).toNat 30,
    mboxLen := BitVec.ofNat 17 (bits (v ||| 0x80000000).toNat 0 17) }, rfl, rfl, rfl, ?_⟩
  change execFwmboxChunk .. = _
  rw [execFwmboxChunk, fromHost_reaches hr]
  simp only [State.onHkc, Hkc.writeMailbox, ho, bitAt_go, if_true]

/-! ## Repair and the service levels -/

theorem repairDie_hkc (s : State) (die : Nat) : (s.repairDie die).hkc = s.hkc := by
  unfold State.repairDie
  generalize coresOn die = cs
  induction cs generalizing s with
  | nil => rfl
  | cons c cs ih =>
    rw [List.foldl_cons, ih]
    dsimp only
    split <;> rfl

theorem foldl_repairDie_hkc (s : State) (ds : List Nat) : (ds.foldl (fun u die => u.repairDie die) s).hkc = s.hkc := by
  induction ds generalizing s with
  | nil => rfl
  | cons d ds ih => rw [List.foldl_cons, ih, repairDie_hkc]

theorem skipOf_le (d : Defects) (die want : Nat) : d.skipOf die want ≤ 4 := by
  unfold Defects.skipOf Defects.badColumns
  cases hc : (List.range 5).filter (fun p => (List.range 4).any (fun r => d.siteBad (siteIn die p r))) with
  | nil => exact Nat.min_le_right _ _
  | cons p ps =>
    have hp : p ∈ List.range 5 := (List.mem_filter.1 (hc ▸ List.mem_cons_self)).1
    exact Nat.le_of_lt_succ (List.mem_range.1 hp)

theorem enterFull_skip (h : Hkc) (r : RepairReport) : ∀ x ∈ (h.enterFull r).skip, x ≤ 4 := by
  intro x hx
  obtain ⟨n, -, rfl⟩ := List.mem_map.1 hx
  exact skipOf_le _ _ _

/-- FULL_SERVICE_ENTRY without resident jobs. -/
theorem passage_empty {s : State} (hl : s.hkc.level = .proof) (hw : s.passageWaits = false) (hj : s.jobs = []) (hp : s.hkc.passing = none)
    (r : RepairReport) :
    s.passage r = (List.range 4).foldl (fun u die => u.repairDie die) { s with hkc := s.hkc.enterFull r } := by
  have hc : ¬ (s.hkc.level != .proof || s.passageWaits) = true := by simp [hl, hw]
  rw [State.passage, if_neg hc]
  simp only [hj, hp, List.filter_nil, List.map_nil, List.isEmpty_nil, Bool.not_true, Bool.false_eq_true, if_false, Option.getD_none,
    List.foldl_nil, State.onHkc]

/-- Settles O24: the mailbox by the checks of a chunk, and the levels by what each entry finds. -/
theorem firmwareEvents : Obligations.FirmwareEvents := by
  unfold Obligations.FirmwareEvents
  intro s
  refine ⟨?chunk, fun hm hl hi => ?verify, fun r hm hf hl => ⟨fun ht hd => ?proof, fun hbad => ?noProof⟩, fun r hm hl hw hj hp => ?full⟩
  case chunk =>
    intro v hr ho off len
    obtain ⟨h, hrec, hst, hfw, he⟩ := exec_chunk hr ho v
    rw [he, ← hrec, ← hst, ← hfw]
    refine ⟨fun hb => ⟨_, rfl, ?_⟩, fun h0 h1 hoff hi => ⟨_, rfl, ?_⟩, fun h0 h1 hoff hi => ⟨_, rfl, ?_⟩⟩
    · rw [takeChunk_misplaced hb]
      exact ⟨rfl, rfl, rfl, rfl, rfl⟩
    · rw [takeChunk_over h0 h1 hoff hi]
      exact ⟨rfl, rfl, rfl⟩
    · exact takeChunk_staged h0 h1 hoff hi
  case verify =>
    have hc : ((s.hkc.level == .rom || s.hkc.level == .romFail) && s.hkc.imageIn) = true := by
      rcases hl with hl | hl <;> simp [hl, hi]
    refine ⟨_, ?_, rfl, ?_, fun h0 => ?_, fun h0 => ?_⟩
    · change execFwVerify .. = _
      rw [execFwVerify, powered_main hm, if_pos hc]; rfl
    all_goals simp only [Hkc.verify]
    · split <;> rfl
    · rw [if_pos h0]
      exact ⟨rfl, rfl, rfl⟩
    · rw [if_neg h0]
      exact ⟨rfl, rfl, rfl⟩
  case proof =>
    have hc : ¬ (!s.hkc.fwRuns || !(s.hkc.level == .rom || s.hkc.level == .romFail)) = true := by
      rcases hl with hl | hl <;> simp [hl, hf]
    refine ⟨_, ?_, rfl, ?_, ?_⟩
    · change execProofServiceEntry .. = _
      rw [execProofServiceEntry, powered_main hm, if_neg hc, if_pos (by rw [ht, hd]; rfl)]; rfl
    all_goals rw [repairDie_hkc]; rfl
  case noProof =>
    have hc : ¬ (!s.hkc.fwRuns || !(s.hkc.level == .rom || s.hkc.level == .romFail)) = true := by
      rcases hl with hl | hl <;> simp [hl, hf]
    have hb : ¬ (r.trained && (s.hkc.fused.join r.found).dieOk 0) = true := by
      rcases hbad with h | h <;> simp [h]
    exact ⟨_, by change execProofServiceEntry .. = _; rw [execProofServiceEntry, powered_main hm, if_neg hc, if_neg hb], rfl, rfl, rfl⟩
  case full =>
    refine ⟨_, by change execFullServiceEntry .. = _; rw [execFullServiceEntry, powered_main hm, passage_empty hl hw hj hp], rfl, ?_, ?_, ?_⟩
    all_goals rw [foldl_repairDie_hkc]
    · rfl
    · rfl
    · exact enterFull_skip _ _

end Sys2Proof.Machine
end

section
/-! SPDM, the CXL ports and the retirement of cores (R8, R14, R41, R42, R52). -/

namespace Sys2Proof.Machine

/-! ## SPDM -/

section
variable {s : State} {port mailbox : Nat} {request : List Byte}

theorem exec_spdm (hm : s.hkc.main = true) : exec (.spdmRequest port mailbox request) s = .next (
    if doeCarries port mailbox request && s.takesDoe port request then
      match s.hkc.doeAnswer request with
      | none => s
      | some a =>
        let u := s.spdmTaken request
        let v := u.setPort port { u.port port with doe := Table.put (u.port port).doe mailbox a }
        if s.hkc.updatesKey request then v.runPosts else v
    else s) := by
  change execSpdmRequest .. = _
  rw [execSpdmRequest, powered_main hm] <;> rfl

theorem takesSpdm_true (hd : Config.isDiscovery request = false) (hl : s.hkc.level.inRom = false) : s.hkc.takesSpdm request = true := by
  rw [Hkc.takesSpdm, hd, hl]
  rfl

theorem spdmTaken_discovery (hd : Config.isDiscovery request = true) : s.spdmTaken request = s := by
  rw [State.spdmTaken, if_neg]
  rw [Hkc.takesSpdm, hd]
  exact Bool.false_ne_true

theorem updatesKey_discovery (hd : Config.isDiscovery request = true) : s.hkc.updatesKey request = false := by
  simp [Hkc.updatesKey, Hkc.inSession, Hkc.takesSpdm, hd]

theorem spdmTaken_hkc (ht : s.hkc.takesSpdm request = true) :
    (s.spdmTaken request).hkc = { s.hkc with spdmLog := s.hkc.spdmLog ++ [request], session := s.hkc.sessionAfter request } := by
  rw [State.spdmTaken, if_pos ht]
  rfl

theorem spdmTaken_port (ht : s.hkc.takesSpdm request = true) {n : Nat} {p : CxlPort} (hp : s.host.ports[n]? = some p) :
    (s.spdmTaken request).host.ports[n]? = some (s.hkc.portAfter request n p) := by
  rw [State.spdmTaken, if_pos ht]
  show ((s.host.ports.zipIdx).map (fun p => s.hkc.portAfter request p.2 p.1))[n]? = _
  simp [List.getElem?_map, List.getElem?_zipIdx, hp]

theorem portAfter_outside (h : s.hkc.session ≠ .established) (n : Nat) (p : CxlPort) : s.hkc.portAfter request n p = p := by
  have hi : s.hkc.inSession request = false := by simp [Hkc.inSession, h]
  simp [Hkc.portAfter, Hkc.updatesKey, hi]

theorem inSession_true (hd : Config.isDiscovery request = false) (hl : s.hkc.level.inRom = false) (h : s.hkc.session = .established)
    (hs : Config.isSecured request = true) : s.hkc.inSession request = true := by
  rw [Hkc.inSession, takesSpdm_true hd hl, h, hs]
  rfl

end

/-! ## The ports -/

section
variable {s : State} {port : Nat} {o : LinkOffer}

theorem exec_ideCheckFail (hm : s.hkc.main = true) (hp : port < 2) : exec (.ideCheckFail port) s = .next (if (s.port port).ide then
    (s.setPort port { s.port port with refused := true }).linkEvent (16 + port) 4 (s.port port).status else s) := by
  change execIdeCheckFail .. = _
  rw [execIdeCheckFail, powered_main hm, decide_eq_true hp, Bool.true_and]

/-- A port that its partner's offer trains. -/
def CxlPort.trained (p : CxlPort) (o : LinkOffer) : CxlPort :=
  { p with up := true, width := o.width, rate := o.rate, retrains := if p.up then p.retrains + 1 else p.retrains }

theorem exec_trains (hm : s.hkc.main = true) (hp : port < 2) (ht : s.trains port o = true) : exec (.cxlLinkState port o) s = .next (
    let q := (s.port port).trained o
    if !(s.port port).up then ((s.setPort port q).linkEvent (16 + port) 3 q.status).runPosts
    else if q.width < (s.port port).width then (s.setPort port q).linkEvent (16 + port) 1 q.status
    else s.setPort port q) := by
  change execCxlLinkState .. = _
  rw [execCxlLinkState, powered_main hm, if_neg (Nat.not_le.2 hp), if_pos ht]
  rfl

theorem exec_linkDown (hm : s.hkc.main = true) (hp : port < 2) (ht : s.trains port o = false) (hu : (s.port port).up = true) :
    let q : CxlPort := { s.port port with up := false, width := 0, rate := 0 }
    exec (.cxlLinkState port o) s = .next ((s.setPort port q).linkEvent (16 + port) 2 q.status) := by
  intro q
  change execCxlLinkState .. = _
  rw [execCxlLinkState, powered_main hm, if_neg (Nat.not_le.2 hp), if_neg (by rw [ht]; decide), if_pos hu]

end

/-! ## Retirement -/

theorem foldl_setCore_hkc (s : State) (cs : List Nat) (f : State → Nat → Core) : (cs.foldl (fun t c => t.setCore c (f t c)) s).hkc = s.hkc := by
  induction cs generalizing s with
  | nil => rfl
  | cons c cs ih => rw [List.foldl_cons, ih]; rfl

/-- A marked column of a die that has its spare and no job is skipped. -/
theorem retireColumn_hkc {s : State} {die p : Nat} (hd : die < 4) (hp : p < 5) (hs : s.hkc.spareOk.getD die false = true)
    (hk : s.hkc.skip.getD die 4 ≠ p) (hb : s.dieBusy die = false) (hr : ∃ x ∈ s.hkc.retire, x ∈ (List.range 4).map (siteIn die p)) :
    let h := (s.retireColumn die p).hkc
    h.skip = setAt s.hkc.skip die p ∧ h.spareOk = setAt s.hkc.spareOk die false
      ∧ h.retire = s.hkc.retire.filter (fun x => !((List.range 4).map (siteIn die p)).contains x) := by
  have hm : (s.hkc.retire.filter (fun x => ((List.range 4).map (siteIn die p)).contains x)).isEmpty = false := by
    obtain ⟨x, hx, hy⟩ := hr
    rw [Bool.eq_false_iff, Ne, List.isEmpty_iff, List.filter_eq_nil_iff]
    exact fun h => h x hx (List.contains_iff_mem.2 hy)
  have hc : ¬ ((s.hkc.retire.filter (fun x => ((List.range 4).map (siteIn die p)).contains x)).isEmpty || decide (4 ≤ die)
      || decide (4 < p) || s.hkc.skip.getD die 4 == p) = true := by
    rw [hm, decide_eq_false (Nat.not_le.2 hd), decide_eq_false (by omega), beq_eq_false_iff_ne.2 hk]
    decide
  have hn : ¬ (!s.hkc.spareOk.getD die false) = true := by rw [hs]; decide
  have hz : ¬ s.dieBusy die = true := by rw [hb]; decide
  unfold State.retireColumn
  simp only [if_neg hc, if_neg hn, if_neg hz, repairDie_hkc, foldl_setCore_hkc]
  exact ⟨rfl, rfl, rfl⟩

/-- Settles O25: each event by the cases of its meaning. -/
theorem portsAndRetirement : Obligations.PortsAndRetirement := by
  unfold Obligations.PortsAndRetirement
  intro s hm
  refine ⟨?doe, ?spdm, fun port hp => ⟨fun h => ?_, fun h => ?_⟩, fun port o hp ht => ?trains,
    fun port o hp ht hu => ⟨_, rfl, exec_linkDown hm hp ht hu⟩, fun die column hd hc hs hk hb hr => ?retire⟩
  case doe =>
    intro port mailbox request answered
    refine ⟨fun h => ?_, fun hc ht => ⟨fun hd => ?_, fun hd hl => ?_, fun hd hl => ?_⟩⟩
    all_goals rw [exec_spdm hm]
    · rw [if_neg]
      rcases h with h | h <;> simp [h]
    all_goals rw [if_pos (by rw [hc, ht]; rfl)]
    · rw [Hkc.doeAnswer, if_pos hd, spdmTaken_discovery hd, updatesKey_discovery hd]
      rfl
    · rw [Hkc.doeAnswer, if_neg (by rw [hd]; decide), if_pos hl]
    · rw [Hkc.doeAnswer, if_neg (by rw [hd]; decide), if_neg (by rw [hl]; decide)]
  case spdm =>
    intro request hd hl u
    have ht := takesSpdm_true hd hl
    have hu : u.hkc = _ := spdmTaken_hkc ht
    refine ⟨by rw [hu], fun hn n p hp => ?_, fun he hs n p hp => ⟨_, spdmTaken_port ht hp, rfl, ?_, ?_⟩, fun hn => ?_, fun he hs hx => ?_⟩
    · exact (spdmTaken_port ht hp).trans (by rw [portAfter_outside hn])
    · simp only [Hkc.portAfter, Hkc.updatesKey, inSession_true hd hl he hs, Bool.true_and]
    · simp only [Hkc.portAfter, inSession_true hd hl he hs, Bool.true_and]
    · rw [hu]
      simp only [Hkc.sessionAfter, hn]
    · rw [hu]
      simp only [Hkc.sessionAfter, he, hs, hx, Bool.and_self, if_true]
  · rw [exec_ideCheckFail hm hp, if_pos h]
  · rw [exec_ideCheckFail hm hp, if_neg (by rw [h]; decide)]
  case trains =>
    refine ⟨(s.port port).trained o, rfl, rfl, rfl, rfl, fun hu => ?_, fun hu hw => ?_, fun hu hw => ?_⟩
    all_goals
      rw [exec_trains hm hp ht]
      dsimp only
    · rw [if_pos (by rw [hu]; rfl)]
    · rw [if_neg (by rw [hu]; decide)]
      exact congrArg Host.Outcome.next (if_pos hw)
    · rw [if_neg (by rw [hu]; decide)]
      exact congrArg Host.Outcome.next (if_neg (Nat.not_lt.2 hw))
  case retire =>
    exact ⟨_, by change execCoreRetire .. = _; rw [execCoreRetire, powered_main hm], retireColumn_hkc hd hc hs hk hb hr⟩

end Sys2Proof.Machine
end

section
/-! What the host writes and reads in BAR0 (R43, R48 to R51, R54, R55, R64, R65). -/

namespace Sys2Proof.Machine

/-! ## Queues and the event ring -/

section
variable {s : State} {q : Nat} (hr : s.hostReaches = true)
include hr

theorem exec_qprod (hq : q < 16) (v : W32) : exec (.qprod q v) s = .next (s.writeQprod q v) := by
  change execQprod .. = _
  rw [execQprod, fromHost_reaches hr, if_pos hq]

theorem exec_queueEnable (hq : q < 16) (v : W64) : exec (.queueEnable q v) s = .next (s.writeQctl q v) := by
  change execQueueEnable .. = _
  rw [execQueueEnable, fromHost_reaches hr, if_pos hq]

theorem exec_qerrClear (hq : q < 16) (v : W64) : exec (.qerrClear q v) s = .next (s.writeQctl q (v ||| 0x4000)) := by
  change execQerrClear .. = _
  rw [execQerrClear, fromHost_reaches hr, if_pos hq]

theorem exec_ccons (hq : q < 16) (v : W32) : exec (.ccons q v) s = .next (s.writeCcons q v) := by
  change execCcons .. = _
  rw [execCcons, fromHost_reaches hr, if_pos hq]

theorem exec_unmask {v : Nat} (hv : v < 64) : exec (.msixVectorUnmask v) s = .next (s.unmask v) := by
  change execMsixVectorUnmask .. = _
  rw [execMsixVectorUnmask, fromHost_reaches hr, if_pos hv]

end

theorem bitAt_or_clear (v : W64) : bitAt (v ||| 0x4000).toNat 14 = true ∧ bitAt (v ||| 0x4000).toNat 15 = bitAt v.toNat 15 := by
  have h14 : Nat.testBit 0x4000 14 = true := rfl
  have h15 : Nat.testBit 0x4000 15 = false := rfl
  constructor <;> simp [bitAt, h14, h15]

/-- A control word that enables a queue. -/
theorem control_enables {x : Queue} {v : Nat} (hv : bitAt v 15 = true) (hx : x.en = false) :
    let y := x.control v
    y.en = true ∧ y.cons = 0 ∧ y.cprod = 0 ∧ y.qlog = qlogOf (bits v 0 4) ∧ y.prod = x.prod ∧ y.ccons = x.ccons := by
  simp [Queue.control, hv, hx]

/-- A control word that leaves a queue's indices. -/
theorem control_keeps {x : Queue} {v : Nat} (h : x.en = true ∨ bitAt v 15 = false) :
    let y := x.control v
    y.en = bitAt v 15 ∧ y.cons = x.cons ∧ y.cprod = x.cprod ∧ y.vec = BitVec.ofNat 6 (bits v 8 6) ∧ y.qerr = (x.qerr && !bitAt v 14) := by
  have hc : ¬ (bitAt v 15 && !x.en) = true := by rcases h with h | h <;> simp [h]
  simp only [Queue.control, if_neg hc, and_self]

/-- What every control word gives. -/
theorem control_bits (x : Queue) (v : Nat) : (x.control v).en = bitAt v 15 ∧ (x.control v).qerr = (x.qerr && !bitAt v 14) := by
  simp only [Queue.control]
  split <;> exact ⟨rfl, rfl⟩

theorem ring_enables {r : EventRing} {v : Nat} (hv : bitAt v 15 = true) (hr : r.en = false) :
    let y := r.control v
    y.en = true ∧ y.prod = 0 ∧ y.lost = 0 ∧ y.seq = 0 ∧ y.elog = elogOf (bits v 0 5) ∧ y.vec = BitVec.ofNat 6 (bits v 8 6)
      ∧ y.cons = r.cons := by
  simp [EventRing.control, hv, hr]

/-! ## MSI-X -/

theorem unmask_contains (xs : List Nat) (v : Nat) : (if xs.contains v then xs else xs ++ [v]).contains v = true := by
  split
  · next h => exact h
  · simp

/-! ## Registers -/

theorem queueReg_base {q o : Nat} (hq : q < 16) (ho : o < 0x40) : queueReg (0x30000 + 0x100 * q + o) = some (q, o) := by
  rw [queueReg, if_pos (by omega)]
  have h1 : (0x30000 + 0x100 * q + o - 0x30000) / 0x100 = q := by omega
  have h2 : (0x30000 + 0x100 * q + o - 0x30000) % 0x100 = o := by omega
  rw [h1, h2]

theorem exec_qbase {s : State} (hr : s.hostReaches = true) {q : Nat} (hq : q < 16) (v : W64) :
    exec (.registerWrite (0x30000 + 0x100 * q) 8 v) s
      = .next (if (s.queue q).en then s else s.setQueue q { s.queue q with qbase := baseOf v }) := by
  have hq0 : queueReg (0x30000 + 0x100 * q) = some (q, 0) := queueReg_base (o := 0) hq (by omega)
  have hw : wideReg (0x30000 + 0x100 * q) = true := by simp [wideReg, hq0]
  change execRegisterWrite .. = _
  rw [execRegisterWrite, fromHost_reaches hr, State.access, if_pos ⟨rfl, by omega⟩, if_pos hw]
  simp only [State.write8, hq0, if_true, State.writeQbase, Bool.false_eq_true, if_false]

theorem exec_pwrCap {s : State} (hr : s.hostReaches = true) (v : W64) :
    exec (.registerWrite 0x21000 4 v) s = .next { s with hkc := { s.hkc with
      pwrCap := BitVec.ofNat 12 (max 800 (min (bits v.toNat 0 12) 2200)) } } := by
  have hb : bits (BitVec.ofNat 32 v.toNat).toNat 0 12 = bits v.toNat 0 12 := by
    rw [bits_eq, bits_eq, BitVec.toNat_ofNat]
    omega
  change execRegisterWrite .. = _
  rw [execRegisterWrite, fromHost_reaches hr, State.access, if_neg (by omega), if_pos ⟨rfl, rfl⟩]
  show Host.Outcome.next (s.onHkc fun h => { h with pwrCap := BitVec.ofNat 12 (capOf (bits (BitVec.ofNat 32 v.toNat).toNat 0 12)) }) = _
  rw [hb]
  rfl

/-! ## Reads -/

section
variable {s : State} {off size : Nat}

theorem readBar_ignored (h : size ≠ 4 ∧ size ≠ 8 ∨ off % size ≠ 0) : s.readBar off size = 0 := by
  rw [State.readBar, if_neg, if_neg]
  all_goals
    rintro ⟨rfl, h0⟩
    omega

theorem bar8_beyond (h : 0x102000 ≤ off) : s.bar8 off = 0 := by
  have hq : queueReg off = none := by rw [queueReg, if_neg (by omega)]
  simp only [State.bar8, hq]
  repeat rw [if_neg (by omega)]

theorem readBar_beyond (h : 0x102000 ≤ off) : s.readBar off size = 0 := by
  rw [State.readBar, bar8_beyond h, bar8_beyond (by omega : 0x102000 ≤ off / 8 * 8), bits_eq]
  simp

theorem readBar_wide (h : off % 8 = 0) : s.readBar off 8 = BitVec.ofNat 64 (s.bar8 off) := if_pos ⟨rfl, h⟩

theorem readBar_low (h : off % 8 = 0) : s.readBar off 4 = BitVec.ofNat 64 (s.bar8 off % 2 ^ 32) := by
  rw [State.readBar, if_neg (by omega), if_pos ⟨rfl, by omega⟩, show off / 8 * 8 = off by omega, h, bits_eq]
  simp

theorem readBar_high (h : off % 8 = 0) : s.readBar (off + 4) 4 = BitVec.ofNat 64 (s.bar8 off / 2 ^ 32 % 2 ^ 32) := by
  rw [State.readBar, if_neg (by omega), if_pos ⟨rfl, by omega⟩, show (off + 4) / 8 * 8 = off by omega,
    show (off + 4) % 8 * 8 = 32 by omega, bits_eq]

theorem readBar_halves (h : off % 8 = 0) :
    s.readBar off 4 = s.readBar off 8 &&& 0xFFFFFFFF ∧ s.readBar (off + 4) 4 = s.readBar off 8 >>> 32 := by
  rw [readBar_low h, readBar_high h, readBar_wide h]
  constructor
  · apply BitVec.eq_of_toNat_eq
    rw [BitVec.toNat_and, BitVec.toNat_ofNat, BitVec.toNat_ofNat]
    show _ = (s.bar8 off % 2 ^ 64) &&& (2 ^ 32 - 1)
    rw [Nat.and_two_pow_sub_one_eq_mod]
    omega
  · apply BitVec.eq_of_toNat_eq
    rw [BitVec.toNat_ushiftRight, BitVec.toNat_ofNat, BitVec.toNat_ofNat, Nat.shiftRight_eq_div_pow]
    omega

theorem bar8_queue {q o : Nat} (hq : q < 16) (ho : o < 0x40) : s.bar8 (0x30000 + 0x100 * q + o) = (s.queue q).reg o := by
  simp only [State.bar8, queueReg_base hq ho]

theorem readBar_index {q o : Nat} (hq : q < 16) (ho : o < 0x40) (h8 : o % 8 = 0) {v : W32} (hv : (s.queue q).reg o = v.toNat) :
    s.readBar (0x30000 + 0x100 * q + o) 4 = BitVec.setWidth 64 v := by
  rw [readBar_low (by omega), bar8_queue hq ho, hv, Nat.mod_eq_of_lt v.isLt, BitVec.ofNat_toNat]

end

/-- Settles O26: each register as it is written and read. -/
theorem hostRegisters : Obligations.HostRegisters := by
  unfold Obligations.HostRegisters
  refine ⟨fun s q hr hq => ⟨fun v hv => ?_, fun v hv => ?_, fun v hv he => ?_, fun v h => ?_, fun v => ?_, fun v => exec_ccons hr hq v⟩,
    fun s hr => ⟨fun v hv he => ?_, fun v => ?_, fun v hv hp => ?_, fun v hv hp => ?_, fun q v hq => exec_qbase hr hq v, fun v => exec_pwrCap hr v⟩,
    fun s => ⟨?_, ?_, fun off size h => readBar_ignored h, fun off size h => readBar_beyond h, fun off h => readBar_halves h, fun q hq => ?_⟩⟩
  · rw [exec_qprod hr hq]
    exact congrArg Host.Outcome.next (if_neg (Nat.not_lt.2 hv))
  · rw [exec_qprod hr hq]
    exact congrArg Host.Outcome.next (if_pos hv)
  · refine ⟨_, (exec_queueEnable hr hq v).trans ?_, control_enables hv he⟩
    rw [State.writeQctl, if_pos hv]
  · exact ⟨_, exec_queueEnable hr hq v, control_keeps h⟩
  · obtain ⟨h14, h15⟩ := bitAt_or_clear v
    obtain ⟨he, hz⟩ := control_bits (s.queue q) (v ||| 0x4000).toNat
    refine ⟨_, (exec_qerrClear hr hq v).trans (by rw [State.writeQctl, h15]), ?_, ?_⟩
    · rw [hz, h14, Bool.not_true, Bool.and_false]
    · rw [he, h15]
  · exact ⟨_, by change execEventRingEnable .. = _; rw [execEventRingEnable, fromHost_reaches hr]; rfl, ring_enables hv he⟩
  · change execEvcons .. = _
    rw [execEvcons, fromHost_reaches hr]; rfl
  · refine ⟨_, exec_unmask hr hv, ?_⟩
    simp only [State.unmask, hp, if_true, unmask_contains, and_self]
  · refine ⟨_, exec_unmask hr hv, ?_⟩
    simp only [State.unmask, hp, Bool.false_eq_true, if_false, unmask_contains, and_self]
  · rfl
  · rfl
  · refine ⟨readBar_index hq (by omega) rfl rfl, readBar_index hq (by omega) rfl rfl, ?_⟩
    rw [readBar_wide (by omega), ← Nat.add_zero (0x30000 + 0x100 * q), bar8_queue hq (by omega)]
    exact BitVec.ofNat_toNat _ _

end Sys2Proof.Machine
end

section
/-! Acceptance of commands, and the commands that complete at once (R55 to R59, R93, R101, R102). -/

namespace Sys2Proof.Machine

/-! ## Acceptance -/

section
variable {s : State} {q : Nat}

/-- What a record that the command processor takes leaves: its queue's consumer index and command, and the queue served last. -/
def State.taking (s u : State) (q : Nat) (bytes : List Byte) (order : Nat) : State :=
  let x := s.queue q
  let t := u.setQueue q { x with
    cons := x.cons + 1, cur := some (u.accepted { bytes := bytes, index := x.cons, order := order }) }
  { t with host := { t.host with lastQueue := q } }

theorem exec_accept (hm : s.hkc.main = true) (hs : s.serving = true) (he : s.exclusive = false) (hq : s.nextQueue = some q)
    (fetched : Bool) : exec (.commandAccept fetched) s = .next (s.acceptFrom q fetched) := by
  change execCommandAccept .. = _
  rw [execCommandAccept, powered_main hm, if_neg (by rw [hs, he]; decide), hq]

theorem exec_accept_none (hm : s.hkc.main = true) (h : s.serving = false ∨ s.exclusive = true ∨ s.nextQueue = none) (fetched : Bool) :
    exec (.commandAccept fetched) s = .next s := by
  change execCommandAccept .. = _
  rw [execCommandAccept, powered_main hm]
  rcases h with h | h | h
  · rw [if_pos (by simp [h])]
  · rw [if_pos (by simp [h])]
  · rw [h]
    simp only [ite_self]

/-- What comes of what the fetch of a record gave. -/
def State.takeFetched (s u : State) (q : Nat) : RingGot → State
  | .waits => u
  | .failed => (s.taking { u with nextId := u.nextId + 1, draws := u.draws + 128 } q
      ((List.range 128).map (fun i => Config.freeByte (u.draws + i))) u.nextId).complete q 0x13 0 0
  | .bytes bytes =>
    if Cmd.wellFormed { bytes := bytes, index := (s.queue q).cons } then s.taking { u with nextId := u.nextId + 1 } q bytes u.nextId
    else (s.taking { u with nextId := u.nextId + 1 } q bytes u.nextId).complete q 1 0 0

theorem acceptFrom_eq {fetched : Bool} {u : State} {got : RingGot} (h : s.fetchRecord q fetched = (u, got)) :
    s.acceptFrom q fetched = s.takeFetched u q got := by
  unfold State.acceptFrom
  rw [h]
  cases got <;> rfl

end

theorem accepted_fields (s : State) (c : Cmd) : (s.accepted c).bytes = c.bytes ∧ (s.accepted c).index = c.index
    ∧ (s.accepted c).order = c.order ∧ (s.accepted c).time = s.time.toNat := by
  unfold State.accepted
  split
  · split <;> exact ⟨rfl, rfl, rfl, rfl⟩
  · exact ⟨rfl, rfl, rfl, rfl⟩

theorem accepted_svars {s : State} {c : Cmd} {x : Job} (hx : s.job? c.job = some x) (h : c.op = 8 ∨ c.op = 9) :
    (s.accepted c).svars = some x.sv := by
  have hd : ¬ deviceWide c.op = true := by rcases h with h | h <;> rw [h] <;> decide
  rw [State.accepted, hx]
  simp only [if_neg hd]
  rw [if_pos (by rcases h with h | h <;> simp [h])]

theorem accepted_cancelled {s : State} {c : Cmd} {x : Job} (hx : s.job? c.job = some x) (hd : deviceWide c.op = false) (h1 : c.op ≠ 1)
    (hF : c.op ≠ 0x0F) : (s.accepted c).cancelled = (x.st == .cancelling) := by
  rw [State.accepted, hx]
  simp only [hd, Bool.false_eq_true, if_false, bne_iff_ne.2 h1, bne_iff_ne.2 hF, Bool.and_true]

/-- Settles O27: the queue that is next gives its record, and what its fetch gives decides. -/
theorem commandAcceptance : Obligations.CommandAcceptance := by
  unfold Obligations.CommandAcceptance
  intro s hm
  refine ⟨?_, fun c => ?_, fun h fetched => exec_accept_none hm h fetched⟩
  · intro q hs he hq x taken
    refine ⟨fun u bytes h => ⟨fun hw => ?_, fun hw => ?_⟩, fun u h => ?_,
      fun u h => ⟨(List.range 128).map (fun i => Config.freeByte (u.draws + i)), ?_⟩,
      (List.range 128).map (fun i => Config.freeByte (s.draws + i)), ?_⟩
    all_goals rw [exec_accept hm hs he hq]
    · rw [acceptFrom_eq (fetched := true) h]
      exact congrArg Host.Outcome.next (if_pos hw)
    · rw [acceptFrom_eq (fetched := true) h]
      exact congrArg Host.Outcome.next (if_neg (by rw [hw]; decide))
    · rw [acceptFrom_eq (fetched := true) h]
      rfl
    · rw [acceptFrom_eq (fetched := true) h]
      rfl
    · rw [acceptFrom_eq (fetched := false) rfl]
      rfl
  · obtain ⟨hb, hi, ho, ht⟩ := accepted_fields s c
    exact ⟨hb, hi, ho, ht, fun x hx h => accepted_svars hx h, fun x hx hd h1 hF => accepted_cancelled hx hd h1 hF⟩

/-! ## JOB.OPEN, JOB.CLOSE, JOB.CANCEL -/

/-- A job that JOB.CLOSE closes. -/
def Job.closes (x : Job) : Job :=
  { x with
    wasClosing := true
    st := if x.st == .opened then .closing else x.st
    phases := x.phases.map (fun p => if p.ended then p else { p with closed := true }) }

theorem closes_phases (x : Job) : ∀ p ∈ x.closes.phases, p.ended = true ∨ p.closed = true := by
  intro p hp
  obtain ⟨p0, -, rfl⟩ := List.mem_map.1 hp
  by_cases he : p0.ended = true
  · exact .inl (by rw [if_pos he]; exact he)
  · exact .inr (by rw [if_neg he])

/-- Settles O28: what each command makes of its job. -/
theorem jobLifeCommands : Obligations.JobLifeCommands := by
  unfold Obligations.JobLifeCommands
  intro s q c
  refine ⟨fun hm ht hj hc => ⟨fun ho => ?_, fun ho => ?_⟩, fun x h => ?_, fun x h => ?close, fun x h hb => ?_, fun hm ht hb ho => ?_⟩
  · change execJobOpen .. = _
    rw [execJobOpen, powered_main hm]
    simp only [ht, hj, hc, ho, Bool.false_eq_true, if_false, if_true]
  · change execJobOpen .. = _
    rw [execJobOpen, powered_main hm]
    simp only [ht, hj, hc, ho, Bool.false_eq_true, if_false]
  · change execJobOpen .. = _
    rw [execJobOpen, powered_main h.main]
    simp only [h.turn, h.job, h.gate]
  case close =>
    refine ⟨x.closes, by change execJobClose .. = _; rw [execJobClose, h.runs]; rfl, rfl, fun ho => ?_, fun ho => ?_, closes_phases x, rfl⟩
    · rw [Job.closes, ho]; rfl
    · exact if_neg (by simpa using ho)
  · change execJobCancel .. = _
    rw [execJobCancel, powered_main h.main]
    simp only [h.turn, hb, Bool.false_eq_true, if_false, h.jobTurn]
  · change execJobCancel .. = _
    rw [execJobCancel, powered_main hm]
    simp only [ht, hb, ho, if_true]

/-! ## The commands that set something of a job -/

/-- A command for a job that is FREE (R59, R93). -/
theorem jobCommand_free {s : State} {q op : Nat} {c : Cmd} (hm : s.hkc.main = true) (ht : s.turn q op = some c) (hj : s.job? c.job = none)
    (hop : op ≠ 0x0F) (f : State → Cmd → Job → State) :
    s.jobCommand q op f = .next (s.complete q (if c.cancelled then 0x12 else 3) 0 0) := by
  have hc : c.op = op := by
    unfold State.turn at ht
    split at ht
    · split at ht
      · next hcond =>
        cases ht
        simp only [Bool.and_eq_true, beq_iff_eq] at hcond
        exact hcond.1.1
      · cases ht
    · cases ht
  rw [State.jobCommand, powered_main hm, State.jobTurn, ht]
  simp only [hj, State.noJob, hc, decide_eq_false hop, Bool.false_and, Bool.false_eq_true, if_false]

theorem setVars_job {s : State} {j : Nat} {x : Job} (f : List W64 → List W64) (hx : s.job? j = some x) :
    ∃ y, (s.setVars j f).job? j = some y ∧ y.sv = f x.sv := by
  have h : (s.setVars j f).job? j = (s.onJob j (fun x => { x with sv := f x.sv, svCopies := x.svCopies.map (fun p => (p.1, f p.2)) })).job? j := rfl
  rw [h, State.onJob, hx]
  exact ⟨_, Table.find_put_same _ _ _, rfl⟩

/-- Settles O29: each command by the checks of its fields; all of them of a job that is FREE. -/
theorem jobSettingCommands : Obligations.JobSettingCommands := by
  unfold Obligations.JobSettingCommands
  intro s q c
  refine ⟨fun x h => ?map, fun x h => ?slot, fun x h => ?svar, fun x h => ?tick, fun x h => ?phase, fun hm hj st hst => ?free⟩
  case map =>
    rw [show exec (.mapSet q) s = execMapSet q s from rfl, execMapSet, h.runs]
    exact ⟨fun hz => congrArg Host.Outcome.next (if_pos hz), fun hz => congrArg Host.Outcome.next (if_neg (Decidable.not_not.2 hz))⟩
  case slot =>
    rw [show exec (.slotSet q) s = execSlotSet q s from rfl, execSlotSet, h.runs]
    refine ⟨fun hb => congrArg Host.Outcome.next (if_pos ?_), fun hw hr => ?_⟩
    · rcases hb with hb | hb <;> simp [hb]
    · have hc : ¬ (decide (64 < c.field 0x10 1) || decide (bufferEntries < c.field 0x12 2)) = true := by
        simp [Nat.not_lt.2 hw, Nat.not_lt.2 hr]
      simp only [if_neg hc]
      exact ⟨fun hf => congrArg Host.Outcome.next (if_pos (by rw [hf]; rfl)),
        fun hf => congrArg Host.Outcome.next (if_neg (by rw [hf]; decide))⟩
  case svar =>
    rw [show exec (.svarSet q) s = execSvarSet q s from rfl, execSvarSet, h.runs]
    exact ⟨fun hn => congrArg Host.Outcome.next (if_pos (decide_eq_true hn)),
      fun hn => ⟨congrArg Host.Outcome.next (if_neg (by simpa using hn)), setVars_job _ h.job⟩⟩
  case tick =>
    rw [show exec (.tickSet q) s = execTickSet q s from rfl, execTickSet, h.runs]
    refine ⟨fun h0 hb => congrArg Host.Outcome.next (if_pos ?_), fun hb => congrArg Host.Outcome.next (if_neg ?_)⟩
    · rw [Bool.and_eq_true, Bool.or_eq_true, decide_eq_true_eq, decide_eq_true_eq, decide_eq_true_eq]
      exact ⟨h0, hb⟩
    · rw [Bool.and_eq_true, Bool.or_eq_true, decide_eq_true_eq, decide_eq_true_eq, decide_eq_true_eq]
      omega
  case phase =>
    rw [show exec (.phaseOpen q) s = execPhaseOpen q s from rfl, execPhaseOpen, h.runs]
    refine ⟨fun hf => congrArg Host.Outcome.next (if_pos hf), fun hf hp => ?_, fun hf hp => ?_⟩
    · refine congrArg Host.Outcome.next ((if_neg (Nat.not_lt.2 hf)).trans (if_pos ?_))
      obtain ⟨p, hm, hid⟩ := hp
      exact List.any_eq_true.2 ⟨p, hm, beq_iff_eq.2 hid⟩
    · have hn : ¬ x.phases.any (fun p => p.id == c.field 0x10 2) = true := by simpa using hp
      simp only [if_neg (Nat.not_lt.2 hf), if_neg hn]
      exact ⟨fun hl => congrArg Host.Outcome.next (if_pos hl), fun hl => congrArg Host.Outcome.next (if_neg (Nat.not_le.2 hl))⟩
  case free =>
    subst hst
    refine ⟨fun ht => ?_, fun ht => ?_, fun ht => ?_, fun ht => ?_, fun ht => ?_⟩
    · change execMapSet .. = _
      rw [execMapSet, jobCommand_free hm ht hj (by decide)]
    · change execSlotSet .. = _
      rw [execSlotSet, jobCommand_free hm ht hj (by decide)]
    · change execSvarSet .. = _
      rw [execSvarSet, jobCommand_free hm ht hj (by decide)]
    · change execTickSet .. = _
      rw [execTickSet, jobCommand_free hm ht hj (by decide)]
    · change execPhaseOpen .. = _
      rw [execPhaseOpen, jobCommand_free hm ht hj (by decide)]

/-! ## Graphs -/

/-- Settles O30: the checks in their order, then the loader or the patches decide. -/
theorem graphCommands : Obligations.GraphCommands := by
  unfold Obligations.GraphCommands
  intro s q c x
  refine ⟨fun h => ?load, fun h => ?start, fun h => ?batch⟩
  case load =>
    rw [show exec (.codeLoad q) s = execCodeLoad q s from rfl, execCodeLoad, h.runs]
    refine ⟨fun hz => congrArg Host.Outcome.next (if_pos hz), fun hz t g hl => ?_, fun hz t hl => ?_, fun hz t st r0 r1 hl => ?_⟩
    all_goals simp only [if_neg (Decidable.not_not.2 hz), hl]
  case start =>
    intro graph
    rw [show exec (.graphStart q) s = execGraphStart q s from rfl, execGraphStart, h.runs]
    refine ⟨fun hg => ?_, fun g hg hp hf => ?_, fun g hg hpf => ?_⟩
    · simp only [show x.startable _ _ _ _ = none from hg]
    · simp only [show x.startable _ _ _ _ = some g from hg, hp, Option.isSome_iff_ne_none.2 hf, Bool.and_self, if_true]
    · have hc : ¬ (s.proof && g.fabric.isSome) = true := by rcases hpf with h | h <;> simp [h]
      simp only [show x.startable _ _ _ _ = some g from hg, if_neg hc]
      refine ⟨fun hs => by simp only [hs], fun slot rest hs => ?_⟩
      simp only [hs]
      exact ⟨fun t ps hp => by simp only [hp]; rfl, fun t st i hp => by simp only [hp], fun t hp => by simp only [hp]⟩
  case batch =>
    intro graph
    rw [show exec (.graphBatch q) s = execGraphBatch q s from rfl, execGraphBatch, h.runs]
    refine ⟨fun hg => ?_, fun g hg => ?_⟩
    · simp only [show x.startable _ _ _ _ = none from hg]
    · intro chunks
      simp only [show x.startable _ _ _ _ = some g from hg]
      refine ⟨fun hb => congrArg Host.Outcome.next (if_pos ?_), fun hf h8 hm => ?_⟩
      · rcases hb with hb | hb | hb
        · simp [Option.isSome_iff_ne_none.2 hb]
        · simp [hb]
        · simp [hb]
      · have hc : ¬ (g.fabric.isSome || c.field 0x20 4 % 8 != 0 || decide (4096 < c.field 0x20 4)) = true := by
          simp [hf, h8, Nat.not_lt.2 hm]
        simp only [if_neg hc]
        refine ⟨fun hl => congrArg Host.Outcome.next (if_pos hl), fun hl => ?_⟩
        have hn : ¬ x.freeSlots.length < (chunksOf (x.windows g) 4096 0 (c.field 0x24 4)).length := Nat.not_lt.2 hl
        simp only [if_neg hn]
        refine ⟨fun t ps slot rest hp hz => ?_, fun t ps hp hz => ?_, fun t st i hp => by simp only [hp], fun t hp => by simp only [hp]⟩
        · cases hzip : x.freeSlots.zip chunks with
          | nil => rw [hzip] at hz; cases hz
          | cons p ps =>
            rw [hzip] at hz
            cases hz
            simp only [hp]
            rfl
        · simp only [hp, show x.freeSlots.zip (chunksOf (x.windows g) 4096 0 (c.field 0x24 4)) = [] from hz]
          rfl

end Sys2Proof.Machine
end

section
/-! Walls, pre-emption and RESUME; floors, faults and cellars; the attic (R44 to R47, R70 to R74, R90, R107, R121, R122, R172). -/

namespace Sys2Proof.Machine

/-! ## Commands in general -/

theorem turn_op {s : State} {q op : Nat} {c : Cmd} (ht : s.turn q op = some c) : c.op = op := by
  unfold State.turn at ht
  split at ht
  · split at ht
    · next hcond =>
      cases ht
      simp only [Bool.and_eq_true, beq_iff_eq] at hcond
      exact hcond.1.1
    · cases ht
  · cases ht

section
variable {s : State} {q : Nat} {c : Cmd} {x : Job}

/-! ## What a placement makes of the saves it waits for -/

theorem afterSaves_waits (h : c.waits ≠ []) (go : State → Nat → State) : s.afterSaves q c go = s :=
  if_pos (by simpa using h)

theorem afterSaves_failed (hw : c.waits = []) (h : c.failed ≠ []) (go : State → Nat → State) :
    s.afterSaves q c go = s.complete q 0x13 (maskOf c.done) (maskOf c.failed) := by
  rw [State.afterSaves, if_neg (by simp [hw]), if_pos (by simpa using h)]

theorem afterSaves_go (hw : c.waits = []) (h : c.failed = []) (go : State → Nat → State) :
    s.afterSaves q c go = go s (maskOf c.done) := by
  rw [State.afterSaves, if_neg (by simp [hw]), if_neg (by simp [h])]

/-! ## WALL.SET -/

/-- The rectangle that a WALL.SET record names. -/
def Cmd.wall (c : Cmd) : Rect := Rect.mk (c.field 0x10 1) (c.field 0x11 1) (c.field 0x12 1) (c.field 0x13 1)

theorem startWall_refused {st : Nat} (h : s.rectCheck c.wall (c.field 0x14 1) = some st) : s.startWall q c x = s.complete q st 0 0 := by
  unfold State.startWall
  simp only [show s.rectCheck (Rect.mk _ _ _ _) _ = some st from h]

theorem startWall_same (h : s.rectCheck c.wall (c.field 0x14 1) = none) (hr : x.rect = some c.wall) :
    s.startWall q c x = s.complete q 0 0 0 := by
  unfold State.startWall
  simp only [show s.rectCheck (Rect.mk _ _ _ _) _ = none from h]
  exact if_pos hr

theorem startWall_live (h : s.rectCheck c.wall (c.field 0x14 1) = none) (hr : x.rect ≠ some c.wall)
    (hi : ∃ p ∈ x.insts, p.2.st ≠ .ended) : s.startWall q c x = s.complete q 4 0 0 := by
  unfold State.startWall
  simp only [show s.rectCheck (Rect.mk _ _ _ _) _ = none from h]
  exact (if_neg hr).trans (if_pos (by simpa using hi))

/-- What a placement at the rectangle of a WALL.SET makes. -/
def State.wallAt (s : State) (q : Nat) (c : Cmd) : Placement → State
  | .wait => s
  | .refused st => s.complete q st 0 0
  | .evicting [] => (s.setWall c.job c.wall).complete q 0 0 0
  | .evicting vs => s.haltFor q vs

theorem startWall_places (h : s.rectCheck c.wall (c.field 0x14 1) = none) (hr : x.rect ≠ some c.wall)
    (hi : ∀ p ∈ x.insts, p.2.st = .ended) :
    s.startWall q c x = s.wallAt q c (s.placement q c.job x c.wall (c.field 0x14 1 == 1)) := by
  unfold State.startWall
  simp only [show s.rectCheck (Rect.mk _ _ _ _) _ = none from h]
  refine (if_neg hr).trans ((if_neg (by simpa using hi)).trans ?_)
  rw [show s.placement q c.job x (Rect.mk _ _ _ _) _ = s.placement q c.job x c.wall (c.field 0x14 1 == 1) from rfl]
  rcases s.placement q c.job x c.wall (c.field 0x14 1 == 1) with _ | st | vs
  · rfl
  · rfl
  · cases vs <;> rfl

theorem exec_wallSet (h : s.CommandRuns q 5 c x) (hb : c.begun = false) : exec (.wallSet q) s = .next (s.startWall q c x) := by
  change execWallSet .. = _
  rw [execWallSet, powered_main h.main]
  simp only [h.turn, hb, Bool.false_eq_true, if_false, h.jobTurn]

theorem exec_wallSet_begun (hm : s.hkc.main = true) (ht : s.turn q 5 = some c) (hb : c.begun = true) (hj : s.job? c.job = some x)
    (hs : x.st = .opened ∨ x.st = .closing) :
    exec (.wallSet q) s = .next (s.afterSaves q c (fun u mask => (u.setWall c.job c.wall).complete q 0 mask 0)) := by
  have hc (u : State) : u.claimOf c = some c.wall := if_pos (turn_op ht)
  change execWallSet .. = _
  rw [execWallSet, powered_main hm]
  rcases hs with hs | hs <;> simp only [ht, hb, hj, hs, hc, if_true] <;> rfl

/-! ## PREEMPT -/

theorem exec_preempt_begun (hm : s.hkc.main = true) (ht : s.turn q 0x11 = some c) (hb : c.begun = true) (hj : s.job? c.job = some x) :
    exec (.preempt q) s = .next (if x.st == .preempting then s else if x.st == .cancelling then s.complete q 0x12 0 0
      else if !c.failed.isEmpty then s.complete q 0x13 0 0
      else match x.saved with | some v => s.complete q 0 v.bytes 0 | none => s) := by
  change execPreempt .. = _
  rw [execPreempt, powered_main hm]
  simp only [ht, hb, hj, if_true] <;> rfl

/-! ## RESUME -/

theorem exec_resume (h : s.CommandRuns q 0x12 c x) (hb : c.begun = false) : exec (.resume q) s = .next (s.startResume q c x) := by
  change execResume .. = _
  rw [execResume, powered_main h.main]
  simp only [h.turn, hb, Bool.false_eq_true, if_false, h.jobTurn]

/-- A RESUME of a job with a rectangle, at a placement that evicts. -/
theorem startResume_evicts {v : Saved} {r : Rect} {dx dy : Int} {vs : List Nat} (hv : x.saved = some v) (h1 : c.field 0x12 1 ≤ 1)
    (hr : x.resumeAt v (c.field 0x10 1) (c.field 0x11 1) = some (some r, dx, dy)) (hc : s.rectCheck r (c.field 0x12 1) = none)
    (hp : s.placement q c.job x r (c.field 0x12 1 == 1) = .evicting vs) :
    s.startResume q c x = if !s.fits c.job (x.placedAt (some r) dx dy) v vs then s.complete q 8 0 0
      else if vs.isEmpty then (s.restoreJob c.job (some r) dx dy).complete q 0 0 0 else s.haltFor q vs := by
  unfold State.startResume
  simp only [hv, if_neg (Nat.not_lt.2 h1), hr, hc, hp]

theorem exec_resume_begun (hm : s.hkc.main = true) (ht : s.turn q 0x12 = some c) (hb : c.begun = true) (hj : s.job? c.job = some x)
    (hs : x.st ≠ .cancelling) : exec (.resume q) s = .next (s.afterSaves q c (fun u mask => u.endResume q c x mask)) := by
  change execResume .. = _
  rw [execResume, powered_main hm]
  simp only [ht, hb, hj, if_true]
  exact congrArg Host.Outcome.next (if_neg (by simpa using hs))

end

/-- Settles O31: the checks in their order, then the placement decides; the saves of the evicted jobs, then it takes effect. -/
theorem placementCommands : Obligations.PlacementCommands := by
  unfold Obligations.PlacementCommands
  intro s q c evicts
  refine ⟨?wall, ?wallBegun, ?preempt, ?preemptBegun, ?saveEnd, ?resume, ?resumeBegun⟩
  case wall =>
    intro x r h hb hr
    subst hr
    rw [exec_wallSet h hb]
    refine ⟨fun st hc => congrArg _ (startWall_refused hc), fun hc => ⟨fun hr => congrArg _ (startWall_same hc hr),
      fun hr hi => congrArg _ (startWall_live hc hr hi), fun hr hi => ?_⟩⟩
    rw [startWall_places hc hr hi]
    intro at_
    refine ⟨fun ha => ?_, fun v vs ha => ?_, fun st ha => ?_, fun ha => ?_⟩
    all_goals rw [show s.placement q c.job x c.wall _ = _ from ha]; rfl
  case wallBegun =>
    intro x hm ht hb hj hs
    rw [exec_wallSet_begun hm ht hb hj hs]
    exact ⟨fun hw => congrArg _ (afterSaves_waits hw _), fun hw hf => congrArg _ (afterSaves_failed hw hf _),
      fun hw hf => congrArg _ (afterSaves_go hw hf _)⟩
  case preempt =>
    intro x h hb
    change execPreempt .. = _
    rw [execPreempt, powered_main h.main]
    simp only [h.turn, hb, Bool.false_eq_true, if_false, h.jobTurn]
  case preemptBegun =>
    intro x hm ht hb hj
    rw [exec_preempt_begun hm ht hb hj]
    refine ⟨fun hp => congrArg _ (if_pos (by simp [hp])), fun hp hc => ⟨fun hf => ?_, fun v hf hv => ?_⟩⟩
    · simp [hp, hc, hf]
    · simp [hp, hc, hf, hv]
  case saveEnd =>
    intro j hm hs
    change execSaveEnd .. = _
    rw [execSaveEnd, powered_main hm]
    exact congrArg _ (if_pos hs)
  case resume =>
    intro x v r dx dy h hb hv h1 hr hc at_ fits
    rw [exec_resume h hb]
    refine ⟨fun ha hf => ?_, fun w vs ha hf => ?_, fun vs ha hf => ?_⟩ <;> rw [startResume_evicts hv h1 hr hc ha]
    · exact congrArg _ (if_neg (by simpa using hf))
    · exact congrArg _ (if_neg (by simpa using hf))
    · exact congrArg _ (if_pos (by simpa using hf))
  case resumeBegun =>
    intro x hm ht hb hj hs
    rw [exec_resume_begun hm ht hb hj hs]
    refine ⟨fun hw => congrArg _ (afterSaves_waits hw _), fun hw hf => congrArg _ (afterSaves_failed hw hf _),
      fun v r dx dy hw hf hv hr => ?_⟩
    rw [afterSaves_go hw hf, State.endResume, hv]
    simp only [hr]

/-! ## Floors, faults and cellars -/

section
variable {s : State} {q : Nat} {c : Cmd}

theorem exec_floorAlloc (hm : s.hkc.main = true) (ht : s.turn q 0x0D = some c) (hb : c.begun = false) :
    exec (.floorAlloc q) s = .next (match s.floorCheck c true with
      | some st => s.complete q st 0 0
      | none =>
        if c.floors.any (fun f => (s.floor f).st != .dark) then s.complete q 4 0 0
        else ((c.floors.foldl (fun u f => { u.wipeFloor f with floors := Table.put (u.wipeFloor f).floors f { st := .zeroing } }) s).beginWake
          (c.field 0x10 1)).begin q []) := by
  change execFloorAlloc .. = _
  rw [execFloorAlloc, powered_main hm]
  simp only [ht, hb, Bool.false_eq_true, if_false] <;> rfl

theorem exec_floorFree (hm : s.hkc.main = true) (ht : s.turn q 0x0E = some c) (hc : s.floorCheck c false = none) :
    exec (.floorFree q) s = .next (if c.floors.any (fun f => !(s.floor f).st.open) then s.complete q 4 0 0
      else (c.floors.foldl (fun u f => { ((u.refuseWatches f).wipeFloor f).repairRows (fun g => g == f) with
        floors := Table.put (((u.refuseWatches f).wipeFloor f).repairRows (fun g => g == f)).floors f {} }) s).complete q 0 0 0) := by
  change execFloorFree .. = _
  rw [execFloorFree, powered_main hm]
  simp only [ht, hc]

/-- What a CELLAR.GROW of these cores leaves, from what the moves gave. -/
def State.grown (s : State) (q : Nat) (c : Cmd) : State × VGot → State
  | (t, .wait) => s.keepAsks t
  | (t, .data _) => (if c.field 0x10 1 = 0xFF then t.onJob c.job (fun y => { y with
      cellarVa := c.field 0x18 8, cellarBytes := c.field 0x20 4 }) else t).complete q 0 0 0
  | _ => s.complete q 0x13 0 0

theorem exec_cellarGrow {x : Job} (h : s.CommandRuns q 0x10 c x) {which : List Nat}
    (hw : which = if c.field 0x10 1 = 0xFF then List.range 64 else [c.field 0x10 1]) :
    exec (.cellarGrow q) s = .next (if (decide (63 < c.field 0x10 1) && c.field 0x10 1 != 0xFF) || c.field 0x20 4 % 65536 != 0
        || which.any (fun n => decide (c.field 0x20 4 < (x.cellar n).bytes)) then s.complete q 2 0 0
      else s.grown q c (s.growAll (cmdOwner q) c.job (fun n => if c.field 0x10 1 = 0xFF then c.field 0x18 8 + n * c.field 0x20 4
        else c.field 0x18 8) (c.field 0x20 4) which)) := by
  subst hw
  change execCellarGrow .. = _
  rw [execCellarGrow, h.runs]
  refine congrArg _ (ite_congr rfl (fun _ => rfl) fun _ => ?_)
  generalize s.growAll _ _ _ _ _ = r
  obtain ⟨t, g⟩ := r
  cases g <;> rfl

/-- What the move of rings gave, without the bytes that came with it. -/
def VGot.emptied : VGot → VGot
  | .data _ => .data []
  | g => g

theorem growAll_one {o : List Nat} {j n bytes : Nat} {at_ : Nat → Nat} {t : State} {g : VGot}
    (h : s.growCellar o j n (at_ n) bytes = (t, g)) : s.growAll o j at_ bytes [n] = (t, g.emptied) := by
  rw [State.growAll, h]
  cases g <;> rfl

end

/-- Settles O32: each command by its checks, then what the floors, the fault or the ring become. -/
theorem memoryCommands : Obligations.MemoryCommands := by
  unfold Obligations.MemoryCommands
  intro s q c hm
  refine ⟨fun ht hb => ?alloc, fun ht hb ho => ?allocEnd, fun ht hc => ?free, ?resolve, ?grow, ?growAll⟩
  case alloc =>
    rw [exec_floorAlloc hm ht hb]
    refine ⟨fun st hc => by rw [hc], fun hc hd => ?_, fun hc hd => ?_⟩
    · rw [hc]
      exact congrArg _ (if_pos (by simpa using hd))
    · rw [hc]
      exact congrArg _ (if_neg (by simpa using hd))
  case allocEnd =>
    change execFloorAlloc .. = _
    rw [execFloorAlloc, powered_main hm]
    simp only [ht, hb, if_true]
    exact congrArg _ (if_pos (by simpa using ho))
  case free =>
    rw [exec_floorFree hm ht hc]
    exact ⟨fun ho => congrArg _ (if_pos (by simpa using ho)), fun ho => ⟨_, congrArg _ (if_neg (by simpa using ho)), rfl⟩⟩
  case resolve =>
    intro x f hn h hp hf ha hs
    change execFaultResolve .. = _
    rw [execFaultResolve, powered_main h.main]
    simp only [hn, h.jobTurn, State.resolve, hf]
    have hbad : ¬ (decide (1 < c.field 0x18 1) || c.field 0x18 1 == 1 && f.spills) = true := by
      rcases hs with hs | hs <;> simp [hs, Nat.not_lt.2 ha]
    exact congrArg _ ((if_neg hbad).trans (if_neg (by simpa using hp)))
  case grow =>
    intro x h h63
    have hff : c.field 0x10 1 ≠ 0xFF := by omega
    rw [exec_cellarGrow h (if_neg hff).symm]
    refine ⟨fun hb => congrArg _ (if_pos ?_), fun h0 hle t g hg => ?_⟩
    · rcases hb with hb | hb <;> simp [hb]
    · rw [if_neg (by simp [h0, hle, Nat.not_lt.2 h63]), growAll_one (g := g) (t := t) (by simpa [hff] using hg)]
      refine ⟨fun bs hd => ?_, fun hw => by rw [hw]; rfl, fun hd hw => ?_⟩
      · rw [hd]
        simp only [VGot.emptied, State.grown, if_neg hff]
      · cases g with
        | data bs => exact absurd rfl (hd bs)
        | wait => exact absurd rfl hw
        | _ => rfl
  case growAll =>
    intro x t bs h hff h0 hle hg
    rw [exec_cellarGrow h (if_pos hff).symm, if_neg (by simpa [h0, hff] using hle)]
    simp only [hff, if_true, hg, State.grown]

/-! ## CKPT and RESTORE -/

section
variable {s : State} {q : Nat} {c : Cmd} {attic : AtticOutcome}

theorem exec_ckpt (hm : s.hkc.main = true) (ht : s.turn q 0x13 = some c) (hb : c.begun = false) :
    exec (.ckpt q attic) s = .next (s.startCkpt q c) := by
  change execCkpt .. = _
  rw [execCkpt, powered_main hm]
  simp only [ht, hb, Bool.not_false, if_true]

theorem exec_ckpt_begun (hm : s.hkc.main = true) (ht : s.turn q 0x13 = some c) (hb : c.begun = true) (hw : c.waits = []) :
    exec (.ckpt q attic) s = .next (s.endCkpt q c attic) := by
  change execCkpt .. = _
  rw [execCkpt, powered_main hm]
  simp only [ht, hb, hw, Bool.not_true, Bool.false_eq_true, if_false, List.isEmpty_nil, if_true]

theorem endCkpt_copied {t : State} {copied : List (Nat × Nat × List Byte)} (ha : s.atticPasses = true)
    (h : s.readOutside q (s.copiedParts c.done) = .ok (t, copied)) :
    s.endCkpt q c attic = ((if bitAt (c.field 0x20 1) 0 then t.writeImage c attic copied
        else c.done.foldl (fun v j => v.goOn j) (t.writeImage c attic copied)).complete q (if attic = .ioError then 0x0E else 0)
      (if attic = .ioError then 0 else (t.imageSizes c.done c.draw).bytes) 0).finishAllocs := by
  rw [State.endCkpt, if_neg (by rw [ha]; decide), h]

/-- RESTORE once its queue, its base, the service level and the attic's ports let it run. -/
theorem exec_restore {base bytes : Nat} {h : List Byte} (hbase : base = c.field 0x10 8) (hh : h = s.headerAt base)
    (hbytes : bytes = (headerSizes h).bytes) (hm : s.hkc.main = true) (ht : s.turn q 0x14 = some c) (hb : c.field 0x10 8 % 4096 = 0)
    (hl : s.hkc.level = .full) (hj : s.jobs = []) (ha : s.atticPasses = true) :
    exec (.restore q attic) s = .next ((if attic = .ioError then s.complete q 0x0E 0 0
      else if !headerGood h s.hkc.svn then s.complete q 0x11 0 0
      else if c.field 0x18 8 < bytes then s.complete q 0x0F 0 0
      else if attic = .corrupt || !s.checksMatch base bytes then (s.wokenInVain h).complete q 0x10 0 0
      else match s.recordAt base with
        | none => (s.wokenInVain h).complete q 0x11 0 0
        | some a => if a.sound then s.restoreFrom q base h a else (s.wokenInVain h).complete q 0x10 0 0).finishAllocs) := by
  subst hbytes hh hbase
  change execRestore .. = _
  rw [execRestore, powered_main hm]
  simp only [ht]
  refine congrArg (fun u : State => Host.Outcome.next u.finishAllocs) ?_
  unfold State.restoreImage
  exact (if_neg (Decidable.not_not.2 hb)).trans ((if_neg (by rw [hl, hj]; decide)).trans (if_neg (by rw [ha]; decide)))

theorem restoreFrom_data {base : Nat} {h : List Byte} {a : Attic} {t : State} {bs : List Byte}
    (hl : a.layout = (Config.saveVersion s.hkc.signedHash).toNat) (hd : a.devnum = s.host.devnum)
    (hw : (s.reopen base h a).writeBack q a = (t, .data bs)) :
    s.restoreFrom q base h a = t.complete q 0 (maskOf (a.jobs.map (fun p => p.1))) 0 := by
  rw [State.restoreFrom, if_neg (Decidable.not_not.2 hl), hw]
  simp only [if_pos hd]

end

/-- Settles O33: CKPT by its checks and by what the attic does; RESTORE by its checks in their order. -/
theorem atticCommands : Obligations.AtticCommands := by
  unfold Obligations.AtticCommands
  intro s q c attic hm
  refine ⟨fun ht hb => ?start, fun ht hb hw ha t copied hr => ?write, fun ht hb hl hj ha => ?restore⟩
  case start =>
    rw [exec_ckpt hm ht hb]
    refine ⟨fun hbad => congrArg _ (if_pos ?_), fun h0 h1 hp => ?_⟩
    · rcases hbad with hbad | hbad <;> simp [hbad]
    · have hok : ¬ (decide (c.field 0x10 8 % 4096 ≠ 0) || decide (1 < c.field 0x20 1)) = true := by simp [h0, h1]
      have hnone : ¬ s.jobs.any (fun p => p.2.st == .preempting) = true := by simpa using hp
      unfold State.startCkpt
      rw [if_neg hok, if_neg hnone]
      exact ⟨fun hf => congrArg _ (if_pos (by rw [hf]; rfl)), fun hf => ⟨_, rfl, congrArg _ (if_neg (by rw [hf]; decide))⟩⟩
  case write =>
    intro base bytes on
    rw [exec_ckpt_begun hm ht hb hw, exec_ckpt_begun hm ht hb hw, endCkpt_copied ha hr, endCkpt_copied ha hr]
    exact ⟨rfl, (Config.freeWord t.draw.2).toNat % (bytes - 0x1000), rfl⟩
  case restore =>
    intro base h bytes
    have hp : ¬ (AtticOutcome.performed = .ioError) := by decide
    have hc : decide (AtticOutcome.performed = .corrupt) = false := by decide
    have hx (o : AtticOutcome) := exec_restore (attic := o) (base := base) (h := h) (bytes := bytes) rfl rfl rfl hm ht hb hl hj ha
    rw [hx, hx]
    simp only [if_neg hp, hc, Bool.false_or]
    refine ⟨rfl, fun hg => ?_, fun hg hsz => ?_, fun hg hsz hck => ?_, fun hg hsz hck a t bs hrec hsound hlay hdev hwb => ?_⟩
    · simp only [hg, Bool.not_false, if_true]
    · simp only [hg, Bool.not_true, Bool.false_eq_true, if_false, if_pos hsz]
    · simp only [hg, Bool.not_true, Bool.false_eq_true, if_false, if_neg (Nat.not_lt.2 hsz), hck, Bool.not_false, if_true]
    · simp only [hg, Bool.not_true, Bool.false_eq_true, if_false, if_neg (Nat.not_lt.2 hsz), hck, hrec, hsound, if_true,
        restoreFrom_data hlay hdev hwb]

end Sys2Proof.Machine
end

section
/-! The cores' events: tokens, the matcher, the issue, queues and frames (R116, R130 to R143, R167 to R172, R288, R296). -/

namespace Sys2Proof.Machine

section
variable {s : State} {c : Nat}

/-! ## Tokens and the matcher -/

/-- A token of live work reaches its core. -/
theorem arrive_here {i : Nat} {x : MeshItem} {t : Token} (h : s.Arrives i x) (hw : x.what = .value t)
    (hc : s.devCore x.job x.dst = some c) (hd : s.discards x.job t.inst c = false) {u : State} {ok : Bool}
    (hl : (s.withoutItem i).letIn c t = (u, ok)) :
    exec (.tokenArrival i) s = .next (if ok then (u.received x t.inst).progress x.job t.inst else { u with mesh := s.mesh }) := by
  change execTokenArrival .. = _
  rw [execTokenArrival, powered_main h.main]
  refine congrArg _ ?_
  unfold State.arrive
  simp only [h.takeMesh, hw, hc, hd, Bool.false_eq_true, if_false, hl]
  cases ok <;> rfl

/-- A token is let into the buffer where nothing of its job lies in the cellar and the buffer admits it. -/
theorem letIn_admitted {t : Token} (hh : ((s.job t.job.toNat).cellar ((s.job t.job.toNat).jobCore c)).hold = 0)
    (hn : ((s.job t.job.toNat).cellar ((s.job t.job.toNat).jobCore c)).count = 0) (ha : s.admits c t.job.toNat = true) :
    s.letIn c t = (s.onCore c (fun k => { k with
      buffer := k.buffer ++ [t], perf := Table.modify k.perf (64 * t.job.toNat + 7) 0 (· + 1) }), true) := by
  unfold State.letIn
  rw [if_neg (Decidable.not_not.2 hh), if_neg (by simp [hn, ha])]

theorem exec_match (hm : s.hkc.main = true) : exec (.matchToken c) s = .next (s.matchNext c) :=
  powered_main hm (fun t => t.matchNext c)

/-- The matcher turns to the first job that may have something for it. -/
theorem matchNext_first {j : Nat} {rest : List Nat} {t : State} (hr : (s.core c).ready.length < 1024)
    (hf : (cyclicAfter (s.core c).lastMatched).filter (fun j => !(s.job j).halted && s.rateOk c j
        && ((s.core c).buffer.any (fun t => t.job.toNat == j) || (s.core c).frames.any (fun f => f.job == j))) = j :: rest)
    (hj : s.matchJob c j = some t) : s.matchNext c = t := by
  unfold State.matchNext
  rw [if_neg (by simpa using hr), hf, State.matchFrom, hj]

/-! ## The issue -/

theorem exec_firing (hs : s.serving = true) : exec (.firingIssue c) s = .next (s.chooseIssue c) :=
  congrArg Host.Outcome.next (if_pos hs)

end

/-- Settles O34: what the buffer, the matcher's first job, and the slot table's job make of each event. -/
theorem matchingEvents : Obligations.MatchingEvents := by
  unfold Obligations.MatchingEvents
  intro s c hm
  refine ⟨fun i x t h hw hc hd => ⟨fun u hl => arrive_here h hw hc hd hl, fun u hl => arrive_here h hw hc hd hl, ?admitted⟩,
    fun hr => ?_, fun j rest hr hf => ⟨fun m hj => ?_, fun hj before t x after ht => ?taken⟩, fun hs => ?_, fun t hs ht => ?issue,
    fun at_ hr hp => ?recovery⟩
  case admitted =>
    intro v hh hn ha
    exact arrive_here h hw hc hd (letIn_admitted hh hn ha)
  · rw [exec_match hm]
    exact congrArg _ (if_pos (decide_eq_true hr))
  · rw [exec_match hm, matchNext_first hr hf (t := s.mergeFire c m { s.core c with lastMatched := j })]
    rw [State.matchJob, hj]
  case taken =>
    intro taken
    refine ⟨fun m hx => ?_, fun e i w hx => ?_⟩
    · rw [exec_match hm, matchNext_first hr hf (t := taken.matchTaken c m)]
      simp only [State.matchJob, hj, ht, hx]
      rfl
    · rw [exec_match hm, matchNext_first hr hf (t := taken.matchTrap c t e i w)]
      simp only [State.matchJob, hj, ht, hx]
      rfl
  · exact congrArg Host.Outcome.next (if_neg (by rw [hs]; decide))
  case issue =>
    subst ht
    rw [exec_firing hs, State.chooseIssue]
    exact ⟨fun h => by rw [h], fun j h hi => by rw [h]; simp only [hi, if_true],
      fun j h hi => by rw [h]; simp only [hi, Option.isSome_none, Bool.false_eq_true, if_false]⟩
  case recovery =>
    change execIssueRecoveryEnd .. = _
    rw [execIssueRecoveryEnd, powered_main hm, State.endRecovery, hr]
    exact congrArg _ (if_pos (by simpa using hp))

/-! ## Windows, spills and refills -/

/-- A spill whose tokens were all taken by the cellar. -/
theorem spillNewest_taken {s u : State} {c j : Nat} {kept gone : List Token}
    (hh : ((s.job j).cellar ((s.job j).jobCore c)).hold = 0) (hn : ((s.job j).cellar ((s.job j).jobCore c)).count = 0)
    (hb : 15360 < (s.core c).buffer.length) (hr : (s.job j).resv < (s.core c).holds j)
    (hs : newestOf j (s.spillCount c j) (s.core c).buffer = (kept, gone)) (hu : s.spillAll c j gone = (u, true)) :
    s.spillNewest c j = u.onCore c (fun k => { k with buffer := kept }) := by
  unfold State.spillNewest
  rw [if_neg (by simp [hh, hn, hb, hr]), hs]
  simp only [hu]

/-- Settles O35: each event by its own condition. -/
theorem queueEvents : Obligations.QueueEvents := by
  unfold Obligations.QueueEvents
  intro s c hm
  refine ⟨fun hw => ?_, fun hw => ?_, fun k clock => rfl, fun j kept gone u hh hn hb hr hs hu => ?_, fun j hb => ?_, fun j hr => ?_,
    fun j hr => ?_⟩
  · exact (powered_main hm _).trans (congrArg _ (if_pos hw))
  · exact (powered_main hm _).trans (congrArg _ (if_neg (Nat.not_lt.2 hw)))
  · exact (powered_main hm (fun t => t.spillNewest c j)).trans (congrArg _ (spillNewest_taken hh hn hb hr hs hu))
  · exact (powered_main hm (fun t => t.spillNewest c j)).trans (congrArg _ (if_pos (by simp [hb])))
  · exact (powered_main hm _).trans (congrArg _ (if_pos hr))
  · exact (powered_main hm _).trans (congrArg _ (if_neg (by rw [hr]; decide)))

/-! ## Frames -/

/-- What serving the FALLOC `q` at a core makes, where `s1` no longer holds it and `b` is its block there. -/
def State.servesFalloc (s s1 : State) (c base : Nat) (q : FallocReq) : Option Block → State
  | none => s1.answer q.req 13 0 true
  | some b =>
    if (s.core c).underLimit q.req.job q.block b && (s.core c).runFree base b.fsize then
      (s1.giveFrame c q.req.job q.req.inst q.block base).answer q.req 13 (framePtr base ((s.job q.req.job).jobCore c) s.devnum) false
    else s

/-- The oldest FALLOC of its block is served. -/
theorem exec_falloc {s : State} {c i base : Nat} {q : FallocReq} (hm : s.hkc.main = true) (hq : (s.core c).fallocs[i]? = some q)
    (ho : ((s.core c).fallocs.take i).any (fun p => p.req.job == q.req.job && p.block == q.block) = false) :
    exec (.fallocRequest c i base) s = .next (s.servesFalloc (s.setCore c { s.core c with fallocs := removeAt (s.core c).fallocs i }) c base q
      ((s.core c).blockOf q.req.job q.block)) := by
  change execFallocRequest .. = _
  rw [execFallocRequest, powered_main hm, State.serveFalloc]
  simp only [hq, ho, Bool.false_eq_true, if_false]
  cases (s.core c).blockOf q.req.job q.block <;> rfl

/-- Settles O36: the block and its limit decide a FALLOC; the other three by what arrives. -/
theorem frameEvents : Obligations.FrameEvents := by
  unfold Obligations.FrameEvents
  intro s c hm
  refine ⟨fun i base q hq ho => ?falloc, fun i x j base inst z h hw hc => ?_, fun i x a poison reply inst h hw hc hd => ?_,
    fun j i hp => ?_, fun j i hp => ?_⟩
  case falloc =>
    intro s1
    refine ⟨fun hb => ?_, fun b hb hl hf => ?_⟩
    · rw [exec_falloc hm hq ho, hb] <;> rfl
    · rw [exec_falloc hm hq ho, hb]
      exact congrArg _ (if_pos (by rw [hl, hf]; rfl))
  · change execRemoteFfree .. = _
    rw [execRemoteFfree, powered_main hm, State.arriveFfree]
    simp only [h.takeMesh, hw, hc]
  · change execStealRequestArrival .. = _
    rw [execStealRequestArrival, powered_main hm, State.arriveSteal]
    simp only [h.takeMesh, hw, hc, hd, Bool.false_eq_true, if_false]
  · exact (powered_main hm _).trans (congrArg _ (if_pos hp))
  · exact (powered_main hm _).trans (congrArg _ (if_neg (by rw [hp]; decide)))

end Sys2Proof.Machine
end

section
/-! The cores' events: tiles, the tile unit, the matrix array, banks and errors (R80, R128, R148 to R153, R164, R173, R325, R332). -/

namespace Sys2Proof.Machine

section
variable {s : State} {c : Nat}

/-! ## Tiles that travel -/

/-- The token of a shipped tile, once the tile stands in the tiles `made` of a core. -/
def Token.ofShipped (t : Token) (k : Core) (dst : Nat) (d : TileData) (made : List Nat) : Token :=
  { t with w2 := (k.fillShipped d made).handle dst (made.headD 0), poison := t.poison || d.poison }

/-- What the core's answer to the token `t1` of a shipped tile leaves: the token is in, or the item stays on the mesh. -/
def State.tileLetIn (s : State) (c i : Nat) (x : MeshItem) (t1 : Token) : State × Bool → State
  | (u, true) => (u.received x t1.inst).progress x.job t1.inst
  | (_, false) => { ((s.withoutItem i).letIn c t1).1 with mesh := s.mesh }

/-- What becomes of a shipped tile of live work that arrives: it waits, or it fills the tiles granted for it and its token is let in. -/
def State.tileArrives (s : State) (c i : Nat) (x : MeshItem) (t : Token) (d : TileData) : Option (Core × List Nat) → State
  | none => s.awaitSpace i
  | some (k1, made) =>
    s.tileLetIn c i x (t.ofShipped k1 x.dst d made)
      (((s.withoutItem i).setCore c (k1.fillShipped d made)).letIn c (t.ofShipped k1 x.dst d made))

theorem exec_tileArrival {i : Nat} {x : MeshItem} {t : Token} {d : TileData} (gs : List TileGrant) (h : s.Arrives i x)
    (hw : x.what = .tile t (some d)) (hc : s.devCore x.job x.dst = some c) (hd : s.discards x.job t.inst c = false) :
    exec (.tileArrival i gs) s = .next (if s.queuedBefore c (x.asked.getD s.nextId) then s.awaitSpace i
      else s.tileArrives c i x t d (((s.withoutItem i).core c).makeAll s.clock x.job t.inst .pending d.asks gs)) := by
  change execTileArrival .. = _
  rw [execTileArrival, powered_main h.main, State.arriveTile]
  simp only [h.takeMesh, hw, hc, hd, Bool.false_eq_true, if_false]
  refine congrArg _ (ite_congr rfl (fun _ => rfl) fun _ => ?_)
  generalize ((s.withoutItem i).core c).makeAll s.clock x.job t.inst .pending d.asks gs = made
  rcases made with _ | ⟨k1, made⟩
  · rfl
  · change (match ((s.withoutItem i).setCore c (k1.fillShipped d made)).letIn c (t.ofShipped k1 x.dst d made) with
      | (s2, true) => _ | (_, false) => _) = State.tileArrives .. 
    rw [State.tileArrives]
    generalize State.letIn _ c (t.ofShipped k1 x.dst d made) = got
    obtain ⟨u, _ | _⟩ := got <;> rfl

theorem exec_tileFree (hm : s.hkc.main = true) (i : Nat) :
    exec (.tileFree c i) s = .next ((s.freeEntryNow c i).onCore c Core.replaceBanks) :=
  powered_main hm (fun t => (t.freeEntryNow c i).onCore c Core.replaceBanks)

/-- Settles O37: the request for space and the grant decide an arrival; the tile's state the other two. -/
theorem tileTravel : Obligations.TileTravel := by
  unfold Obligations.TileTravel
  intro s c hm
  refine ⟨fun i x t d gs h hw hc hd => ?arrives, fun i x t d gs h hw hc hd => ?_, fun i x t h hw hc hp hown => ?leaves,
    fun i hf => ?_, fun i hf hi => ?_⟩
  case arrives =>
    refine ⟨fun hq => ?_, fun hq => ⟨fun hg => ?_, fun k1 made hg => ?_⟩⟩
    · exact (exec_tileArrival gs h hw hc hd).trans (congrArg _ (if_pos hq))
    · rw [exec_tileArrival gs h hw hc hd, if_neg (by rw [hq]; decide), hg, State.tileArrives]
    · intro t1
      rw [exec_tileArrival gs h hw hc hd, if_neg (by rw [hq]; decide), hg]
      exact ⟨fun u hl => congrArg _ (congrArg (s.tileLetIn c i x t1) hl), fun u hl => congrArg _ (congrArg (s.tileLetIn c i x t1) hl)⟩
  · change execTileArrival .. = _
    rw [execTileArrival, powered_main hm, State.arriveTile]
    simp only [h.takeMesh, hw, hc, hd, if_true]
  case leaves =>
    intro tile d
    change execTileLastByteLeft .. = _
    rw [execTileLastByteLeft, powered_main hm, State.tileLeaves]
    simp only [h.item, hw, hc]
    exact congrArg _ ((if_neg (by simpa [h.first] using hp)).trans (if_pos hown))
  · rw [exec_tileFree hm, State.freeEntryNow, if_neg (by simp [hf])]
  · exact exec_tileFree hm i

/-! ## The tile unit -/

/-- A request of the tile unit starts on the core `k1`, with the tiles made for it and what its record keeps. -/
def State.tileBegins (s : State) (c rid : Nat) (k1 : Core) (made : List Nat) (value : W64) (poison : Bool) : State :=
  s.setCore c { k1 with tileReqs := k1.tileReqs.map (fun x =>
    if x.req.id = rid then { x with started := true, made := made, value := value, poison := poison } else x) }

theorem exec_tileOpStart {u : State} {rid : Nat} {gs : List TileGrant} (hm : s.hkc.main = true) (h : s.startTile c rid gs = u) :
    exec (.tileOpStart c rid gs) s = .next ((u.startAdd c rid gs).startMemTile c rid gs) := by
  subst h
  exact powered_main hm (fun t => ((t.startTile c rid gs).startAdd c rid gs).startMemTile c rid gs)

variable {rid : Nat} {q : TileReq} {gs : List TileGrant}

theorem startTile_tdesc {w : TWord} (hf : (s.core c).tileReqs.find? (fun q => q.req.id == rid && !q.started) = some q)
    (hs : s.mayStart c q.req = true) (hi : q.req.instr = .tdesc w) :
    s.startTile c rid gs = s.tileBegins c rid (s.core c) [] q.value false := by
  rw [State.startTile, hf]
  simp only [hs, hi, Bool.not_true, Bool.false_eq_true, if_false]
  rfl

theorem startTile_talloc {w : TWord} {k1 : Core} {made : List Nat}
    (hf : (s.core c).tileReqs.find? (fun q => q.req.id == rid && !q.started) = some q)
    (hs : s.mayStart c q.req = true) (hi : q.req.instr = .talloc w)
    (hg : (s.core c).makeAll s.clock q.req.job q.req.inst .empty ((s.core c).asks q.req) gs = some (k1, made)) :
    s.startTile c rid gs = s.tileBegins c rid k1 made 0 false := by
  rw [State.startTile, hf]
  simp only [hs, hi, Bool.not_true, Bool.false_eq_true, if_false, hg]
  rfl

theorem startTile_tview {w : TWord} {g : TileGrant} (hf : (s.core c).tileReqs.find? (fun q => q.req.id == rid && !q.started) = some q)
    (hs : s.mayStart c q.req = true) (hi : q.req.instr = .tview w) (hb : g.index < 4096) (hfree : ((s.core c).tile g.index).st = .free) :
    s.startTile c rid [g] = s.tileBegins c rid ((s.core c).makeView q.req g.index) [g.index] 0 ((s.core c).spoils q.req.a) := by
  rw [State.startTile, hf]
  simp only [hs, hi, Bool.not_true, Bool.false_eq_true, if_false]
  exact if_pos (by simp [hb, hfree])

theorem startTile_forms {k1 : Core} {made : List Nat}
    (hf : (s.core c).tileReqs.find? (fun q => q.req.id == rid && !q.started) = some q)
    (hs : s.mayStart c q.req = true) (hi : formsBytes q.req.instr = true)
    (hg : (s.core c).makeAll s.clock q.req.job q.req.inst .pending ((s.core c).asks q.req) gs = some (k1, made)) :
    s.startTile c rid gs = s.tileBegins c rid ((k1.touchOperands q.req s.clock).performTile q.req made).1 made
      ((k1.touchOperands q.req s.clock).performTile q.req made).2.1 ((k1.touchOperands q.req s.clock).performTile q.req made).2.2 := by
  rw [State.startTile, hf]
  simp only [hs, Bool.not_true, Bool.false_eq_true, if_false]
  split
  case h_5 => simp only [hg]; rfl
  all_goals
    next h => rw [h] at hi; cases hi

section
variable {u : State} {limited : Bool} {rest : List TileReq}
  (ht : takeFirst (fun q => q.req.id == rid && q.started) (s.core c).tileReqs = some (q, rest))
  (hu : (s.setCore c { s.core c with tileReqs := rest }).serviceCheck c q.req = (u, limited))
include ht hu

theorem doneTile_tdesc {w : TWord} (hi : q.req.instr = .tdesc w) :
    s.doneTile c rid = (u.onCore c (fun k => k.releaseOperands q.req [])).answer q.req 1 q.value limited := by
  rw [State.doneTile, ht]
  simp only [hu, hi]

theorem doneTile_tget {w : TWord} (hi : q.req.instr = .tget w) :
    s.doneTile c rid
      = (u.onCore c (fun k => k.releaseOperands q.req [])).answer q.req q.req.scalarType q.value (q.poison || limited) := by
  rw [State.doneTile, ht]
  simp only [hu, hi]

theorem doneTile_new (hd : ∀ w, q.req.instr ≠ .tdesc w) (hg : ∀ w, q.req.instr ≠ .tget w) (hn : q.req.target = none) :
    s.doneTile c rid = u.finishNew c q.req q.made limited := by
  rw [State.doneTile, ht]
  simp only [hu]
  split
  case h_1 h => exact absurd h (hd _)
  case h_2 h => exact absurd h (hg _)
  case h_3 h _ _ => rw [hn] at h; cases h
  case h_4 => rfl

theorem doneTile_inPlace {h : W64} (hd : ∀ w, q.req.instr ≠ .tdesc w) (hg : ∀ w, q.req.instr ≠ .tget w) (hn : q.req.target = some h)
    {v : State} (hv : v = if limited then u.onCore c (fun k => k.onTile (handleIndex h) (fun t => { t with poison := true })) else u) :
    s.doneTile c rid = v.finishInPlace c q.req h (v.tileOf c h).poison := by
  rw [State.doneTile, ht]
  simp only [hu]
  split
  case h_1 h => exact absurd h (hd _)
  case h_2 h => exact absurd h (hg _)
  case h_3 h' _ _ => rw [hn] at h'; cases h'; rw [hv]
  case h_4 h' _ _ => rw [hn] at h'; cases h'

end

theorem exec_tileOpDone {u : State} (hm : s.hkc.main = true) (h : s.doneTile c rid = u) :
    exec (.tileOpDone c rid) s = .next (u.doneAdd c rid) := by
  subst h
  exact powered_main hm (fun t => (t.doneTile c rid).doneAdd c rid)

end

/-- Settles O38: the form of the request decides its start and its end. -/
theorem tileUnitEvents : Obligations.TileUnitEvents := by
  unfold Obligations.TileUnitEvents
  intro s c rid q hm
  refine ⟨fun hf hs => ?start, fun rest u limited ht hu => ?done⟩
  case start =>
    intro begun rest
    exact ⟨fun w gs hi => exec_tileOpStart hm (startTile_tdesc hf hs hi),
      fun w gs k1 made hi hg => exec_tileOpStart hm (startTile_talloc hf hs hi hg),
      fun w g hi hb hfree => exec_tileOpStart hm (startTile_tview hf hs hi hb hfree),
      fun gs k1 made hi hg => exec_tileOpStart hm (startTile_forms hf hs hi hg)⟩
  case done =>
    exact ⟨fun w hi => exec_tileOpDone hm (doneTile_tdesc ht hu hi), fun w hi => exec_tileOpDone hm (doneTile_tget ht hu hi),
      fun hd hg hn => exec_tileOpDone hm (doneTile_new ht hu hd hg hn),
      fun h hd hg hn => exec_tileOpDone hm (doneTile_inPlace ht hu hd hg hn rfl)⟩

/-! ## The matrix array -/

section
variable {s : State} {c rid : Nat} {q : TileReq}

theorem exec_mmaDone {ok : Bool} (hm : s.hkc.main = true) : exec (.mmaDone c rid ok) s = .next (s.doneMma c rid ok) :=
  powered_main hm (fun t => t.doneMma c rid ok)

theorem exec_mmaStart {gs : List TileGrant} (hm : s.hkc.main = true) : exec (.mmaStart c rid gs) s = .next (s.startMma c rid gs) :=
  powered_main hm (fun t => t.startMma c rid gs)

/-- What the matrix request `q` that is done writes and answers, from what the service level says of its formats. -/
def State.mmaWrites (s : State) (c : Nat) (q : TileReq) (h : W64) (ok : Bool) : State × Bool → State
  | (u, limited) =>
    let poison := (s.core c).mmaPoison q.req || limited || !ok
    let t := u.onCore c (fun k => ((k.touchTile (k.opTile h) s.clock).putCodes (k.opTile h) ((s.core c).mmaFinish q)).onTile
      (handleIndex h) (fun t => { t with poison := poison }))
    if q.req.target.isSome then t.finishInPlace c q.req h poison arraySrc else t.finishNew c q.req q.made false arraySrc

/-- The started request that is next to finish, of a job that goes on. -/
theorem doneMma_next {rest : List TileReq} {h : W64} {ok : Bool}
    (ht : takeFirst (fun q => q.req.id == rid && q.started) (s.core c).mmaReqs = some (q, rest)) (hh : (s.job q.req.job).halted = false)
    (hb : s.mmaBehind c q = false) (heq : h = q.req.target.getD ((s.core c).handle q.req.core (q.made.headD 0))) {t0 : State}
    (ht0 : t0 = ((s.setCore c { s.core c with mmaReqs := rest }).progress q.req.job q.req.inst).sparseMeta c q.req h) :
    s.doneMma c rid ok = s.mmaWrites c q h ok ((if ok then t0 else t0.residueBad c).serviceCheck c q.req) := by
  rw [State.doneMma, ht]
  simp only [hh, hb, Bool.or_self, Bool.false_eq_true, if_false]
  subst ht0 heq
  cases hq : q.req.target
  all_goals
    simp only [Option.getD_none, Option.getD_some]
    generalize State.serviceCheck _ c q.req = got
    obtain ⟨u, limited⟩ := got
    simp only [State.mmaWrites, hq]
    rfl

theorem mmaBehind_false (h : ∀ x ∈ (s.core c).mmaReqs, x.started = true → x.turn < q.turn → (s.job x.req.job).halted = true) :
    s.mmaBehind c q = false := by
  simpa [State.mmaBehind] using h

theorem mmaBehind_true (h : ∃ x ∈ (s.core c).mmaReqs, x.started = true ∧ x.turn < q.turn ∧ (s.job x.req.job).halted = false) :
    s.mmaBehind c q = true := by
  simpa [State.mmaBehind, and_assoc] using h

end

/-- Settles O39: a halted job's requests stay; of the others the next to start, and the first that started, go on. -/
theorem matrixEvents : Obligations.MatrixEvents := by
  unfold Obligations.MatrixEvents
  intro s c rid q hm
  refine ⟨fun gs k1 made hf hh hs hg => ?start, fun rest h t0 u limited ok ht hh hb heq ht0 hu => ?done, fun gs hf hh => ?_,
    fun rest ok ht hw => ?_⟩
  case start =>
    rw [exec_mmaStart hm, State.startMma, hf]
    simp only [hh, hs, Bool.not_true, Bool.or_self, Bool.false_eq_true, if_false, hg]
    rfl
  case done =>
    intro poison t
    exact (exec_mmaDone hm).trans (congrArg _ ((doneMma_next ht hh (mmaBehind_false hb) heq ht0).trans
      (congrArg (s.mmaWrites c q h ok) hu)))
  · rw [exec_mmaStart hm, State.startMma, hf]
    simp only [hh, Bool.true_or, if_true]
  · rw [exec_mmaDone hm, State.doneMma, ht]
    refine congrArg _ (if_pos ?_)
    rcases hw with hw | hw
    · rw [hw]; rfl
    · rw [mmaBehind_true hw, Bool.or_true]

/-! ## Banks and errors -/

section
variable {s : State} {c : Nat}

theorem exec_struck (hm : s.hkc.main = true) (place : EccPlace) : exec (.eccError c place false) s = .next (s.strike c place) :=
  powered_main hm (fun t => if false then t.corrected c else t.strike c place)

theorem strike_tileEntry {i : Nat} (h : ((s.core c).tile i).st ≠ .free) :
    s.strike c (.tileEntry i) = (s.uncorrectable c false).cancelJob ((s.core c).tile i).job 5 2 :=
  if_neg (by simpa using h)

theorem strike_token {p : Nat} {t : Token} (h : (s.core c).buffer[p]? = some t) (lost : Bool) :
    s.strike c (.tokenEntry p lost) = if lost then (s.uncorrectable c false).cancelJob t.job.toNat 5 1
      else (s.uncorrectable c false).onCore c (fun k => { k with buffer := setAt k.buffer p { t with poison := true } }) := by
  simp only [State.strike, h]

/-- A core with the tiles over a struck unit poisoned, and its bank due for repair. -/
def Core.struckTile (k : Core) (u : Nat) : Core :=
  let k1 := (k.tilesOver u).foldl (fun k i => k.onTile i (fun t => { t with poison := true })) k
  { k1 with failing := if k1.failing.contains (bankAt (64 * u)).1 then k1.failing else (bankAt (64 * u)).1 :: k1.failing }

theorem struckTile_failing (k : Core) (u : Nat) : (bankAt (64 * u)).1 ∈ (k.struckTile u).failing := by
  unfold Core.struckTile
  dsimp only
  split
  · next h => simpa using h
  · exact List.mem_cons_self

end

/-- Settles O40: a group's banks by their state and their idle time; an error by the place that it struck. -/
theorem bankAndErrorEvents : Obligations.BankAndErrorEvents := by
  unfold Obligations.BankAndErrorEvents
  intro s c hm
  refine ⟨fun bank hb hi => ?dim, fun bank hb => ?_, fun bank hb => ?_, fun place => ?_, fun n => exec_struck hm _,
    fun b i => exec_struck hm _, fun u => ⟨(s.core c).struckTile u, exec_struck hm _, struckTile_failing _ u, rfl⟩, fun i hi => ?_,
    fun j => exec_struck hm _, fun p t ht => ?_, fun p t ht => ?_⟩
  case dim =>
    refine (powered_main hm (fun t => t.onCore c (fun k => k.dimBanks bank t.clock))).trans (congrArg _ ?_)
    exact congrArg (s.setCore c) (if_pos ⟨hi, by simpa using hb⟩)
  · exact (powered_main hm _).trans (congrArg _ (if_pos (by rw [hb]; rfl)))
  · exact (powered_main hm _).trans (congrArg _ (if_neg (by simpa using hb)))
  · exact powered_main hm (fun t => if true then t.corrected c else t.strike c place)
  · rw [exec_struck hm, strike_tileEntry hi]
  · rw [exec_struck hm, strike_token ht, if_pos rfl]
  · rw [exec_struck hm, strike_token ht, if_neg (by decide)]

end Sys2Proof.Machine
end

section
/-! The events of device memory: elements, walks, WATCHes, and the combiner (R86 to R91, R223, R237, R240 to R242). -/

namespace Sys2Proof.Machine

section
variable {s : State} {rid n c : Nat} {m : MemReq} {e : Elem} {p : TlbEntry}

/-! ## Elements at their home -/

theorem State.Performs.elemTurn (h : s.Performs rid n c m e p) : s.elemTurn c m n = some e := by
  have hb : (m.begun || !m.req.tileForm) = true := by rcases h.begun with hb | hb <;> simp [hb]
  unfold State.elemTurn
  rw [h.element]
  exact if_pos (by simp [h.waits, h.unfrozen, hb, h.gate, h.order])

/-- The element that may be performed is performed at its page. -/
theorem State.Performs.performMem (h : s.Performs rid n c m e p) (ecc : EccOutcome) :
    s.performMem rid n ecc = s.performAt c m n e p ecc := by
  have hi := h.instr
  unfold State.performMem
  rw [h.request]
  simp only [h.core]
  split
  case h_4 =>
    have hw : ¬ (match m.req.instr with | .wcfg _ => !m.begun | _ => false) = true := by
      split
      · next hx => rw [hx] at hi; cases hi
      · decide
    refine (if_neg hw).trans ?_
    simp only [h.elemTurn, h.page, h.allowed]
  all_goals
    next hx => rw [hx] at hi; cases hi

/-- MEMORY_PERFORM of an element that may be performed. -/
theorem State.Performs.exec (h : s.Performs rid n c m e p) (ecc : EccOutcome) :
    exec (.memoryPerform rid n ecc) s = .next (s.performAt c m n e p ecc) := by
  change execMemoryPerform .. = _
  rw [execMemoryPerform, powered_main h.main, if_pos, h.performMem]
  exact List.any_eq_true.2 ⟨m, List.mem_of_find?_eq_some h.request, List.find?_some (p := fun m : MemReq => m.req.id == rid) h.request⟩

/-- A store to a write-combining page goes to the combiner. -/
theorem performAt_combining (ha : m.req.acc = .write) (ht : bits p.leaf 2 2 = 1) (ecc : EccOutcome) :
    s.performAt c m n e p ecc = s.storeWc c m.req n e p := by
  unfold State.performAt
  exact if_pos (by rw [ha, pteType, ht]; rfl)

/-- A store that names memory is taken by the combiner, or waits for room there. -/
theorem storeWc_memory {u : State} {taken : Bool}
    (hh : (∃ a, homeOf s.devnum (p.at e.va) = .hbm a ∨ homeOf s.devnum (p.at e.va) = .host a)
      ∨ ∃ dev a, homeOf s.devnum (p.at e.va) = .fabric dev a ∧ a < hbmBytes)
    (hc : s.combine c m.req (storageOf s.devnum (p.at e.va)) e.data = (u, taken)) :
    s.storeWc c m.req n e p = if taken then u.elemDone c m.req.id n .done else u := by
  unfold State.storeWc
  simp only [hc]
  refine (if_neg ?_).trans (by cases taken <;> rfl)
  rcases hh with ⟨a, h | h⟩ | ⟨dev, a, h, hlt⟩
  · simp [h]
  · simp [h]
  · simp [h, hlt]

theorem performAt_direct (ha : m.req.acc ≠ .write ∨ bits p.leaf 2 2 ≠ 1) :
    ¬ (m.req.acc == .write && pteType p.leaf == 1) = true := by
  rcases ha with h | h <;> simp [pteType, h]

@[simp] theorem hbmEcc_clean (s : State) (pa len : Nat) : s.hbmEcc pa len .clean = s := ite_self s

/-- The host's answer to an element that was sent to the host's memory. -/
theorem exec_hostResponse {id a : Nat} {ok : Bool} (hm : s.hkc.main = true) (hf : s.memReqs.find? (fun m => m.req.id == rid) = some m)
    (hc : s.devCore m.req.job m.req.core = some c) (he : m.elems[n]? = some e) (hst : e.st = .away id) (hp : e.page = some p)
    (hh : homeOf s.devnum (p.at e.va) = .host a) (hs : s.spanPasses a e.len = true) {t : State} (ht : (if !ok then s.elemDone c rid n .refused
      else match m.req.acc with
        | .write => (s.hostWrite a e.data).elemDone c rid n .done
        | .atomic =>
          let old := leNat (s.hostRead a m.req.bytes)
          let new := atomicNew m.req.m.aop.toNat m.req.bytes m.req.vty old (operandIn m.req.vty m.req.b % 2 ^ (8 * m.req.bytes))
            (operandIn m.req.vty m.req.d % 2 ^ (8 * m.req.bytes))
          (s.hostWrite a (natLe m.req.bytes new)).elemDone c rid n (.value old)
        | _ => s.elemDone c rid n (.bytes (s.hostRead a e.len))) = t) :
    exec (.hostResponse rid n ok) s = .next t := by
  subst ht
  change execHostResponse .. = _
  rw [execHostResponse, powered_main hm, State.hostAnswer, hf]
  simp only [hc, he, hst, hp, hh, hs, Bool.not_true, Bool.false_eq_true, if_false] <;> rfl

end

/-- Settles O41: the home and the kind of the access decide what an element does. -/
theorem elementsPerformed : Obligations.ElementsPerformed := by
  unfold Obligations.ElementsPerformed
  intro s rid n c m e p
  refine ⟨fun h ha ht ecc u taken => ⟨fun a hh hc => ?_, fun dev a hh hlt hc => ?_⟩, fun h ha => ?direct,
    fun id a hm hf hc he hst hp hh hs => ?host⟩
  · rw [h.exec, performAt_combining ha ht, storeWc_memory (.inl ⟨a, hh⟩) hc]
  · rw [h.exec, performAt_combining ha ht, storeWc_memory (.inr ⟨dev, a, hh, hlt⟩) hc]
  case direct =>
    refine ⟨fun a u bs ecc hh hw hr => ?_, fun a u bs hh hr hn hd => ?_, fun a w hh hr hw => ?_, fun a u g hh hat hg => ?_,
      fun dev a ecc hh => ?_, fun a ecc hh hs => ?_, fun ecc hh => ?_⟩
    all_goals
      rw [h.exec, State.performAt, if_neg (performAt_direct ha)]
      simp only [hh]
    · simp only [hw, hr]
    · simp only [hr, hbmEcc_clean, hd]
    · simp only [hr, hw, hbmEcc_clean]
    · simp only [hat, hbmEcc_clean, hg]
    · exact congrArg _ (if_pos hs)
    · rfl
  case host =>
    exact ⟨exec_hostResponse hm hf hc he hst hp hh hs rfl, fun ha => exec_hostResponse hm hf hc he hst hp hh hs (by simp only [ha]; rfl),
      fun ha => exec_hostResponse hm hf hc he hst hp hh hs (by simp only [ha]; rfl),
      fun ha => exec_hostResponse hm hf hc he hst hp hh hs (by simp only [ha]; rfl)⟩

/-! ## Walks -/

section
variable {s : State} {rid n c : Nat} {m : MemReq} {e : Elem}

@[simp] theorem touchRoom_none_host (s : State) (r n : Nat) : (s.touchRoom none r n).host = s.host := by
  unfold State.touchRoom
  dsimp only
  split <;> rfl

/-- A walk leaves the jobs and the registers of the host interface. -/
theorem touchTables_keeps (s : State) (j va : Nat) : (s.touchTables j va).jobs = s.jobs ∧ (s.touchTables j va).host = s.host := by
  refine ⟨foldl_keeps (fun t : State => t.jobs) (fun t p => ?_) _ s, foldl_keeps (fun t : State => t.host) (fun t p => ?_) _ s⟩
  · split
    · exact State.touchRoom_none_jobs ..
    · rfl
  · split
    · exact touchRoom_none_host ..
    · rfl

theorem loadPort_touchTables (s : State) (j va c : Nat) (r : Req) : loadPort (s.touchTables j va) c r = loadPort s c r := by
  obtain ⟨hj, hh⟩ := touchTables_keeps s j va
  unfold loadPort State.instId State.inst? State.job? State.devnum
  rw [hj, hh]

section
variable (hm : s.hkc.main = true) (hf : s.memReqs.find? (fun m => m.req.id == rid) = some m)
  (hc : s.devCore m.req.job m.req.core = some c) (he : s.elemTurn c m n = some e) (hp : s.tlbFind c m.req.job e.va = none)
include hm hf hc he hp

theorem exec_pageWalk_found {t : TlbEntry} (hw : (s.touchTables m.req.job e.va).walk m.req.job e.va = .ok t) :
    exec (.pageWalk rid n) s = .next ((s.touchTables m.req.job e.va).fillTlbs c t) := by
  change execPageWalk .. = _
  rw [execPageWalk, powered_main hm, State.pageWalkMem, hf]
  simp only [hc, he, hp, Option.isSome_none, Bool.false_eq_true, if_false, hw]

theorem exec_pageWalk_absent {f : WalkFault} {u : State} {id : Nat}
    (hw : (s.touchTables m.req.job e.va).walk m.req.job e.va = .error f) (hk : f.kind = 0)
    (hu : (s.touchTables m.req.job e.va).absentFault (loadPort s c m.req) m.req.inst (.load rid n) e.va m.req.acc f = (u, id)) :
    exec (.pageWalk rid n) s = .next (u.onElem rid n (fun x => { x with st := .frozen id })) := by
  change execPageWalk .. = _
  rw [execPageWalk, powered_main hm, State.pageWalkMem, hf]
  simp only [hc, he, hp, Option.isSome_none, Bool.false_eq_true, if_false, hw, hk, if_true, hu]

theorem exec_pageWalk_refused {f : WalkFault} (hw : (s.touchTables m.req.job e.va).walk m.req.job e.va = .error f) (hk : f.kind ≠ 0) :
    exec (.pageWalk rid n) s = .next ((s.touchTables m.req.job e.va).refuseElem c m.req n e f) := by
  change execPageWalk .. = _
  rw [execPageWalk, powered_main hm, State.pageWalkMem, hf]
  simp only [hc, he, hp, Option.isSome_none, Bool.false_eq_true, if_false, hw, if_neg hk]

end

/-! ## A WATCH whose time is over, and the combiner's writes -/

/-- WATCH_TIMEOUT of a WATCH of a core whose time is over. -/
theorem exec_watchTimeout {t : Nat} {w : MWord} (hm : s.hkc.main = true) (hf : s.memReqs.find? (fun m => m.req.id == rid) = some m)
    (hs : m.since = some t) (he : m.elems = [e]) (hi : m.req.instr = .watch w) (hd : m.req.d ≠ 0) (ht : t + m.req.d.toNat ≤ s.time.toNat)
    (hc : s.devCore m.req.job m.req.core = some c) {u : State}
    (hu : (m.begun = true ∧ u = s.elemDone c rid 0 (.value m.val)) ∨ (m.begun = false ∧ m.req.job < 4096 ∧ ∃ v bs,
      s.devRead (some m.req.job) e.dest m.req.bytes = (v, .data bs) ∧ u = v.elemDone c rid 0 (.value (leNat bs)))) :
    exec (.watchTimeout rid) s = .next u := by
  have hnot : ¬ (decide (m.req.d = 0) || decide (s.time.toNat < t + m.req.d.toNat)) = true := by
    simpa [ht] using hd
  change execWatchTimeout .. = _
  rw [execWatchTimeout, powered_main hm, State.watchExpires, hf]
  simp only [hs, he, hi, hc, Option.getD_some, if_neg hnot]
  rcases hu with ⟨hb, rfl⟩ | ⟨hb, hj, v, bs, hr, rfl⟩
  · exact congrArg _ (if_pos hb)
  · have hl : ¬ remoteJob ≤ m.req.job := Nat.not_le.2 hj
    simp only [hb, Bool.false_eq_true, if_false, if_neg hl, hr]

theorem exec_wcEntryWrite {die i : Nat} {x : WcEntry} (hm : s.hkc.main = true) (hx : (Table.getD s.wc die [])[i]? = some x) :
    exec (.wcEntryWrite die i) s = .next (s.flushEntry die x) := by
  change execWcEntryWrite .. = _
  rw [execWcEntryWrite, powered_main hm]
  simp only [hx]

end

/-- Settles O42: the walk's end, the WATCH's state, and the entry's home decide. -/
theorem walksAndTimeouts : Obligations.WalksAndTimeouts := by
  unfold Obligations.WalksAndTimeouts
  intro s rid n c m e hm
  refine ⟨fun hf hc he hp => ?walk, fun t w u bs hf hs he hi hd ht hc => ?watch, fun die i x hx => ?wc⟩
  case walk =>
    intro t
    exact ⟨fun p hw => exec_pageWalk_found hm hf hc he hp hw,
      fun f u id hw hk hu => exec_pageWalk_absent hm hf hc he hp hw hk (by rw [← loadPort_touchTables s m.req.job e.va]; exact hu),
      fun f hw hk => exec_pageWalk_refused hm hf hc he hp hw hk⟩
  case watch =>
    exact ⟨fun hb => exec_watchTimeout hm hf hs he hi hd ht hc (.inl ⟨hb, rfl⟩),
      fun hb hj hr => exec_watchTimeout hm hf hs he hi hd ht hc (.inr ⟨hb, hj, u, bs, hr, rfl⟩)⟩
  case wc =>
    intro gone
    rw [exec_wcEntryWrite hm hx]
    unfold State.flushEntry
    refine ⟨fun a hh => ?_, fun a hh hs => ?_, fun dev a hh hn => ?_⟩
    all_goals simp only [hh]
    · rfl
    · exact congrArg _ (if_pos hs)
    · refine congrArg _ (if_neg ?_)
      simpa using hn

end Sys2Proof.Machine
end

section
/-! The engines' events, floors and rooms, and the accesses of the host and of other devices (R16, R53, R69 to R81, R92, R157 to R163,
R374 to R377). -/

namespace Sys2Proof.Machine

section
variable {s : State}

/-! ## Walkers -/

/-- WALKER_ELEMENT of a walker whose job's engines work: its next step. -/
theorem exec_walkerStep {c w : Nat} (hm : s.hkc.main = true) (hj : s.engineRuns ((s.core c).walker w).job = true) (gs : List TileGrant) :
    exec (.walkerElement c w { grant := gs }) s = .next (s.walkerStep c w gs) := by
  change execWalkerElement .. = _
  rw [execWalkerElement, powered_main hm, if_pos hj]
  rfl

/-- WALKER_ELEMENT of a walker whose job's engines work: units of its round by themselves. -/
theorem exec_walkerUnits {c w : Nat} (hm : s.hkc.main = true) (hj : s.engineRuns ((s.core c).walker w).job = true) {us es : List (Nat × Nat)}
    (hne : us ≠ [] ∨ es ≠ []) (gs : List TileGrant) :
    exec (.walkerElement c w { grant := gs, units := us, entries := es }) s = .next (s.walkerUnits c w us es) := by
  change execWalkerElement .. = _
  rw [execWalkerElement, powered_main hm, if_pos hj]
  exact congrArg _ (if_neg (by rcases hne with h | h <;> simp [h]))

section
variable {c w : Nat} {x : Walker} (hx : (s.core c).walker w = x) (hc : x.claimed = true) (hf : x.frozen = none) (hs : x.stopping = none)
include hx hc hf hs

theorem walkerStep_wgo {r : Req} {rest : List Req} {m : MWord} (gs : List TileGrant) (hr : x.running = false) (hq : x.queue = r :: rest)
    (hi : r.instr = .wgo m) : s.walkerStep c w gs = s.beginRound c w r := by
  subst hx
  simp only [State.walkerStep, hc, hf, hs, hr, hq, hi, Option.isSome_none, Bool.not_true, Bool.not_false, Bool.false_eq_true, if_false, if_true]

theorem walkerStep_wpar {r : Req} {rest : List Req} {m : MWord} (gs : List TileGrant) (hr : x.running = false) (hq : x.queue = r :: rest)
    (hi : r.instr = .wpar m) :
    s.walkerStep c w gs = (s.onWalker c w (fun y => { y with queue := rest })).applyWpar c w r := by
  subst hx
  simp only [State.walkerStep, hc, hf, hs, hr, hq, hi, Option.isSome_none, Bool.not_true, Bool.not_false, Bool.false_eq_true, if_false, if_true]

theorem walkerStep_empty (gs : List TileGrant) (hr : x.running = true) (ht : x.shape.total = 0) : s.walkerStep c w gs = s.emptyRound c w := by
  subst hx
  simp only [State.walkerStep, hc, hf, hs, hr, ht, Option.isSome_none, Bool.not_true, Bool.false_eq_true, if_false, beq_self_eq_true, if_true]

theorem walkerStep_point (gs : List TileGrant) (hr : x.running = true) (ht : x.shape.total ≠ 0)
    (he : x.shape.kind ≠ 2 ∨ x.entry ≠ [] ∨ x.entryBad = true) :
    s.walkerStep c w gs = if x.shape.store then s.storePoint c w else s.loadPoint c w gs := by
  subst hx
  have hentered : ¬ (decide (((s.core c).walker w).shape.kind = 2) && !((s.core c).walker w).entered) = true := by
    rcases he with he | he | he <;> simp [Walker.entered, he]
  have htotal : ¬ (((s.core c).walker w).shape.total == 0) = true := by simpa using ht
  simp only [State.walkerStep, hc, hf, hs, hr, Option.isSome_none, Bool.not_true, Bool.false_eq_true, if_false]
  exact (if_neg htotal).trans (if_neg hentered)

theorem walkerUnits_load {us es : List (Nat × Nat)} (hr : x.running = true) (ht : x.shape.total ≠ 0) (hl : x.shape.store = false) :
    s.walkerUnits c w us es
      = us.foldl (fun t u => t.walkerEarly c w none u.1 u.2) (es.foldl (fun t u => t.entryEarly c w u.1 u.2) s) := by
  subst hx
  unfold State.walkerUnits
  rw [if_neg (by simp [hc, hf, hs, hr, ht])]
  exact if_neg (by rw [hl]; decide)

end

/-- A walker that WSTOP has stopped waits for its writes to other devices. -/
theorem walkerStep_stopping {c w : Nat} {x : Walker} {r : Req} (hx : (s.core c).walker w = x) (hc : x.claimed = true)
    (hs : x.stopping = some r) (gs : List TileGrant) :
    s.walkerStep c w gs = if s.walkerWrites c w then s else s.finishStop c w x r := by
  subst hx
  simp only [State.walkerStep, hc, hs, Option.isSome_some, Bool.not_true, Bool.false_eq_true, if_false, if_true]

/-! ## The copy engine and fault records -/

theorem copyAt_head {die j q : Nat} {x : CopyReq}
    (hf : s.copies.find? (fun x => x.die == die && x.req.job == j && x.queue == q) = some x) (hfz : x.frozen = none)
    (ho : s.copyOut die j q = false) : s.copyAt die j q = some x := by
  unfold State.copyAt
  rw [hf]
  simp only [hfz, ho, Option.isSome_none, Bool.or_self, Bool.false_eq_true, if_false]

theorem exec_copyRequest {die j : Nat} (hm : s.hkc.main = true) (hj : s.engineRuns j = true) (turn : CopyTurn) :
    exec (.copyRequest die j turn) s = .next (if s.prefWaits die then s
      else if turn.units.isEmpty then s.copyStep die j turn.queue else s.copyTurn die j turn.queue turn.units) := by
  change execCopyRequest .. = _
  rw [execCopyRequest, powered_main hm, hj]
  rfl

/-- The first buffered record of a die, of a job that is here, goes to its ring. -/
theorem exec_faultRecordWrite {die : Nat} {r : FaultRec} {rest : List FaultRec} (hm : s.hkc.main = true)
    (hb : Table.getD s.faultBuf die [] = r :: rest) (hj : (s.job? r.job).isSome = true) {u : State}
    (hu : (match s.putFault r with
      | .written t slot => ({ t with faultBuf := Table.put t.faultBuf die ((Table.getD t.faultBuf die []).filter (fun q => q.id != r.id)) } :
          State).faultEvent r.job r.id slot r.kind
      | .lost t => ({ t with faultBuf := Table.put t.faultBuf die ((Table.getD t.faultBuf die []).filter (fun q => q.id != r.id)) } :
          State).loseFault r.job r.id r.kind
      | .waits t => t.writeFault die rest [r.job]) = u) :
    exec (.faultRecordWrite die) s = .next u := by
  have hn : ¬ (s.job? r.job).isNone = true := by
    rw [Option.isNone_iff_eq_none]
    exact fun h => by rw [h] at hj; cases hj
  subst hu
  change execFaultRecordWrite .. = _
  rw [execFaultRecordWrite, powered_main hm, hb, State.writeFault]
  simp only [List.contains_nil, Bool.false_eq_true, if_false, if_neg hn] <;> rfl

end

/-- Settles O43: the walker's state, the copy queue's head, and the first buffered record decide. -/
theorem engineEvents : Obligations.EngineEvents := by
  unfold Obligations.EngineEvents
  intro s c w gs hm
  refine ⟨fun x hx hj hc hf hs => ?walker, fun x r hx hj hc hs => ?stop, fun die j q hj hp us => ?_,
    fun die j q x b y t z hj hp hx hfz hb ho hck hu => ?copy, fun die r rest hb hj => ?fault⟩
  case walker =>
    have hr : s.engineRuns ((s.core c).walker w).job = true := by rw [hx]; exact hj
    refine ⟨fun r rest m h0 hq hi => ?_, fun r rest m h0 hq hi => ?_, fun h1 ht => ?_, fun h1 ht he => ?_, fun us es hne h1 ht hl => ?_⟩
    · rw [exec_walkerStep hm hr, walkerStep_wgo hx hc hf hs gs h0 hq hi]
    · rw [exec_walkerStep hm hr, walkerStep_wpar hx hc hf hs gs h0 hq hi]
    · rw [exec_walkerStep hm hr, walkerStep_empty hx hc hf hs gs h1 ht]
    · rw [exec_walkerStep hm hr, walkerStep_point hx hc hf hs gs h1 ht he]
    · rw [exec_walkerUnits hm hr hne, walkerUnits_load hx hc hf hs h1 ht hl]
  case stop =>
    rw [exec_walkerStep hm (by rw [hx]; exact hj), walkerStep_stopping hx hc hs]
    exact ⟨fun h => congrArg _ (if_pos h), fun h => congrArg _ (if_neg (by rw [h]; decide))⟩
  · rw [exec_copyRequest hm hj, if_pos hp]
  case copy =>
    refine ⟨?_, ?_⟩
    · rw [exec_copyRequest hm hj, if_neg (by rw [hp]; decide)]
      rfl
    · unfold State.copyHead
      rw [copyAt_head hx hfz ho]
      simp only [hb, hck, State.runCopy, hu]
  case fault =>
    intro without
    exact ⟨fun t slot hp => exec_faultRecordWrite hm hb hj (by rw [hp]), fun t hp => exec_faultRecordWrite hm hb hj (by rw [hp]),
      fun t hr hp => exec_faultRecordWrite hm hb hj (by rw [hp, hr]; rfl)⟩

/-! ## Floors and rooms -/

section
variable {s : State}

theorem begunWhere_none {p : Cmd → Bool} (h : ∀ q < 16, (s.queue q).cur = none) : s.begunWhere p = [] := by
  unfold State.begunWhere
  refine List.filter_eq_nil_iff.2 fun q hq => ?_
  rw [h q (List.mem_range.1 hq)]
  exact Bool.false_ne_true

/-- ROOM_SAFELIGHT of a room while no command is under way. -/
theorem exec_roomSafelight (hm : s.hkc.main = true) (room : Nat) : exec (.roomSafelight room) s = .next
    (if (s.room room).lit && !s.covered room && decide ((s.room room).last + s.idleClocks ≤ s.clock)
        && (s.begunWhere (fun c => ((c.op == 0x0D || c.op == 0x0E) && c.floors.any (fun f => f / 16 == room)) || c.op == 0x13
          || c.op == 0x14)).isEmpty then
      { s with
        rooms := Table.put s.rooms room { s.room room with lit := false }
        floors := s.floors.map (fun (k, f) => if k / 16 = room && f.st == .lit then (k, { f with st := .safelight }) else (k, f)) }
    else s) := by
  change execRoomSafelight .. = _
  rw [execRoomSafelight, powered_main hm]

theorem exec_roomWake (hm : s.hkc.main = true) (room : Nat) :
    exec (.roomWake room) s = .next (if (s.room room).waking then s.lightRoom room else s).answerExpos := by
  change execRoomWake .. = _
  rw [execRoomWake, powered_main hm]

end

/-- Settles O44: the state of the floor or of the room decides. -/
theorem floorAndRoomEvents : Obligations.FloorAndRoomEvents := by
  unfold Obligations.FloorAndRoomEvents
  intro s room floor hm hr hf f
  have hroom : f / 16 = room := by omega
  refine ⟨fun hz hl hb => ?lit, fun hz => ?_, fun region hl hlt hn => ?_, fun region hn => ?_, fun corrected bad ho => ?scrub,
    fun corrected bad ho => ?_, fun hl hc hi hq => ?_, fun hn => ?_, fun hw => ?_, fun hw => ?_⟩
  case lit =>
    change execFloorLit .. = _
    rw [execFloorLit, powered_main hm, State.lightFloor]
    refine congrArg _ (if_pos ?_)
    rw [show 16 * room + floor = f from rfl, hroom, hz, hl, hb]
    rfl
  · change execFloorLit .. = _
    rw [execFloorLit, powered_main hm, State.lightFloor]
    exact congrArg _ (if_neg (by simp [show (s.floor (16 * room + floor)).st ≠ .zeroing from hz]))
  · change execBackgroundZero .. = _
    rw [execBackgroundZero, powered_main hm]
    exact congrArg _ (if_pos (by rw [show 16 * room + floor = f from rfl, hl, hn]; simpa using hlt))
  · change execBackgroundZero .. = _
    rw [execBackgroundZero, powered_main hm]
    refine congrArg _ (if_neg ?_)
    rw [show 16 * room + floor = f from rfl]
    rcases hn with hn | hn | hn
    · simp [hn]
    · simp [Nat.not_lt.2 hn]
    · simp only [hn, Bool.not_true, Bool.and_false, Bool.false_eq_true, not_false_eq_true]
  case scrub =>
    intro us
    refine ⟨_, rfl, ?_⟩
    change execPatrolScrub .. = _
    rw [execPatrolScrub, powered_main hm]
    exact congrArg _ (if_pos ho)
  · change execPatrolScrub .. = _
    rw [execPatrolScrub, powered_main hm]
    exact congrArg _ (if_neg (by rw [show (s.floor (16 * room + floor)).st.open = false from ho]; decide))
  · rw [exec_roomSafelight hm]
    exact congrArg _ (if_pos (by rw [hl, hc, begunWhere_none hq]; simpa using hi))
  · rw [exec_roomSafelight hm]
    refine congrArg _ (if_neg ?_)
    rcases hn with hn | hn | hn
    · simp [hn]
    · simp [hn]
    · simp [Nat.not_le.2 hn]
  · rw [exec_roomWake hm, if_pos hw]
  · rw [exec_roomWake hm, if_neg (by rw [hw]; decide)]

/-! ## The host's accesses -/

/-- Settles O45: the port serves the unit, as what the floors and the units' poison give. -/
theorem hostAccesses : Obligations.HostAccesses := by
  unfold Obligations.HostAccesses
  intro s pa hm hpa hp
  have hread : ¬ (decide (hbmBytes ≤ pa) || !s.portServes (roomOf pa)) = true := by simp [hp, Nat.not_le.2 hpa]
  refine ⟨fun u bs hr => ?_, fun u hr => ⟨(u.drawMany 64).1, (List.range 64).map (fun i => Config.freeByte (u.draws + i)), ?_, rfl, ?_⟩,
    fun data hd hlen => ?write⟩
  · change execCxlMemRead .. = _
    rw [execCxlMemRead, powered_main hm]
    simp only [if_neg hread, hbmEcc_clean, hr]
  · change execCxlMemRead .. = _
    rw [execCxlMemRead, powered_main hm]
    simp only [if_neg hread, hbmEcc_clean, hr]
    rfl
  · rw [List.length_map, List.length_range]
  case write =>
    have hwrite : ¬ (decide (hbmBytes ≤ pa) || data.isEmpty || decide (64 < pa % 64 + data.length) || !s.portServes (roomOf pa)) = true := by
      simp [hp, Nat.not_le.2 hpa, hd, Nat.not_lt.2 hlen]
    change execCxlMemWrite .. = _
    rw [execCxlMemWrite, powered_main hm]
    simp only [if_neg hwrite, hbmEcc_clean, ite_self]

/-! ## What other devices ask -/

section
variable {s : State} {i : Nat} {r : LinkRec}

theorem exec_readRequest (h : s.Delivers i 2 r) : exec (.readRequest i) s = .next ((s.withoutRec i).remoteRead r) := h.onRec _

theorem exec_writeRequest (h : s.Delivers i 3 r) : exec (.writeRequest i) s = .next ((s.withoutRec i).remoteWrite r) := h.onRec _

theorem exec_atomicRequest (h : s.Delivers i 4 r) : exec (.atomicRequest i) s = .next ((s.withoutRec i).remoteAtomic r) := h.onRec _

theorem exec_response (h : s.Delivers i 6 r) : exec (.response i) s = .next ((s.withoutRec i).takeResponse r) := h.onRec _

/-- A WATCH of another device, at its home. -/
theorem exec_watchRequest (h : s.Delivers i 5 r) : exec (.watchRequest i) s = .next
    (match (s.withoutRec i).targetAt (recNat r.body 0 8) with
      | .error => (s.withoutRec i).replyTo r (recNat r.body 0 8) 2 []
      | .dark => (s.withoutRec i).refuseDark r (recNat r.body 0 8)
      | .memory => ({ s.withoutRec i with nextId := s.nextId + 1, memReqs := s.memReqs ++ [r.watchReq s.nextId] } : State).watchAt 0 s.nextId
          none (recNat r.body 0 8) none) := h.onRec _

/-- A refused request: its answer, once it has reached its room. -/
def State.refusal (s : State) (r : LinkRec) (pa : Nat) : RemoteTarget → State
  | .error => s.replyTo r pa 2 []
  | _ => s.refuseDark r pa

section
variable {pa : Nat} (hpa : recNat r.body 0 8 = pa)
include hpa

theorem remoteRead_refused (h : s.targetAt pa ≠ .memory) : s.remoteRead r = s.refusal r pa (s.targetAt pa) := by
  subst hpa
  unfold State.remoteRead
  cases hx : s.targetAt (recNat r.body 0 8) with
  | memory => exact absurd hx h
  | _ => simp only [hx, State.refusal]

theorem remoteWrite_refused (h : s.targetAt pa ≠ .memory) : s.remoteWrite r = s.refusal r pa (s.targetAt pa) := by
  subst hpa
  unfold State.remoteWrite
  cases hx : s.targetAt (recNat r.body 0 8) with
  | memory => exact absurd hx h
  | _ => simp only [hx, State.refusal]

theorem remoteAtomic_refused (h : s.targetAt pa ≠ .memory) : s.remoteAtomic r = s.refusal r pa (s.targetAt pa) := by
  subst hpa
  unfold State.remoteAtomic
  cases hx : s.targetAt (recNat r.body 0 8) with
  | memory => exact absurd hx h
  | _ => simp only [hx, State.refusal]

/-- A read of memory, from what the access gave. -/
theorem remoteRead_memory (h : s.targetAt pa = .memory) {t : State} {g : Got} (hg : s.hbmRead none pa (recNat r.body 8 4) = (t, g)) :
    (∀ bs, g = .data bs → s.remoteRead r = t.replyTo r pa 0 bs) ∧ ((∀ bs, g ≠ .data bs) → s.remoteRead r = t.replyTo r pa 1 []) := by
  subst hpa
  unfold State.remoteRead
  simp only [h, hg]
  cases g with
  | data bs => exact ⟨fun _ hb => by cases hb; rfl, fun hn => absurd rfl (hn bs)⟩
  | _ => exact ⟨fun _ hb => (by cases hb), fun _ => rfl⟩

/-- A write of memory, from what the access gave. -/
theorem remoteWrite_memory (h : s.targetAt pa = .memory) (hp : r.poison = false) {t : State} {g : Got}
    (hg : s.hbmWrite none pa ((r.body.drop 16).take (recNat r.body 8 4)) = (t, g)) :
    (∀ bs, g = .data bs → s.remoteWrite r = t.replyTo r pa 0 []) ∧ ((∀ bs, g ≠ .data bs) → s.remoteWrite r = t.replyTo r pa 1 []) := by
  subst hpa
  unfold State.remoteWrite
  simp only [h, hp, Bool.false_eq_true, if_false, hg]
  cases g with
  | data bs => exact ⟨fun _ hb => by cases hb; rfl, fun hn => absurd rfl (hn bs)⟩
  | _ => exact ⟨fun _ hb => (by cases hb), fun _ => rfl⟩

/-- An atomic operation on memory, from what the access gave. -/
theorem remoteAtomic_memory (h : s.targetAt pa = .memory) {t : State} {g : ElemGot}
    (hg : s.atomicAt none pa (2 ^ recNat r.body 8 1) (recNat r.body 9 1) (if Config.freeSigned r.rid r.src then .s64 else .z64)
      (recNat r.body 16 8) (recNat r.body 24 8) = (t, g)) :
    (∀ old, g = .value old → s.remoteAtomic r = t.replyTo r pa 0 (natLe (2 ^ recNat r.body 8 1) old))
      ∧ ((∀ old, g ≠ .value old) → s.remoteAtomic r = t.replyTo r pa 1 []) := by
  subst hpa
  unfold State.remoteAtomic
  simp only [h, hg]
  cases g with
  | value old => exact ⟨fun _ hb => by cases hb; rfl, fun hn => absurd rfl (hn old)⟩
  | _ => exact ⟨fun _ hb => (by cases hb), fun _ => rfl⟩

end

end

/-- Settles O46: what the request finds at its address, and what the access there gave. -/
theorem remoteAccesses : Obligations.RemoteAccesses := by
  unfold Obligations.RemoteAccesses
  intro s i r pa u
  refine ⟨fun t ht => ?refused, fun h hm t g hg => ?read, fun h hm hp t g hg => ?write, fun h hm hp => ?poisoned, fun h hm t g hg => ?atomic,
    fun h hm => ?watch, fun h => ⟨fun m n ha => ?_, fun ha => ?_⟩⟩
  case refused =>
    have hn : u.targetAt pa ≠ .memory := by
      rcases ht with ⟨hx, -⟩ | ⟨hx, -⟩ <;> rw [show u.targetAt pa = _ from hx] <;> decide
    have ht' : u.refusal r pa (u.targetAt pa) = t := by
      rcases ht with ⟨hx, rfl⟩ | ⟨hx, rfl⟩ <;> rw [show u.targetAt pa = _ from hx] <;> rfl
    refine ⟨fun h => ?_, fun h => ?_, fun h => ?_, fun h => ?_⟩
    · rw [exec_readRequest h, remoteRead_refused (pa := pa) rfl hn, ht']
    · rw [exec_writeRequest h, remoteWrite_refused (pa := pa) rfl hn, ht']
    · rw [exec_atomicRequest h, remoteAtomic_refused (pa := pa) rfl hn, ht']
    · rw [exec_watchRequest h, ← ht']
      cases hx : u.targetAt pa with
      | memory => exact absurd hx hn
      | _ => rfl
  case read =>
    rw [exec_readRequest h]
    obtain ⟨hd, hn⟩ := remoteRead_memory (s := u) (pa := pa) rfl hm hg
    exact ⟨fun bs hb => congrArg _ (hd bs hb), fun hb => congrArg _ (hn hb)⟩
  case write =>
    rw [exec_writeRequest h]
    obtain ⟨hd, hn⟩ := remoteWrite_memory (s := u) (pa := pa) rfl hm hp hg
    exact ⟨fun bs hb => congrArg _ (hd bs hb), fun hb => congrArg _ (hn hb)⟩
  case poisoned =>
    intro t
    have hx : (s.withoutRec i).targetAt (recNat r.body 0 8) = .memory := hm
    rw [exec_writeRequest h, State.remoteWrite]
    simp only [hx, hp, if_true]
    rfl
  case atomic =>
    rw [exec_atomicRequest h]
    obtain ⟨hd, hn⟩ := remoteAtomic_memory (s := u) (pa := pa) rfl hm hg
    exact ⟨fun old hb => congrArg _ (hd old hb), fun hb => congrArg _ (hn hb)⟩
  case watch =>
    have hx : (s.withoutRec i).targetAt (recNat r.body 0 8) = .memory := hm
    rw [exec_watchRequest h]
    simp only [hx]
    rfl
  · have hx : (s.withoutRec i).awayElem r.rid = some (m, n) := ha
    rw [exec_response h, State.takeResponse]
    simp only [hx]
    rfl
  · have hx : (s.withoutRec i).awayElem r.rid = none := ha
    rw [exec_response h, State.takeResponse]
    simp only [hx]
    rfl

end Sys2Proof.Machine
end

section
/-! Records of the routing engines, marks and curtains, the scheduler's events, and the links (R17 to R26, R98, R101, R109, R117, R125,
R126, R170, R180 to R189). -/

namespace Sys2Proof.Machine

/-! ## Routing records -/

section
variable {s : State} {i kind : Nat} {r : LinkRec}

/-- The work that a record of this kind feeds. -/
def State.fed (u : State) (r : LinkRec) (kind : Nat) : State :=
  match kind with
  | 7 | 8 | 0xB => u.pushRoute (u.recordDie r) r.job (some r.rid) (.record r)
  | 9 => u.takeReturn r
  | 0xA => u.takeCounts r
  | 0xC => u.takeAck r
  | 0xD => u.takeFinal r
  | 0xE => u.pushRoute 0 r.job none (.record r)
  | 0xF => u.fabricAnswer r.rid (recNat r.body 0 1) (r.body.drop 8)
  | 0x10 => u.takeRelease r
  | _ => u

/-- A record of a job that is here is handed to the work that its kind feeds. -/
theorem routeRecord_here {x : Job} {u : State} (hj : u.job? r.job = some x) (he : x.ended = false) (hk : r.kind = kind) :
    u.routeRecord r = (u.fed r kind).routeRun := by
  subst hk
  unfold State.routeRecord
  simp only [hj, he, Bool.false_eq_true, if_false]
  rfl

/-- A record of a job that is not here is discarded. -/
theorem routeRecord_gone {u : State} (hj : u.job? r.job = none) : u.routeRecord r = u := by
  unfold State.routeRecord
  simp only [hj, if_true]

/-- The event of a record of a routing engine. -/
theorem onRec_routes (h : s.Delivers i kind r) {t : State} (ht : (s.withoutRec i).routeRecord r = t) :
    s.onRec i kind State.routeRecord = .next t := (h.onRec _).trans (congrArg _ ht)

end

/-- Settles O47: the kind of the record says whom it feeds. -/
theorem routingRecords : Obligations.RoutingRecords := by
  unfold Obligations.RoutingRecords
  intro s i r u
  refine ⟨fun x hj he => ?here, fun hj => ?gone, fun h => ?tile⟩
  case here =>
    have hu : u.job? r.job = some x := hj
    exact ⟨fun h => onRec_routes h (routeRecord_here hu he h.kind), fun h => onRec_routes h (routeRecord_here hu he h.kind),
      fun h => onRec_routes h (routeRecord_here hu he h.kind), fun h => onRec_routes h (routeRecord_here hu he h.kind),
      fun h => onRec_routes h (routeRecord_here hu he h.kind), fun h => onRec_routes h (routeRecord_here hu he h.kind),
      fun h => onRec_routes h (routeRecord_here hu he h.kind), fun h => onRec_routes h (routeRecord_here hu he h.kind),
      fun h => onRec_routes h (routeRecord_here hu he h.kind), fun h => onRec_routes h (routeRecord_here hu he h.kind)⟩
  case gone =>
    have hu : u.routeRecord r = u := routeRecord_gone hj
    exact ⟨fun h => onRec_routes h hu, fun h => onRec_routes h hu, fun h => onRec_routes h hu, fun h => onRec_routes h hu,
      fun h => onRec_routes h hu, fun h => onRec_routes h hu, fun h => onRec_routes h hu, fun h => onRec_routes h hu,
      fun h => onRec_routes h hu, fun h => onRec_routes h hu⟩
  case tile =>
    exact h.onRec _

/-! ## Marks and curtains -/

section
variable {s : State} {i : Nat}

theorem exec_countTotals {r : LinkRec} {n : Nat} {v : Instance} (h : s.Marks i 0x12 r n v) :
    exec (.countTotals i) s = .next ((s.withoutRec i).onInst r.job n (fun v => v.takeTotals s.devnum r)) := by
  have hp : ((s.withoutRec i).job r.job).fabricInst r.rid (recNat r.body 0 4) = some (n, v) := h.part
  change execCountTotals .. = _
  rw [execCountTotals, powered_main h.main]
  simp only [h.toDelivers.takeRec, hp]
  rfl

theorem exec_curtain {x : MeshItem} {t : Token} (h : s.Arrives i x) (hw : x.what = .curtain t) :
    exec (.curtain i) s = .next ((s.withoutItem i).takeCurtain x.job x.dst t) := by
  have hi : i < s.mesh.length := (List.getElem?_eq_some_iff.1 h.item).1
  change execCurtain .. = _
  rw [execCurtain, powered_main h.main, if_pos hi]
  simp only [h.takeMesh, hw]

end

/-- Settles O48: a mark goes to the part that it names; a curtain counts where it is one of the halt under way. -/
theorem marksAndCurtains : Obligations.MarksAndCurtains := by
  unfold Obligations.MarksAndCurtains
  intro s i
  refine ⟨fun r n v h => h.onMark _, fun r n v h => ⟨fun h1 => ?_, fun h1 => ?_⟩, fun r n v h => h.onMark _, fun x t h hw => ?curtain⟩
  · rw [exec_countTotals h]
    simp only [Instance.takeTotals, h1, if_true]
  · rw [exec_countTotals h]
    simp only [Instance.takeTotals, if_neg h1]
  case curtain =>
    intro u y counts counted
    have hcond : (y.st == .preempting && t.tag == y.halt && !y.curtains.contains (t.curtainKey x.dst)) = true ↔ counts := by
      simp only [Bool.and_eq_true, beq_iff_eq, Bool.not_eq_true', and_assoc, counts]
    rw [exec_curtain h hw]
    unfold State.takeCurtain
    refine ⟨fun hn => congrArg _ (if_neg (fun hc => hn (hcond.1 hc))), fun hc h1 h2 h3 h4 => ?_, fun hc hio => ?_⟩
    · exact congrArg _ ((if_pos (hcond.2 hc)).trans (if_neg (by simp [h1, h2, h3, h4])))
    · exact congrArg _ ((if_pos (hcond.2 hc)).trans (if_pos (by simpa [or_assoc] using hio)))

/-! ## The scheduler -/

section
variable {s : State} {j i : Nat} {x : Job} {v : Instance}

theorem exec_completeCheck (hm : s.hkc.main = true) : exec (.instanceCompleteCheck j i) s = .next (s.checkComplete j i) :=
  powered_main hm (fun t => t.checkComplete j i)

/-- The collection where the graph is not cut. -/
theorem checkComplete_whole (hj : s.job? j = some x) (hv : s.inst? j i = some v) (hf : x.fabricOf v = none) {h a b : Nat}
    (hc : s.collect j i = (h, a, b)) :
    s.checkComplete j i = if x.halted || !(v.st == .live || (v.st == .frozen && v.cancelled)) || !v.marks.isEmpty then s
      else if h = 0 && a = b then s.finishInst j i v else s := by
  unfold State.checkComplete
  simp only [hj, hv, hf, hc]

theorem exec_quiescence (hm : s.hkc.main = true) : exec (.quiescenceTimeout j i) s = .next (s.deadlock j i) :=
  powered_main hm (fun t => t.deadlock j i)

/-- What a tick edge does to the job `x`, by its state. -/
def State.edgeIn (s : State) (j : Nat) (x : Job) : JobSt → State
  | .preempting => s.setJob j { x with nextEdge := x.nextEdge + x.period, heldEdges := x.heldEdges ++ [x.nextEdge] }
  | .preempted => s.setJob j (({ x with nextEdge := x.nextEdge + x.period } : Job).passEdge x.nextEdge)
  | .opened | .closing | .cancelling => (s.setJob j { x with nextEdge := x.nextEdge + x.period }).applyEdge j x.nextEdge

theorem exec_tickEdge (hm : s.hkc.main = true) (hj : s.job? j = some x) :
    exec (.tickEdge j) s = .next (if x.period = 0 || decide (s.time.toNat < x.nextEdge) then s else s.edgeIn j x x.st) := by
  change execTickEdge .. = _
  rw [execTickEdge, powered_main hm, State.edge]
  simp only [hj]
  rfl

/-- PRIMED_TOKENS_PLACE for a live run of a graph that is not cut, once every root frame is given. -/
theorem placePrimes_ready {w : Instance} {g : Graph} (hj : s.job? j = some x) (hv : s.inst? j i = some v) (hr : x.running = true)
    (hl : v.st = .live) (hp : v.primes ≠ []) (hw : (s.giveRoots j i).inst? j i = some w) (hg : Table.find x.graphs v.graph = some g)
    (hf : g.fabric = none) (hb : ∀ r ∈ w.roots, r.base.isSome = true) :
    s.placePrimes j i = (w.primes.foldl (fun t p => t.placePrime j i x g w p) (s.giveRoots j i)).onInst j i (fun u => { u with primes := [] }) := by
  have hgo : ¬ (!x.running || v.st != .live || v.primes.isEmpty) = true := by simp [hr, hl, hp]
  unfold State.placePrimes
  simp only [hj, hv, if_neg hgo, hw, hg, hf, Bool.true_and]
  exact if_pos (List.all_eq_true.2 hb)

end

/-- Settles O49: the counts, the root frames, the job's state at an edge, and the timer of quiescence decide. -/
theorem schedulerEvents : Obligations.SchedulerEvents := by
  unfold Obligations.SchedulerEvents
  intro s j i x hm hj
  refine ⟨fun v n hv hh hl hk hf hc => ?complete, fun v h a b hv hf hc hne => ?_, fun v w g hv hr hl hp hw hg hf hb => ?_, fun hp ht => ?edge,
    fun hn => ?_, fun v hv hl hc ht hq => ?deadlock, fun v hv hn => ?_⟩
  case complete =>
    intro mine
    rw [exec_completeCheck hm, checkComplete_whole hj hv hf hc]
    exact congrArg _ ((if_neg (by simp [hh, hl, hk])).trans (if_pos (by simp)))
  · rw [exec_completeCheck hm, checkComplete_whole hj hv hf hc]
    have hcount : ¬ (decide (h = 0) && decide (a = b)) = true := by
      rcases hne with hne | hne <;> simp [hne]
    rw [if_neg hcount, ite_self]
  · exact (powered_main hm (fun t => t.placePrimes j i)).trans (congrArg _ (placePrimes_ready hj hv hr hl hp hw hg hf hb))
  case edge =>
    intro y
    rw [exec_tickEdge hm hj, if_neg (by simp [hp, Nat.not_lt.2 ht])]
    have hst {st : JobSt} (h : x.st = st) := congrArg (fun st => Host.Outcome.next (φ := Fault) (ρ := Refusal) (s.edgeIn j x st)) h
    refine ⟨fun h1 h2 => ?_, fun h1 => hst h1, fun h1 => hst h1⟩
    cases hst : x.st with
    | preempting => exact absurd hst h1
    | preempted => exact absurd hst h2
    | _ => rfl
  · rw [exec_tickEdge hm hj]
    exact congrArg _ (if_pos (by simpa using hn))
  case deadlock =>
    intro va reported
    have hidle : ¬ ((s.collect j i).1 = 0 ∧ (s.collect j i).2.1 = (s.collect j i).2.2) := by
      rintro ⟨h0, hab⟩
      exact hc.elim (fun h => h h0) (fun h => h hab)
    rw [exec_quiescence hm, State.deadlock]
    simp only [hj, hv]
    exact congrArg _ (if_neg (by simpa [hl, ht, hq] using hidle))
  · rw [exec_quiescence hm, State.deadlock]
    simp only [hj, hv]
    refine congrArg _ (if_pos ?_)
    rcases hn with hn | hn <;> simp [hn]

/-! ## Links -/

section
variable {s : State} {link ftype : Nat} {bs : List Byte}

/-- A bad flit on a link that is up is an error. -/
theorem onFlit_bad (hy : s.yilyel = true) (hl : link < 16) (hu : (s.link link).up = true) (hb : flitOf bs = none) (f : State → Flit → State) :
    s.onFlit link ftype bs f = s.flitError link := by
  unfold State.onFlit
  rw [if_neg (by simp [hy, hu, Nat.not_le.2 hl]), hb]

/-- A good flit on a link that is up. -/
theorem onFlit_good {x : Flit} (hy : s.yilyel = true) (hl : link < 16) (hu : (s.link link).up = true) (hb : flitOf bs = some x)
    (f : State → Flit → State) : s.onFlit link ftype bs f = if x.ftype != ftype then s
      else if (s.link link).retrying && (ftype != 0 || x.seq != (s.link link).rxSeq) then s
      else if ftype != 0 && !x.plain then s.flitError link else f s x := by
  unfold State.onFlit
  rw [if_neg (by simp [hy, hu, Nat.not_le.2 hl]), hb]

/-- What a flit of the event's type on a link that does not wait for a replay does: a data flit, or a plain one. -/
theorem onFlit_taken {x : Flit} (hy : s.yilyel = true) (hl : link < 16) (hu : (s.link link).up = true) (hb : flitOf bs = some x)
    (ht : x.ftype = ftype) (hr : (s.link link).retrying = false) (hp : ftype = 0 ∨ x.plain = true) (f : State → Flit → State) :
    s.onFlit link ftype bs f = f s x := by
  rw [onFlit_good hy hl hu hb, if_neg (by simp [ht]), if_neg (by simp [hr]), if_neg (by rcases hp with hp | hp <;> simp [hp])]

/-- The handlers of the flits that are no data flits, with their types. -/
def handlerOf : Nat → State → Nat → Flit → State
  | 1, u, link, x => u.onLink link (fun l => l.acked x)
  | 2, u, link, x => u.onLink link (fun l => { l.acked x with
      wire := (l.acked x).wire ++ (l.acked x).replayFrom (BitVec.ofNat 12 (recNat x.payload 0 2)) })
  | _, u, link, x => (u.onLink link (fun l => l.acked x)).markIn link x

theorem exec_dataFlit (hm : s.hkc.main = true) : exec (.dataFlit link bs) s = .next (s.dataFlit link bs) :=
  powered_main hm (fun t => t.dataFlit link bs)

theorem exec_idleFlit (hm : s.hkc.main = true) :
    exec (.idleFlit link bs) s = .next (s.onFlit link 1 bs (fun u x => handlerOf 1 u link x)) :=
  powered_main hm (fun t => t.onFlit link 1 bs (fun u x => handlerOf 1 u link x))

theorem exec_retryRequest (hm : s.hkc.main = true) :
    exec (.retryRequest link bs) s = .next (s.onFlit link 2 bs (fun u x => handlerOf 2 u link x)) :=
  powered_main hm (fun t => t.onFlit link 2 bs (fun u x => handlerOf 2 u link x))

theorem exec_timeMark (hm : s.hkc.main = true) :
    exec (.timeMark link bs) s = .next (s.onFlit link 3 bs (fun u x => handlerOf 3 u link x)) :=
  powered_main hm (fun t => t.onFlit link 3 bs (fun u x => handlerOf 3 u link x))

/-- The flits that are no data flits: each event is the flit's handler, for the flit type that the event names. -/
theorem exec_plainFlit (hm : s.hkc.main = true) {p : Nat × Instr}
    (hp : p ∈ [(1, Instr.idleFlit link bs), (2, .retryRequest link bs), (3, .timeMark link bs)]) :
    p.1 ≠ 0 ∧ exec p.2 s = .next (s.onFlit link p.1 bs (fun u x => handlerOf p.1 u link x)) := by
  simp only [List.mem_cons, List.not_mem_nil, or_false] at hp
  rcases hp with rfl | rfl | rfl
  · exact ⟨Nat.succ_ne_zero _, exec_idleFlit hm⟩
  · exact ⟨Nat.succ_ne_zero _, exec_retryRequest hm⟩
  · exact ⟨Nat.succ_ne_zero _, exec_timeMark hm⟩

/-- A data flit, by its sequence number. -/
theorem dataFlit_good {x : Flit} (hy : s.yilyel = true) (hl : link < 16) (hu : (s.link link).up = true) (hb : flitOf bs = some x)
    (ht : x.ftype = 0) : s.dataFlit link bs = if (s.link link).retrying && x.seq != (s.link link).rxSeq then s
      else if x.seq = (s.link link).rxSeq then s.deliverFlit link x
      else if decide (((s.link link).rxSeq - x.seq).toNat ≤ 1024) then s else s.flitError link := by
  rw [State.dataFlit, onFlit_good hy hl hu hb, if_neg (by simp [ht])]
  rfl

/-! ## Lanes -/

/-- The credits that a link owes once it has trained, each of a free number (log entry 11). -/
def Link.trainedCredits (l : Link) (draw : Nat) : Table Nat :=
  (List.range 7).foldl (fun o vc => Table.modify o vc 0 (· + (Config.freeWord (draw + vc)).toNat)) l.owed

theorem exec_laneFails {lane : Nat} {trained : Bool} (hm : s.hkc.main = true) :
    exec (.yilyelLaneFail link lane trained) s = .next (s.laneFails link lane trained) :=
  powered_main hm (fun t => t.laneFails link lane trained)

end

/-- Settles O50: the flit's type, its number and the link's state decide; for a lane, whether it is in use. -/
theorem linkEvents : Obligations.LinkEvents := by
  unfold Obligations.LinkEvents
  refine ⟨fun s link bs hm => ⟨fun hy hl hu => ⟨fun hb => ?bad, fun x hb => ?good⟩, fun hy ht => ?_, fun hn => ?_⟩, fun s link hm hy hl => ?lanes⟩
  case bad =>
    intro i hi
    simp only [List.mem_cons, List.not_mem_nil, or_false] at hi
    rcases hi with rfl | rfl | rfl | rfl
    · rw [exec_dataFlit hm, State.dataFlit, onFlit_bad hy hl hu hb]
    · rw [exec_idleFlit hm, onFlit_bad hy hl hu hb]
    · rw [exec_retryRequest hm, onFlit_bad hy hl hu hb]
    · rw [exec_timeMark hm, onFlit_bad hy hl hu hb]
  case good =>
    refine ⟨fun ht hs => ?_, fun ht hs hd => ?_, fun ht hs hr hd => ?_, fun ht hs hr => ?_, fun p hp => ?_, fun hr hp => ?_⟩
    · rw [exec_dataFlit hm, dataFlit_good hy hl hu hb ht, if_neg (by simp [hs]), if_pos hs]
    · rw [exec_dataFlit hm, dataFlit_good hy hl hu hb ht, if_neg hs, if_pos (decide_eq_true hd), ite_self]
    · rw [exec_dataFlit hm, dataFlit_good hy hl hu hb ht, if_neg (by simp [hr]), if_neg hs, if_neg (by simpa using hd)]
    · rw [exec_dataFlit hm, dataFlit_good hy hl hu hb ht, if_pos (by simp [hr, hs])]
    · obtain ⟨h0, hx⟩ := exec_plainFlit hm hp
      rw [hx, onFlit_good hy hl hu hb]
      refine ⟨fun ht => ?_, fun ht hr => ?_, fun ht hr hpl => ?_⟩
      · rw [if_pos (by simpa using ht)]
      · rw [if_neg (by simp [ht]), if_pos (by simp [hr, h0])]
      · rw [if_neg (by simp [ht]), if_neg (by simp [hr]), if_pos (by simp [hpl, h0])]
    · refine ⟨fun ht => ?_, fun ht => ?_, fun ht hh => ?_, fun ht hh => ?_⟩
      · rw [exec_idleFlit hm, onFlit_taken hy hl hu hb ht hr (.inr hp)]
        rfl
      · rw [exec_retryRequest hm, onFlit_taken hy hl hu hb ht hr (.inr hp)]
        rfl
      · rw [exec_timeMark hm, onFlit_taken hy hl hu hb ht hr (.inr hp)]
        exact congrArg _ (if_pos hh)
      · refine ⟨Config.markSkew (recNat x.payload 0 8) % 51, (Config.freeWord s.draws).toNat % 51, by omega, by omega, ?_⟩
        rw [exec_timeMark hm, onFlit_taken hy hl hu hb ht hr (.inr hp)]
        exact congrArg _ (if_neg (show ¬ s.host.tmaster = true by rw [hh]; decide))
  · change execTimeMarkSend .. = _
    rw [execTimeMarkSend, powered_main hm]
    exact congrArg _ (if_pos (by rw [hy, ht]; rfl))
  · change execTimeMarkSend .. = _
    rw [execTimeMarkSend, powered_main hm]
    exact congrArg _ (if_neg (by rcases hn with hn | hn <;> simp [hn]))
  case lanes =>
    have hin (lane : Nat) (h9 : lane < 9) (hf : (s.link link).failed.contains lane = false) :
        ¬ (!s.yilyel || decide (16 ≤ link) || decide (9 ≤ lane) || (s.link link).failed.contains lane) = true := by
      rw [hy, hf, decide_eq_false (Nat.not_le.2 hl), decide_eq_false (Nat.not_le.2 h9)]
      decide
    refine ⟨fun lane trained width hu h9 hf hi hw => ?_, fun lane trained hu h9 hf hi => ?_, fun lane trained hu h9 hf => ?_,
      fun hu hw => ⟨(s.drawMany 7).1, (s.link link).trainedCredits s.draws, _, rfl, rfl, ?_⟩, fun i r h => h.onRec _⟩
    · intro l
      rw [exec_laneFails hm, State.laneFails, if_neg (hin lane h9 hf), if_neg (by simp [hu]), if_neg (by rw [hi]; decide), ← hw]
      refine ⟨fun h0 => congrArg _ (if_pos h0), fun h8 => ?_, fun h4 => ?_⟩
      · exact congrArg _ ((if_neg (by rw [h8]; decide)).trans (by rw [if_pos h8]))
      · exact congrArg _ ((if_neg (by rw [h4]; decide)).trans (by rw [if_neg (by rw [h4]; decide)]))
    · rw [exec_laneFails hm, State.laneFails, if_neg (hin lane h9 hf), if_neg (by simp [hu]), if_pos (by rw [hi]; decide)]
    · intro l
      rw [exec_laneFails hm, State.laneFails, if_neg (hin lane h9 hf), if_pos (by simp [hu])]
    · refine (powered_main hm (fun t => t.linkTrains link)).trans (congrArg _ ?_)
      unfold State.linkTrains
      exact if_neg (by simp [hy, hu, Nat.not_le.2 hl, hw])

end Sys2Proof.Machine
end

section
/-! The form of the memories and the fuses (R36, R70): what is kept, and the rules by which a function of the model is seen to keep it. -/

namespace Sys2Proof.Machine

-- These proofs are many and short: elaborated one after another they take less memory than side by side.
set_option Elab.async false

/-! ## What is kept -/

/-- What every step keeps of the two memories and of the fuses, from a first state on: canonical form, no fuse cleared, and the
revocation fuses as they are. -/
structure KeptParts (s0 : State) (mem hostMem : Memory) (fuses : BitVec 64) (revoked : List Bool) : Prop where
  mem : s0.memOk → Memory.wf mem = true
  hostMem : s0.memOk → Memory.wf hostMem = true
  fuses : ∀ i, s0.hkc.svnFuses.getLsbD i = true → fuses.getLsbD i = true
  revoked : revoked = s0.hkc.revoked

/-- The state keeps it. A state that differs elsewhere keeps it by definition. -/
def Kept (s0 s : State) : Prop := KeptParts s0 s.mem s.hostMem s.hkc.svnFuses s.hkc.revoked

/-- The two controllers agree about their fuses. -/
def Hkc.SameFuses (h k : Hkc) : Prop := k.svnFuses = h.svnFuses ∧ k.revoked = h.revoked

/-- What a word does in a lane keeps it. -/
def LaneFn.Keeps (f : LaneFn) : Prop :=
  ∀ (s0 s : State) (c : Nat) (l : Firing) (p : State × Firing), Kept s0 s → f s c l = .ok p → Kept s0 p.1

/-- An answer keeps it when each state in it does: `KeptSome` to `KeptNext` for the answers that share a type, and `Keeps` for those
that have one of their own. -/
def KeptSome (s0 : State) : Option State → Prop
  | some t => Kept s0 t
  | none => True

def KeptItem {α : Type} (s0 : State) : Option (α × State) → Prop
  | some (_, t) => Kept s0 t
  | none => True

def KeptExcept {α : Type} (s0 : State) : Except State (State × α) → Prop
  | .ok (t, _) => Kept s0 t
  | .error t => Kept s0 t

def KeptNext (s0 : State) : Host.Outcome State Fault Refusal → Prop
  | .next t => Kept s0 t
  | _ => True

def Prep.Keeps (s0 : State) : Prep → Prop
  | .wait t => Kept s0 t
  | _ => True

def Eng.Keeps (s0 : State) : Eng → Prop
  | .done t _ | .wait t => Kept s0 t
  | _ => True

def Scan.Keeps (s0 : State) : Scan → Prop
  | .wait t | .found t _ => Kept s0 t
  | _ => True

def Rows.Keeps (s0 : State) : Rows → Prop
  | .wait t | .known t _ _ => Kept s0 t
  | _ => True

def CopyStep.Keeps (s0 : State) : CopyStep → Prop
  | .go t _ | .stop t => Kept s0 t

def RingStep.Keeps (s0 : State) : RingStep → Prop
  | .written t _ | .waits t | .lost t => Kept s0 t

def SaveStep.Keeps (s0 : State) : SaveStep → Prop
  | .wait t | .written t | .frozen t | .failed t => Kept s0 t

def Loaded.Keeps (s0 : State) : Loaded → Prop
  | .wait t | .refused t _ _ _ | .done t _ => Kept s0 t

def Patching.Keeps (s0 : State) : Patching → Prop
  | .wait t | .failed t _ _ | .done t _ => Kept s0 t

def Fetched.Keeps (s0 : State) : Fetched → Prop
  | .idle t | .run _ t => Kept s0 t
  | _ => True

variable {s0 s t : State}

/-! ## Changes, choices and folds -/

/-- A change of other parts of the state. -/
theorem Kept.upd (h : Kept s0 s) (hm : t.mem = s.mem := by with_reducible rfl)
    (hh : t.hostMem = s.hostMem := by with_reducible rfl) (hf : t.hkc.svnFuses = s.hkc.svnFuses := by with_reducible rfl)
    (hr : t.hkc.revoked = s.hkc.revoked := by with_reducible rfl) : Kept s0 t := by
  unfold Kept; rw [hm, hh, hf, hr]; exact h

/-- A change of the memories that keeps their form. -/
theorem Kept.of_mem (h : Kept s0 s) (hm : Memory.wf s.mem = true → Memory.wf t.mem = true)
    (hh : Memory.wf s.hostMem = true → Memory.wf t.hostMem = true) (hk : t.hkc = s.hkc) : Kept s0 t := by
  obtain ⟨hmem, hhost, hfuses, hrevoked⟩ := h
  exact ⟨fun h0 => hm (hmem h0), fun h0 => hh (hhost h0), by rw [hk]; exact hfuses, by rw [hk]; exact hrevoked⟩

/-- A change of the controller that leaves the fuses. -/
theorem Kept.of_hkc (h : Kept s0 s) (hm : t.mem = s.mem) (hh : t.hostMem = s.hostMem) (hk : s.hkc.SameFuses t.hkc) : Kept s0 t :=
  h.upd hm hh hk.1 hk.2

theorem Kept.ite {p : Prop} [Decidable p] (h : Kept s0 s) (h' : Kept s0 t) : Kept s0 (if p then s else t) := by
  split <;> assumption

theorem Kept.ite_fst {α : Type} {p : Prop} [Decidable p] {x y : State × α} (h : Kept s0 x.1) (h' : Kept s0 y.1) :
    Kept s0 (if p then x else y).1 := by
  split <;> assumption

theorem Kept.fst {α : Type} {p : State × α} {x : α} (h : Kept s0 p.1) (e : p = (t, x)) : Kept s0 t := by
  rw [e] at h; exact h

/-- A fold keeps it when each of its steps does. -/
theorem Kept.foldl {α : Type} {f : State → α → State} {l : List α} (h : Kept s0 s)
    (hf : ∀ {t a}, Kept s0 t → Kept s0 (f t a)) : Kept s0 (l.foldl f s) := by
  induction l generalizing s with
  | nil => exact h
  | cons a l ih => exact ih (hf h)

theorem Kept.foldl_fst {α β : Type} {f : State × β → α → State × β} {l : List α} {p : State × β} (h : Kept s0 p.1)
    (hf : ∀ {q a}, Kept s0 q.1 → Kept s0 (f q a).1) : Kept s0 (l.foldl f p).1 := by
  induction l generalizing p with
  | nil => exact h
  | cons a l ih => exact ih (hf h)

/-! ## The states in an answer -/

theorem KeptSome.some {o : Option State} (h : KeptSome s0 o) (e : o = some t) : Kept s0 t := by subst e; exact h

theorem KeptSome.map {o : Option State} {f : State → State} (h : KeptSome s0 o) (hf : ∀ {t}, Kept s0 t → Kept s0 (f t)) :
    KeptSome s0 (o.map f) := by
  cases o with
  | none => exact trivial
  | some t => exact hf h

theorem KeptSome.map_of {α : Type} {o : Option α} {f : α → State} (hf : ∀ {a}, Kept s0 (f a)) : KeptSome s0 (o.map f) := by
  cases o with
  | none => exact trivial
  | some a => exact hf

theorem KeptSome.bind_of {α : Type} {o : Option α} {f : α → Option State} (hf : ∀ {a}, KeptSome s0 (f a)) :
    KeptSome s0 (o.bind f) := by
  cases o with
  | none => exact trivial
  | some a => exact hf

theorem KeptItem.some {α : Type} {o : Option (α × State)} {x : α} (h : KeptItem s0 o) (e : o = some (x, t)) : Kept s0 t := by
  subst e; exact h

theorem KeptExcept.ok {α : Type} {r : Except State (State × α)} {x : α} (h : KeptExcept s0 r) (e : r = .ok (t, x)) : Kept s0 t := by
  subst e; exact h

theorem KeptExcept.error {α : Type} {r : Except State (State × α)} (h : KeptExcept s0 r) (e : r = .error t) : Kept s0 t := by
  subst e; exact h

theorem KeptExcept.bind {α β : Type} {r : Except State (State × α)} {f : State × α → Except State (State × β)} (h : KeptExcept s0 r)
    (hf : ∀ {t x}, Kept s0 t → KeptExcept s0 (f (t, x))) : KeptExcept s0 (r >>= f) := by
  cases r with
  | error t => exact h
  | ok p => exact hf h

theorem KeptNext.next {r : Host.Outcome State Fault Refusal} (h : KeptNext s0 r) (e : r = .next t) : Kept s0 t := by subst e; exact h

theorem Prep.Keeps.wait {x : Prep} (h : x.Keeps s0) (e : x = .wait t) : Kept s0 t := by subst e; exact h

theorem Eng.Keeps.done {x : Eng} {g} (h : x.Keeps s0) (e : x = .done t g) : Kept s0 t := by subst e; exact h

theorem Eng.Keeps.wait {x : Eng} (h : x.Keeps s0) (e : x = .wait t) : Kept s0 t := by subst e; exact h

theorem Scan.Keeps.wait {x : Scan} (h : x.Keeps s0) (e : x = .wait t) : Kept s0 t := by subst e; exact h

theorem Scan.Keeps.found {x : Scan} {n} (h : x.Keeps s0) (e : x = .found t n) : Kept s0 t := by subst e; exact h

theorem Rows.Keeps.wait {x : Rows} (h : x.Keeps s0) (e : x = .wait t) : Kept s0 t := by subst e; exact h

theorem Rows.Keeps.known {x : Rows} {r n} (h : x.Keeps s0) (e : x = .known t r n) : Kept s0 t := by subst e; exact h

theorem CopyStep.Keeps.go {x : CopyStep} {r} (h : x.Keeps s0) (e : x = .go t r) : Kept s0 t := by subst e; exact h

theorem CopyStep.Keeps.stop {x : CopyStep} (h : x.Keeps s0) (e : x = .stop t) : Kept s0 t := by subst e; exact h

theorem RingStep.Keeps.written {x : RingStep} {n} (h : x.Keeps s0) (e : x = .written t n) : Kept s0 t := by subst e; exact h

theorem RingStep.Keeps.waits {x : RingStep} (h : x.Keeps s0) (e : x = .waits t) : Kept s0 t := by subst e; exact h

theorem RingStep.Keeps.lost {x : RingStep} (h : x.Keeps s0) (e : x = .lost t) : Kept s0 t := by subst e; exact h

theorem SaveStep.Keeps.wait {x : SaveStep} (h : x.Keeps s0) (e : x = .wait t) : Kept s0 t := by subst e; exact h

theorem SaveStep.Keeps.written {x : SaveStep} (h : x.Keeps s0) (e : x = .written t) : Kept s0 t := by subst e; exact h

theorem SaveStep.Keeps.frozen {x : SaveStep} (h : x.Keeps s0) (e : x = .frozen t) : Kept s0 t := by subst e; exact h

theorem SaveStep.Keeps.failed {x : SaveStep} (h : x.Keeps s0) (e : x = .failed t) : Kept s0 t := by subst e; exact h

theorem Loaded.Keeps.wait {x : Loaded} (h : x.Keeps s0) (e : x = .wait t) : Kept s0 t := by subst e; exact h

theorem Loaded.Keeps.refused {x : Loaded} {a b c} (h : x.Keeps s0) (e : x = .refused t a b c) : Kept s0 t := by subst e; exact h

theorem Loaded.Keeps.done {x : Loaded} {g} (h : x.Keeps s0) (e : x = .done t g) : Kept s0 t := by subst e; exact h

theorem Patching.Keeps.wait {x : Patching} (h : x.Keeps s0) (e : x = .wait t) : Kept s0 t := by subst e; exact h

theorem Patching.Keeps.failed {x : Patching} {a b} (h : x.Keeps s0) (e : x = .failed t a b) : Kept s0 t := by subst e; exact h

theorem Patching.Keeps.done {x : Patching} {g} (h : x.Keeps s0) (e : x = .done t g) : Kept s0 t := by subst e; exact h

theorem Fetched.Keeps.idle {x : Fetched} (h : x.Keeps s0) (e : x = .idle t) : Kept s0 t := by subst e; exact h

theorem Fetched.Keeps.run {x : Fetched} {i} (h : x.Keeps s0) (e : x = .run i t) : Kept s0 t := by subst e; exact h

end Sys2Proof.Machine
end

section
/-! What the memories, the host bus, the links, the event ring and the page walkers keep. -/

namespace Sys2Proof.Machine

-- These proofs are many and short: elaborated one after another they take less memory than side by side.
set_option Elab.async false

variable {s0 s t : State}

/-! ## Parts of the state -/

theorem Kept.setCore (h : Kept s0 s) {c k} : Kept s0 (s.setCore c k) := h

theorem Kept.onCore (h : Kept s0 s) {c f} : Kept s0 (s.onCore c f) := h.setCore

theorem Kept.setJob (h : Kept s0 s) {j x} : Kept s0 (s.setJob j x) := h

theorem Kept.onJob (h : Kept s0 s) {j f} : Kept s0 (s.onJob j f) := by
  unfold State.onJob
  split
  · exact h.setJob
  · exact h

theorem Kept.onInst (h : Kept s0 s) {j i f} : Kept s0 (s.onInst j i f) := h.onJob

theorem Kept.draw (h : Kept s0 s) : Kept s0 (s.draw).1 := h

theorem Kept.fresh (h : Kept s0 s) : Kept s0 (s.fresh).1 := h

/-! ## Memory -/

theorem Kept.repairRows (h : Kept s0 s) {p} : Kept s0 (s.repairRows p) := by
  unfold State.repairRows
  dsimp only
  exact h.upd

theorem Kept.lightRoom (h : Kept s0 s) {r} : Kept s0 (s.lightRoom r) := by
  unfold State.lightRoom
  exact h.repairRows.upd

theorem Kept.touchRoom (h : Kept s0 s) {job r bytes} : Kept s0 (s.touchRoom job r bytes) := by
  unfold State.touchRoom
  dsimp only
  split
  · exact Kept.onJob (Kept.ite h.lightRoom h.upd)
  · exact Kept.ite h.lightRoom h.upd

theorem Kept.hbmRead (h : Kept s0 s) {job pa n} : Kept s0 (s.hbmRead job pa n).1 := by
  unfold State.hbmRead
  exact Kept.ite_fst (Kept.ite_fst h.touchRoom h.touchRoom) h.touchRoom

theorem Kept.clearRegions (h : Kept s0 s) {job pa n} : Kept s0 (s.clearRegions job pa n) := by
  unfold State.clearRegions
  dsimp only
  refine Kept.ite h ?_
  split
  · exact h.upd.onJob
  · exact h.upd

theorem Kept.notifyWatches (h : Kept s0 s) {pa n} : Kept s0 (s.notifyWatches pa n) := h

theorem Kept.hbmWrite (h : Kept s0 s) {job pa bs} : Kept s0 (s.hbmWrite job pa bs).1 := by
  unfold State.hbmWrite
  dsimp only
  split
  · split
    · exact h.touchRoom
    · refine Kept.notifyWatches ?_
      exact Kept.of_mem h.touchRoom.clearRegions (Memory.wf_write _ _ _) id rfl
  · exact h.touchRoom

theorem Kept.hostWrite (h : Kept s0 s) {a bs} : Kept s0 (s.hostWrite a bs) := h.of_mem id (Memory.wf_write _ _ _) rfl

/-! ## Links -/

theorem Kept.onLink (h : Kept s0 s) {n f} : Kept s0 (s.onLink n f) := h

theorem Kept.sendFlits (h : Kept s0 s) {n fs} : Kept s0 (s.sendFlits n fs) := h.onLink

theorem Kept.askUnit (h : Kept s0 s) {owner dev pa n data} : Kept s0 (s.askUnit owner dev pa n data) := by
  unfold State.askUnit
  dsimp only
  split
  · exact h.fresh.upd.sendFlits
  · exact h.fresh.upd

theorem Kept.askRing (h : Kept s0 s) {owner dev pa n data} : Kept s0 (s.askRing owner dev pa n data) := by
  unfold State.askRing
  exact Kept.foldl h fun ht => ht.askUnit

theorem Kept.dropOwner (h : Kept s0 s) {owner} : Kept s0 (s.dropOwner owner) := h

/-! ## Events and rings -/

theorem Kept.msix (h : Kept s0 s) {v} : Kept s0 (s.msix v) := by
  unfold State.msix
  dsimp only
  exact Kept.ite (Kept.ite h.upd h) (Kept.ite h h.upd)

theorem Kept.setQueue (h : Kept s0 s) {q x} : Kept s0 (s.setQueue q x) := h

theorem Kept.postRing (h : Kept s0 s) {kind n dev pa bytes} : Kept s0 (s.postRing kind n dev pa bytes) := by
  unfold State.postRing
  dsimp only
  exact h.fresh.askRing

theorem Kept.writeEvent (h : Kept s0 s) {x last} : Kept s0 (s.writeEvent x last).1 := by
  unfold State.writeEvent
  dsimp only
  split
  · split <;> exact (h.hbmWrite.fst ‹_›).upd.msix
  · dsimp only
    refine Kept.msix ?_
    split
    · exact h.hostWrite.upd
    · exact h.upd
  · exact h.postRing.upd
  · exact h.upd.msix

theorem Kept.endWritten (h : Kept s0 s) {x} : Kept s0 (s.endWritten x) := by
  unfold State.endWritten
  split
  · exact h.onJob
  · exact h.onJob
  · exact h.upd
  · exact h

theorem Kept.note (h : Kept s0 s) {type job payload last} : Kept s0 (s.note type job payload last).1 := by
  unfold State.note
  dsimp only
  split
  · split
    · exact h.upd.writeEvent.endWritten
    · exact h.upd
  · split
    · exact h.upd.writeEvent
    · exact h.upd

theorem Kept.follow {p : State × Option (Nat × List Byte)} (h : Kept s0 p.1) : Kept s0 (State.follow p) := by
  unfold State.follow
  split
  · exact Kept.note h
  · exact h

theorem Kept.event (h : Kept s0 s) {type job payload} : Kept s0 (s.event type job payload) := by
  unfold State.event
  exact h.note.follow

theorem Kept.drainEvents {s : State} (h : Kept s0 s) {a} : Kept s0 (s.drainEvents a) := by
  cases a with
  | zero =>
    exact h
  | succ n =>
    unfold State.drainEvents
    dsimp only
    split
    · exact h
    · exact Kept.ite h.upd.writeEvent.follow.endWritten.drainEvents h

theorem Kept.floorDark (h : Kept s0 s) {job pa} : Kept s0 (s.floorDark job pa) := h.event

theorem Kept.unroutable (h : Kept s0 s) {dev w0} : Kept s0 (s.unroutable dev w0) := h.event

theorem Kept.devRead (h : Kept s0 s) {job pa n} : Kept s0 (s.devRead job pa n).1 := by
  unfold State.devRead
  split
  · exact (h.hbmRead.fst ‹_›).floorDark
  · exact h.hbmRead

theorem Kept.devWrite (h : Kept s0 s) {job pa bs} : Kept s0 (s.devWrite job pa bs).1 := by
  unfold State.devWrite
  split
  · exact (h.hbmWrite.fst ‹_›).floorDark
  · exact h.hbmWrite

theorem Kept.busRead (h : Kept s0 s) {q base off n} : Kept s0 (s.busRead q base off n).1 := by
  unfold State.busRead
  dsimp only
  split
  · split <;> exact h.devRead.fst ‹_›
  · exact h
  · split
    · dsimp only
      exact Kept.ite h.askRing h.askRing.unroutable
    · split
      · exact h
      · dsimp only
        split
        · exact h.dropOwner.floorDark
        · exact h.dropOwner
  · exact h

theorem Kept.busWrite (h : Kept s0 s) {q base off bs} : Kept s0 (s.busWrite q base off bs).1 := by
  unfold State.busWrite
  dsimp only
  split
  · exact h.devWrite
  · dsimp only
    exact Kept.ite h.hostWrite h
  · dsimp only
    exact Kept.ite h.postRing h.postRing.unroutable
  · exact h

theorem Kept.complete (h : Kept s0 s) {q status r0 r1} : Kept s0 (s.complete q status r0 r1) := by
  unfold State.complete
  dsimp only
  split
  · exact h
  · exact Kept.ite h.busWrite.upd.setQueue (Kept.ite h.busWrite.upd.setQueue.msix h.busWrite.upd.setQueue)

theorem Kept.ringAnswered (h : Kept s0 s) {kind n id} : Kept s0 (s.ringAnswered kind n id) := by
  unfold State.ringAnswered
  dsimp only
  split
  · exact h
  · refine Kept.ite ?_ ?_
    · split
      · refine Kept.ite ?_ ?_
        · refine Kept.msix (Kept.setQueue ?_)
          split
          · exact Kept.ite h.dropOwner h.dropOwner.floorDark
          · exact h.dropOwner
        · refine Kept.setQueue ?_
          split
          · exact Kept.ite h.dropOwner h.dropOwner.floorDark
          · exact h.dropOwner
      · split
        · exact Kept.ite h.dropOwner h.dropOwner.floorDark
        · exact h.dropOwner
    · refine Kept.msix ?_
      split
      · exact Kept.ite h.dropOwner h.dropOwner.floorDark
      · exact h.dropOwner

theorem Kept.serviceLimit (h : Kept s0 s) {j i code} : Kept s0 (s.serviceLimit j i code) := h.event

theorem Kept.onEcnt (h : Kept s0 s) {i f} : Kept s0 (s.onEcnt i f) := by
  unfold State.onEcnt
  dsimp only
  exact h.upd

theorem Kept.markRetire (h : Kept s0 s) {c cause} : Kept s0 (s.markRetire c cause) := by
  unfold State.markRetire
  dsimp only
  exact Kept.event (Kept.ite h h.upd)

theorem Kept.corrected (h : Kept s0 s) {c} : Kept s0 (s.corrected c) := by
  unfold State.corrected
  dsimp only
  exact Kept.ite h.onEcnt.markRetire h.onEcnt

theorem Kept.uncorrectable (h : Kept s0 s) {c marks} : Kept s0 (s.uncorrectable c marks) := by
  unfold State.uncorrectable
  dsimp only
  exact Kept.ite h.onEcnt.markRetire h.onEcnt

theorem Kept.hbmEcc (h : Kept s0 s) {pa n x2} : Kept s0 (s.hbmEcc pa n x2) := by
  unfold State.hbmEcc
  dsimp only
  refine Kept.ite h ?_
  split
  · exact h
  · exact h.onEcnt
  · exact h.onEcnt.upd

/-! ## Records of links -/

theorem Kept.releaseCredits (h : Kept s0 s) {j holds} : Kept s0 (s.releaseCredits j holds) := h

theorem Kept.sendRec (h : Kept s0 s) {die vc r} : Kept s0 (s.sendRec die vc r) := by
  unfold State.sendRec
  refine Kept.ite h.upd ?_
  split
  · exact h.unroutable
  · exact h.sendFlits

/-! ## Page tables and other devices -/

theorem Kept.touchTables (h : Kept s0 s) {j va} : Kept s0 (s.touchTables j va) := by
  unfold State.touchTables
  refine Kept.foldl h fun ht => ?_
  split
  · exact ht.touchRoom
  · exact ht

theorem Kept.fillL2 (h : Kept s0 s) {die x1} : Kept s0 (s.fillL2 die x1) := h

theorem Kept.look (h : Kept s0 s) {die j va} : Kept s0 (s.look die j va) := by
  unfold State.look
  dsimp only
  refine Kept.ite h ?_
  split
  · exact h.touchTables.fillL2
  · exact h.touchTables

theorem Kept.nextFault (h : Kept s0 s) {j die} : Kept s0 (s.nextFault j die).1 := h

theorem Kept.faultEvent (h : Kept s0 s) {j id index kind} : Kept s0 (s.faultEvent j id index kind) := h.event

theorem Kept.loseFault (h : Kept s0 s) {j id kind} : Kept s0 (s.loseFault j id kind) := by
  unfold State.loseFault
  exact h.onJob.faultEvent

theorem Kept.queueFault (h : Kept s0 s) {die r} : Kept s0 (s.queueFault die r) := by
  unfold State.queueFault
  dsimp only
  exact Kept.ite h.loseFault h.upd

theorem Kept.darkWalk (h : Kept s0 s) {j f} : Kept s0 (s.darkWalk j f) := by
  unfold State.darkWalk
  split
  · exact h.floorDark
  · exact h

theorem Kept.permFault (h : Kept s0 s) {p va acc f} : Kept s0 (s.permFault p va acc f) := by
  unfold State.permFault
  dsimp only
  exact h.darkWalk.nextFault.queueFault

theorem Kept.absentFault (h : Kept s0 s) {p inst port va acc f} : Kept s0 (s.absentFault p inst port va acc f).1 := by
  unfold State.absentFault
  dsimp only
  split
  · exact h.touchTables.upd
  · exact h.touchTables.nextFault.queueFault.upd

theorem Kept.sendAccess (h : Kept s0 s) {die j dev pa n data poison rid} : Kept s0 (s.sendAccess die j dev pa n data poison rid) := by
  unfold State.sendAccess
  split <;> exact h.sendRec

theorem Kept.askFabric (h : Kept s0 s) {owner die j va dev pa n data poison} :
    Kept s0 (s.askFabric owner die j va dev pa n data poison).1 := by
  unfold State.askFabric
  dsimp only
  split
  · exact h
  · exact h.fresh.upd.sendAccess

theorem Kept.dropWork (h : Kept s0 s) {work} : Kept s0 (s.dropWork work) := h

theorem Kept.leaveWork (h : Kept s0 s) {work j i jc queue} : Kept s0 (s.leaveWork work j i jc queue) := h

theorem Kept.keepSent (h : Kept s0 s) : Kept s0 (s.keepSent t) := h

theorem Kept.keepAsks (h : Kept s0 s) (ht : Kept s0 t) : Kept s0 (s.keepAsks t) := ⟨h.mem, h.hostMem, ht.fuses, ht.revoked⟩

theorem Kept.askAll (h : Kept s0 s) {owner die j data us} : Kept s0 (s.askAll owner die j data us).1 := by
  unfold State.askAll
  dsimp only
  exact Kept.foldl_fst h fun ht => ht.askFabric

theorem Kept.fabricUnits {s : State} (h : Kept s0 s) {owner j write a} : Kept s0 (s.fabricUnits owner j write a).1 := by
  cases a with
  | nil =>
    exact h
  | cons a l =>
    unfold State.fabricUnits
    dsimp only
    split
    · split
      · exact h.fabricUnits
      · dsimp only
        exact Kept.ite h.fabricUnits.floorDark h.fabricUnits
      · exact h.fabricUnits
    · exact h.fabricUnits

theorem Kept.denyFor (h : Kept s0 s) {p j va acc f} : Kept s0 (s.denyFor p j va acc f) := by
  unfold State.denyFor
  split
  · exact h.permFault
  · exact h.darkWalk

theorem Kept.readPiece (h : Kept s0 s) {owner j va pa n} : Kept s0 (s.readPiece owner j va pa n).1 := by
  unfold State.readPiece
  split
  · exact h.devRead
  · exact h
  · exact h.fabricUnits
  · exact h

theorem Kept.readPieces {s : State} (h : Kept s0 s) {owner j a} : Kept s0 (s.readPieces owner j a).1 := by
  cases a with
  | nil =>
    exact h
  | cons a l =>
    unfold State.readPieces
    dsimp only
    split <;> exact h.readPiece.readPieces

theorem Kept.lookAll (h : Kept s0 s) {die j ps} : Kept s0 (s.lookAll die j ps) := by
  unfold State.lookAll
  exact Kept.foldl h fun ht => ht.look

theorem Kept.vread (h : Kept s0 s) {owner p j va n} : Kept s0 (s.vread owner p j va n).1 := by
  unfold State.vread
  split
  · exact Kept.ite_fst h.touchTables h.touchTables.denyFor
  · split
    · exact h
    · split
      · exact h.lookAll.askAll.fst ‹_›
      · split <;> exact (h.lookAll.askAll.fst ‹_›).readPieces.fst ‹_›

theorem Kept.writePiece (h : Kept s0 s) {owner j va pa bs} : Kept s0 (s.writePiece owner j va pa bs).1 := by
  unfold State.writePiece
  split
  · exact h.devWrite
  · exact h.hostWrite
  · exact h.fabricUnits
  · exact h

theorem Kept.writePieces {s : State} (h : Kept s0 s) {owner j a a3} : Kept s0 (s.writePieces owner j a a3).1 := by
  cases a with
  | nil =>
    exact h
  | cons a l =>
    unfold State.writePieces
    dsimp only
    exact h.writePiece.writePieces

theorem Kept.vwrite (h : Kept s0 s) {owner p j va bs} : Kept s0 (s.vwrite owner p j va bs).1 := by
  unfold State.vwrite
  split
  · exact Kept.ite_fst h.touchTables h.touchTables.denyFor
  · split
    · exact h
    · split
      · exact h.lookAll.askAll.fst ‹_›
      · split <;> exact (h.lookAll.askAll.fst ‹_›).writePieces.fst ‹_›

end Sys2Proof.Machine
end

section
/-! What the operations on tiles, tokens, frames, counts, jobs and traps keep. -/

namespace Sys2Proof.Machine

-- These proofs are many and short: elaborated one after another they take less memory than side by side.
set_option Elab.async false

variable {s0 s t : State}

/-! ## Tokens -/

theorem Kept.countSent (h : Kept s0 s) {j i x} : Kept s0 (s.countSent j i x) := h.onInst

theorem Kept.countReceived (h : Kept s0 s) {j i x} : Kept s0 (s.countReceived j i x) := h.onInst

theorem Kept.progress (h : Kept s0 s) {j i} : Kept s0 (s.progress j i) := h.onInst

theorem Kept.releaseTokenAt (h : Kept s0 s) {j jc t'} : Kept s0 (s.releaseTokenAt j jc t') := by
  unfold State.releaseTokenAt
  refine Kept.ite ?_ h
  split
  · exact h.onCore
  · exact h

theorem Kept.releaseHandleAt (h : Kept s0 s) {j jc v} : Kept s0 (s.releaseHandleAt j jc v) := by
  unfold State.releaseHandleAt
  split
  · exact h.onCore
  · exact h

theorem Kept.deliver (h : Kept s0 s) {src t'} : Kept s0 (s.deliver src t') := by
  unfold State.deliver
  dsimp only
  exact Kept.ite h.releaseTokenAt h.upd

theorem Kept.answerFrom (h : Kept s0 s) {src r type w2 poison} : Kept s0 (s.answerFrom src r type w2 poison) := h.deliver

theorem Kept.answer (h : Kept s0 s) {r type w2 poison} : Kept s0 (s.answer r type w2 poison) := h.answerFrom

theorem Kept.answerCtrl (h : Kept s0 s) {r poison} : Kept s0 (s.answerCtrl r poison) := h.answer

theorem Kept.answerStatus (h : Kept s0 s) {r code detail poison} : Kept s0 (s.answerStatus r code detail poison) := h.answer

theorem Kept.answerTile (h : Kept s0 s) {c r i} : Kept s0 (s.answerTile c r i) := h.answer

theorem Kept.wallEvent (h : Kept s0 s) {j sender w0 w1} : Kept s0 (s.wallEvent j sender w0 w1) := h.event

theorem Kept.wallDrop (h : Kept s0 s) {j sender w0 w1} : Kept s0 (s.wallDrop j sender w0 w1) := by
  unfold State.wallDrop
  dsimp only
  split
  · exact Kept.ite h h.upd.wallEvent
  · exact Kept.ite (Kept.ite h.setJob.onCore h.setJob) (Kept.wallEvent (Kept.onJob (Kept.ite h.setJob.onCore h.setJob)))

theorem Kept.sendToken (h : Kept s0 s) {c jc t'} : Kept s0 (s.sendToken c jc t') := by
  unfold State.sendToken
  dsimp only
  refine Kept.ite ?_ ?_
  · split
    · exact Kept.ite h.wallDrop.releaseHandleAt h.wallDrop
    · exact Kept.ite h.upd h.upd.countSent
  · split
    · exact Kept.ite h.unroutable.releaseHandleAt h.unroutable
    · exact Kept.ite h.countSent.upd h.countSent.sendFlits

theorem Kept.setVars (h : Kept s0 s) {j f} : Kept s0 (s.setVars j f) := by
  unfold State.setVars
  exact h.onJob.upd

theorem Kept.sendVar (h : Kept s0 s) {r i v} : Kept s0 (s.sendVar r i v) := by
  unfold State.sendVar
  exact h.onJob.upd

theorem Kept.takeVar (h : Kept s0 s) {j jc i v id} : Kept s0 (s.takeVar j jc i v id) := by
  unfold State.takeVar
  dsimp only
  exact Kept.ite h.onJob (Kept.foldl h.onJob fun ht => ht.onJob.answerCtrl)

theorem Kept.setCellar (h : Kept s0 s) {j jc v} : Kept s0 (s.setCellar j jc v) := h.onJob

theorem Kept.spillTo (h : Kept s0 s) {c j jc t'} : Kept s0 (s.spillTo c j jc t').1 := by
  unfold State.spillTo
  dsimp only
  split
  · exact Kept.ite_fst h.setCellar h.setCellar.event
  · split
    · split
      · dsimp only
        exact Kept.ite h.setCellar h.setCellar.floorDark
      · exact h.setCellar
    · split
      · exact (h.vwrite.fst ‹_›).absentFault.setCellar
      · split
        · exact h.vwrite.fst ‹_›
        · dsimp only
          exact Kept.ite (Kept.onCore (Kept.setCellar (Kept.ite (h.vwrite.fst ‹_›) ((h.vwrite.fst ‹_›).dropOwner))))
            (Kept.setCellar (Kept.ite (h.vwrite.fst ‹_›) ((h.vwrite.fst ‹_›).dropOwner)))

theorem Kept.spillAnswered (h : Kept s0 s) {j jc} : Kept s0 (s.spillAnswered j jc) := by
  unfold State.spillAnswered
  dsimp only
  exact Kept.ite h.fabricUnits.dropOwner.setCellar h

theorem Kept.spillToken (h : Kept s0 s) {c j t'} : Kept s0 (s.spillToken c j t').1 := h.spillTo

theorem Kept.letIn (h : Kept s0 s) {c t'} : Kept s0 (s.letIn c t').1 := by
  unfold State.letIn
  exact Kept.ite_fst h (Kept.ite_fst h.spillToken h.onCore)

theorem Kept.stealAnswer (h : Kept s0 s) {c jc reply range poison} : Kept s0 (s.stealAnswer c jc reply range poison) := h.sendToken

/-! ## Frames -/

theorem Kept.giveFrame (h : Kept s0 s) {c j inst b base} : Kept s0 (s.giveFrame c j inst b base) := by
  unfold State.giveFrame
  dsimp only
  split
  · exact h
  · exact h.setCore.upd

theorem Kept.endFrame (h : Kept s0 s) {c j base} : Kept s0 (s.endFrame c j base) := h.onCore

/-! ## Jobs, instances and phases -/

theorem Kept.writeUnit (h : Kept s0 s) {x a} : Kept s0 (s.writeUnit x a) := by
  unfold State.writeUnit
  dsimp only
  exact Kept.ite (Kept.ite h.touchRoom h.touchRoom.clearRegions.hbmWrite) h.touchRoom.floorDark

theorem Kept.flushEntry (h : Kept s0 s) {die x1} : Kept s0 (s.flushEntry die x1) := by
  unfold State.flushEntry
  dsimp only
  split
  · exact h.writeUnit.upd
  · refine Kept.ite ?_ h
    refine Kept.upd (s := List.foldl _ _ _) ?_
    exact Kept.foldl h fun ht => ht.hostWrite
  · exact h.upd
  · exact Kept.ite h (Kept.foldl h.upd fun ht => ht.askFabric)

theorem Kept.wcAnswered (h : Kept s0 s) {die j unit} : Kept s0 (s.wcAnswered die j unit) := by
  unfold State.wcAnswered
  dsimp only
  exact Kept.ite h.fabricUnits.dropOwner.upd h

theorem Kept.flushDie (h : Kept s0 s) {die p} : Kept s0 (s.flushDie die p) := by
  unfold State.flushDie
  exact Kept.foldl h fun ht => ht.flushEntry

theorem Kept.flushWhere (h : Kept s0 s) {p} : Kept s0 (s.flushWhere p) := by
  unfold State.flushWhere
  exact Kept.foldl h fun ht => ht.flushDie

theorem Kept.toPart (h : Kept s0 s) {x q vc kind poison body} : Kept s0 (s.toPart x q vc kind poison body) := by
  unfold State.toPart
  dsimp only
  exact h.sendRec

theorem Kept.releasePart (h : Kept s0 s) {x} : Kept s0 (s.releasePart x) := by
  unfold State.releasePart
  dsimp only
  exact Kept.foldl h.upd fun ht => ht.toPart

theorem Kept.releaseParts (h : Kept s0 s) {p} : Kept s0 (s.releaseParts p) := by
  unfold State.releaseParts
  exact Kept.foldl h fun ht => ht.releasePart

theorem Kept.freeInst (h : Kept s0 s) {j i} : Kept s0 (s.freeInst j i) := by
  unfold State.freeInst
  dsimp only
  exact Kept.releaseParts (Kept.foldl h.flushWhere fun ht => ht.onCore)

theorem Kept.onCmds (h : Kept s0 s) {j f} : Kept s0 (s.onCmds j f) := h

theorem Kept.endInst (h : Kept s0 s) {j i status} : Kept s0 (s.endInst j i status) := by
  unfold State.endInst
  dsimp only
  split
  · exact h
  · exact Kept.ite h h.freeInst.onJob.onCmds.event

theorem Kept.dropTlbs (h : Kept s0 s) {j} : Kept s0 (s.dropTlbs j) := h

theorem Kept.rebuildSlots (h : Kept s0 s) {c} : Kept s0 (s.rebuildSlots c) := h.onCore

theorem Kept.rebuildFor (h : Kept s0 s) {cs} : Kept s0 (s.rebuildFor cs) := by
  unfold State.rebuildFor
  exact Kept.foldl h fun ht => ht.rebuildSlots

theorem Kept.leaveCores (h : Kept s0 s) {j} : Kept s0 (s.leaveCores j) := by
  unfold State.leaveCores
  dsimp only
  refine Kept.dropTlbs ?_
  refine Kept.upd (s := List.foldl _ _ _) ?_
  exact Kept.foldl h fun ht => ht.onCore

theorem Kept.endJob (h : Kept s0 s) {j status fault} : Kept s0 (s.endJob j status fault) := by
  unfold State.endJob
  exact h.flushWhere.releaseParts.leaveCores.onJob.upd.releaseCredits.rebuildFor.event

theorem Kept.tellPeers (h : Kept s0 s) {j kind tag ordinal peers rest} : Kept s0 (s.tellPeers j kind tag ordinal peers rest) := by
  unfold State.tellPeers
  exact Kept.foldl h fun ht => ht.sendRec

theorem Kept.tellTotals (h : Kept s0 s) {j tag ordinal peers coll n} : Kept s0 (s.tellTotals j tag ordinal peers coll n) := h.tellPeers

theorem Kept.giveRoots (h : Kept s0 s) {j i} : Kept s0 (s.giveRoots j i) := by
  unfold State.giveRoots
  dsimp only
  split
  · exact h
  · refine Kept.foldl h fun ht => ?_
    refine Kept.ite ht ?_
    split
    · exact ht
    · split
      · exact ht
      · exact ht.giveFrame.onInst

theorem Kept.placeInst (h : Kept s0 s) {j i} : Kept s0 (s.placeInst j i) := by
  unfold State.placeInst
  dsimp only
  split
  · split
    · exact h.onInst
    · split
      · exact h.onInst.giveRoots
      · exact h.onInst.giveRoots.tellPeers
  · exact h

theorem Kept.tellEnded (h : Kept s0 s) {p coll} : Kept s0 (s.tellEnded p coll) := h.tellTotals

theorem Kept.tellCancel (h : Kept s0 s) {j i} : Kept s0 (s.tellCancel j i) := by
  unfold State.tellCancel
  dsimp only
  split
  · split
    · exact h
    · exact Kept.ite h.tellPeers.upd.tellEnded.tellEnded h.tellPeers
  · exact h

theorem Kept.cancelInst (h : Kept s0 s) {j i} : Kept s0 (s.cancelInst j i) := by
  unfold State.cancelInst
  split
  · split
    · exact h.tellCancel.endInst
    · exact h.tellCancel.endInst
    · exact Kept.ite h h.tellCancel.onInst
    · exact Kept.ite h h.tellCancel.onInst
    · exact h
  · exact h

theorem Kept.settleOnce (h : Kept s0 s) {j} : KeptSome s0 (s.settleOnce j) := by
  unfold State.settleOnce
  dsimp only
  split
  · exact trivial
  · split
    · exact trivial
    · split
      · split
        · exact h.cancelInst
        · exact h.onInst
      · split
        · split
          · split
            · exact h.setJob
            · split
              · exact h.setJob.event
              · split
                · exact KeptSome.map_of (h.placeInst)
                · exact trivial
          · split
            · exact h.setJob
            · split
              · exact h.setJob.event
              · split
                · exact KeptSome.map_of (h.placeInst)
                · exact trivial
        · split
          · exact h.endJob
          · split
            · exact h.endJob
            · exact trivial

theorem Kept.settle {s : State} (h : Kept s0 s) {j a} : Kept s0 (s.settle j a) := by
  cases a with
  | zero =>
    exact h
  | succ n =>
    unfold State.settle
    split
    · exact (h.settleOnce.some ‹_›).settle
    · exact h

theorem Kept.cancelPhase (h : Kept s0 s) {j id} : Kept s0 (s.cancelPhase j id) := by
  unfold State.cancelPhase
  dsimp only
  split
  · exact h
  · exact Kept.ite (Kept.foldl h.setJob fun ht => ht.cancelInst) h

theorem Kept.cancelCmds (h : Kept s0 s) {j} : Kept s0 (s.cancelCmds j) := by
  unfold State.cancelCmds
  split
  · exact h
  · exact Kept.ite h h.onCmds

theorem Kept.cancelLevels (h : Kept s0 s) {j status fault} : Kept s0 (s.cancelLevels j status fault) := by
  unfold State.cancelLevels
  dsimp only
  split
  · exact h
  · refine Kept.ite h ?_
    refine Kept.ite (Kept.settle (Kept.releaseCredits (Kept.onJob
      (Kept.foldl (Kept.foldl h fun ht => ht.releasePart) fun ht => (Kept.endInst (Kept.ite ht ht.tellCancel)))))) ?_
    refine Kept.ite h ?_
    refine Kept.ite h.setJob ?_
    refine Kept.settle (Kept.dropTlbs ?_)
    refine Kept.upd (s := List.foldl _ _ _) ?_
    exact Kept.foldl h.setJob fun ht => ht.cancelInst

theorem Kept.cancelJob (h : Kept s0 s) {j status fault} : Kept s0 (s.cancelJob j status fault) := by
  unfold State.cancelJob
  exact h.cancelCmds.cancelLevels

/-! ## Traps and reports -/

theorem Kept.count (h : Kept s0 s) {c j index n} : Kept s0 (s.count c j index n) := h.onCore

theorem Kept.unreserve (h : Kept s0 s) {c l} : Kept s0 (s.unreserve c l) := by
  unfold State.unreserve
  dsimp only
  exact Kept.foldl h.setCore fun ht => ht.stealAnswer

theorem Kept.restoreInputs (h : Kept s0 s) {c l} : Kept s0 (s.restoreInputs c l) := by
  unfold State.restoreInputs
  exact h.unreserve.onCore

theorem Kept.abortFirings (h : Kept s0 s) {c ls} : Kept s0 (s.abortFirings c ls) := by
  unfold State.abortFirings
  exact Kept.foldl h fun ht => ht.restoreInputs.onCore

theorem Kept.loseTrap (h : Kept s0 s) {j} : Kept s0 (s.loseTrap j) := h.onJob

theorem Kept.tryPost (h : Kept s0 s) {p} : Kept s0 (s.tryPost p).1 := by
  unfold State.tryPost
  dsimp only
  split
  · split
    · exact h.keepAsks (h.vwrite.fst ‹_›)
    · exact (h.vwrite.fst ‹_›).event.dropOwner
  · split
    · exact h.keepAsks (h.vread.fst ‹_›)
    · split
      · split
        · exact h.keepAsks ((h.vread.fst ‹_›).vwrite.fst ‹_›)
        · exact ((h.vread.fst ‹_›).vwrite.fst ‹_›).onJob.dropOwner
        · exact ((h.vread.fst ‹_›).vwrite.fst ‹_›).loseTrap.dropOwner
      · exact (h.vread.fst ‹_›).loseTrap.dropOwner
    · exact (h.vread.fst ‹_›).loseTrap.dropOwner

theorem Kept.post (h : Kept s0 s) {j bytes report} : Kept s0 (s.post j bytes report) := by
  unfold State.post
  dsimp only
  split
  · exact (Kept.ite_fst h h.tryPost).fst ‹_›
  · exact ((Kept.ite_fst h h.tryPost).fst ‹_›).upd

theorem Kept.putTrap (h : Kept s0 s) {j bytes} : Kept s0 (s.putTrap j bytes) := h.post

theorem Kept.runPosts (h : Kept s0 s) : Kept s0 (s.runPosts) := by
  unfold State.runPosts
  refine Kept.foldl h fun ht => ?_
  refine Kept.ite ht ?_
  split
  · exact (ht.tryPost.fst ‹_›).upd
  · exact ht.tryPost.fst ‹_›

theorem Kept.releaseInputs (h : Kept s0 s) {c l} : Kept s0 (s.releaseInputs c l) := h.onCore

theorem Kept.stopLanes (h : Kept s0 s) {c} : Kept s0 (s.stopLanes c) := h.onCore

theorem Kept.stopFrozen (h : Kept s0 s) {j} : Kept s0 (s.stopFrozen j) := by
  unfold State.stopFrozen
  exact Kept.foldl h fun ht => ht.stopLanes

theorem Kept.applyPolicy (h : Kept s0 s) {c l policy} : Kept s0 (s.applyPolicy c l policy) := by
  unfold State.applyPolicy
  dsimp only
  split
  · exact h.unreserve.releaseInputs.onInst
  · exact h.restoreInputs.count.onInst.stopFrozen
  · exact h.unreserve.releaseInputs.cancelJob

theorem Kept.takeTrap (h : Kept s0 s) {c l t' x} : Kept s0 (s.takeTrap c l t' x) := by
  unfold State.takeTrap
  exact h.putTrap.count.applyPolicy

end Sys2Proof.Machine
end


section
/-! What the units and engines of a core keep as they serve requests. -/

namespace Sys2Proof.Machine

-- These proofs are many and short: elaborated one after another they take less memory than side by side.
set_option Elab.async false

variable {s0 s t : State}

/-! ## The tile unit -/

theorem Kept.acceptTile (h : Kept s0 s) {c r} : Kept s0 (s.acceptTile c r) := h.setCore

theorem Kept.startTile (h : Kept s0 s) {c rid gs} : Kept s0 (s.startTile c rid gs) := by
  unfold State.startTile
  dsimp only
  split
  · exact h
  · refine Kept.ite h ?_
    split
    · split
      · exact h.setCore
      · exact h
    · split
      · exact Kept.ite h.setCore h
      · exact h
    · exact h.setCore
    · exact h
    · split
      · exact h.setCore
      · exact h

theorem Kept.serviceCheck (h : Kept s0 s) {c r} : Kept s0 (s.serviceCheck c r).1 := by
  unfold State.serviceCheck
  split
  · split
    · exact h.serviceLimit
    · exact h
  · exact h

theorem Kept.finishInPlace (h : Kept s0 s) {c r x2 poison src} : Kept s0 (s.finishInPlace c r x2 poison src) := by
  unfold State.finishInPlace
  dsimp only
  exact Kept.ite h.onCore.answerFrom h.onCore.answerFrom

theorem Kept.finishNew (h : Kept s0 s) {c r made spoiled src} : Kept s0 (s.finishNew c r made spoiled src) := by
  unfold State.finishNew
  dsimp only
  split
  · exact h.onCore.deliver.deliver
  · exact h.onCore.answerFrom
  · exact h.onCore

theorem Kept.doneTile (h : Kept s0 s) {c rid} : Kept s0 (s.doneTile c rid) := by
  unfold State.doneTile
  dsimp only
  split
  · exact h
  · split
    · exact h.setCore.serviceCheck.onCore.answer
    · exact h.setCore.serviceCheck.onCore.answer
    · exact Kept.finishInPlace (Kept.ite h.setCore.serviceCheck.onCore h.setCore.serviceCheck)
    · exact h.setCore.serviceCheck.finishNew

theorem Kept.freeEntryNow (h : Kept s0 s) {c i} : Kept s0 (s.freeEntryNow c i) := by
  unfold State.freeEntryNow
  dsimp only
  exact Kept.ite (Kept.foldl h.setCore fun ht => ht.answerCtrl) h

/-! ## The matrix unit -/

theorem Kept.acceptMma (h : Kept s0 s) {c r} : KeptSome s0 (s.acceptMma c r) := by
  unfold State.acceptMma
  dsimp only
  split
  · exact h.setCore
  · exact trivial

theorem Kept.stopMmas (h : Kept s0 s) {j c} : Kept s0 (s.stopMmas j c) := by
  unfold State.stopMmas
  exact h.setCore.upd

theorem Kept.startMma (h : Kept s0 s) {c rid gs} : Kept s0 (s.startMma c rid gs) := by
  unfold State.startMma
  dsimp only
  split
  · exact h
  · refine Kept.ite h ?_
    split
    · exact h
    · exact h.fresh.setCore

theorem Kept.sparseMeta (h : Kept s0 s) {c r x2} : Kept s0 (s.sparseMeta c r x2) := by
  unfold State.sparseMeta
  split
  · exact h.event
  · exact h

theorem Kept.residueBad (h : Kept s0 s) {c} : Kept s0 (s.residueBad c) := by
  unfold State.residueBad
  exact h.onEcnt.markRetire

theorem Kept.doneMma (h : Kept s0 s) {c rid residueOk} : Kept s0 (s.doneMma c rid residueOk) := by
  unfold State.doneMma
  dsimp only
  split
  · exact h
  · refine Kept.ite h ?_
    split
    · exact Kept.finishInPlace (Kept.onCore (Kept.serviceCheck
        (Kept.ite h.setCore.progress.sparseMeta h.setCore.progress.sparseMeta.residueBad)))
    · exact Kept.finishNew (Kept.onCore (Kept.serviceCheck (Kept.ite h.setCore.progress.sparseMeta
        h.setCore.progress.sparseMeta.residueBad)))

/-! ## Accumulators -/

theorem Kept.discardAdd (h : Kept s0 s) {c r mark} : Kept s0 (s.discardAdd c r mark) := by
  unfold State.discardAdd
  dsimp only
  exact Kept.ite h.setCore h.setCore.answerCtrl

theorem Kept.contribute (h : Kept s0 s) {c r mark} : KeptSome s0 (s.contribute c r mark) := by
  unfold State.contribute
  dsimp only
  split
  · exact trivial
  · split
    · split
      · exact h.setCore
      · exact trivial
    · split
      · exact h.setCore.discardAdd
      · split
        · exact h.setCore
        · split
          · exact h.setCore
          · exact trivial

theorem Kept.startAdd (h : Kept s0 s) {c rid gs} : Kept s0 (s.startAdd c rid gs) := by
  unfold State.startAdd
  dsimp only
  split
  · exact h
  · split
    · exact h
    · split
      · exact Kept.ite h h.setCore
      · refine Kept.ite h ?_
        split
        · exact h
        · exact h.setCore

theorem Kept.emitAcc (h : Kept s0 s) {c r made} : Kept s0 (s.emitAcc c r made) := by
  unfold State.emitAcc
  dsimp only
  refine Kept.ite ?_ ?_
  · split
    · exact h
    · exact h.setCore.answerTile
  · split
    · exact h
    · exact Kept.ite h.setCore.answer h.setCore.answer

theorem Kept.handleFresh {s : State} (h : Kept s0 s) {c r a} : Kept s0 (s.handleFresh c r a) := by
  cases a with
  | nil =>
    exact h
  | cons a l =>
    unfold State.handleFresh
    dsimp only
    split
    · exact h
    · exact Kept.ite h (Kept.ite h.onCore.discardAdd.handleFresh (Kept.ite h.onCore (Kept.ite h.onCore.handleFresh h.handleFresh)))

theorem Kept.addDone (h : Kept s0 s) {c x} : Kept s0 (s.addDone c x) := by
  unfold State.addDone
  dsimp only
  exact Kept.onCore (Kept.ite ((Kept.ite_fst h.setCore.serviceCheck h.setCore).onCore) (Kept.ite_fst h.setCore.serviceCheck h.setCore))

theorem Kept.passAdd (h : Kept s0 s) {c x} : Kept s0 (s.passAdd c x) := by
  unfold State.passAdd
  exact h.onCore.handleFresh

theorem Kept.doneAdd (h : Kept s0 s) {c rid} : Kept s0 (s.doneAdd c rid) := by
  unfold State.doneAdd
  dsimp only
  split
  · exact h
  · split
    · exact h
    · exact Kept.ite h.emitAcc.passAdd (Kept.ite h.addDone.fresh.onCore
        (Kept.passAdd (Kept.ite h.addDone.emitAcc (Kept.ite h.addDone h.addDone.answerCtrl))))

/-! ## Units of an engine -/

theorem Kept.prepareFrom {s : State} (h : Kept s0 s) {owner die j us here} : (s.prepareFrom owner die j us here).Keeps s0 := by
  induction us generalizing s here with
  | nil =>
    cases here
    · exact h
    · exact trivial
  | cons u us ih =>
    unfold State.prepareFrom
    dsimp only
    split
    · exact ih h
    · split
      · exact ih h
      · split
        · split
          · exact trivial
          · exact ih h
        · split
          · split
            · exact ih h
            · exact ih h.look.askFabric
          · exact ih h
          · exact ih h

theorem Kept.prepare (h : Kept s0 s) {owner die j us} : (s.prepare owner die j us).Keeps s0 := by
  unfold State.prepare
  split
  · exact trivial
  · exact h.prepareFrom

theorem Kept.fabricOutcome (h : Kept s0 s) {p va acc page dev pa rid status bs} :
    Kept s0 (s.fabricOutcome p va acc page dev pa rid status bs).1 := by
  unfold State.fabricOutcome
  split
  · exact h
  · exact h.permFault
  · dsimp only
    exact Kept.ite h.floorDark h

theorem Kept.writePoison (h : Kept s0 s) {j pa n} : Kept s0 (s.writePoison j pa n).1 := by
  unfold State.writePoison
  dsimp only
  split
  · exact Kept.ite_fst h.touchRoom.clearRegions.upd h.touchRoom.floorDark
  · exact h.upd.hostWrite
  · exact h

theorem Kept.perform1 (h : Kept s0 s) {p owner u} : Kept s0 (s.perform1 p owner u).1 := by
  unfold State.perform1
  dsimp only
  split
  · exact h
  · split
    · split
      · exact h
      · exact h
      · exact h.fabricOutcome
      · exact h
    · split
      · exact h.look.permFault
      · split
        · exact h.look.permFault
        · exact h.look
        · split
          · dsimp only
            split
            · exact Kept.ite_fst h.look.writePoison h.look.writePiece
            · exact h.look.readPiece
          · dsimp only
            split
            · exact Kept.ite_fst h.look.writePoison h.look.writePiece
            · exact h.look.readPiece
        · split
          · dsimp only
            split
            · exact Kept.ite_fst h.look.writePoison h.look.writePiece
            · exact h.look.readPiece
          · dsimp only
            split
            · exact Kept.ite_fst h.look.writePoison h.look.writePiece
            · exact h.look.readPiece

theorem Kept.performEarly (h : Kept s0 s) {p owner u next} : Kept s0 (s.performEarly p owner u next) := by
  unfold State.performEarly
  dsimp only
  refine Kept.ite h ?_
  split
  · exact h
  · refine Kept.ite h ?_
    split
    · exact h.look.askFabric
    · exact h
    · exact Kept.ite h h.perform1.upd

theorem Kept.keepUnits (h : Kept s0 s) {owner us gs} : Kept s0 (s.keepUnits owner us gs) := by
  unfold State.keepUnits
  dsimp only
  exact Kept.foldl h fun ht => (Kept.ite ht ht.upd)

theorem Kept.performUnits {s : State} (h : Kept s0 s) {p owner a} : Kept s0 (s.performUnits p owner a).1 := by
  cases a with
  | nil =>
    exact h
  | cons a l =>
    unfold State.performUnits
    dsimp only
    exact h.perform1.performUnits

theorem Kept.engine (h : Kept s0 s) {p owner us} : (s.engine p owner us).Keeps s0 := by
  unfold State.engine
  dsimp only
  split
  · exact trivial
  · exact h.prepare.wait ‹_›
  · exact h.performUnits.dropOwner

theorem Kept.drawMany (h : Kept s0 s) {n} : Kept s0 (s.drawMany n).1 := h

/-! ## Walkers -/

theorem Kept.onWalker (h : Kept s0 s) {c w f} : Kept s0 (s.onWalker c w f) := h.onCore

theorem Kept.cfgTrap (h : Kept s0 s) {c r} : Kept s0 (s.cfgTrap c r) := h.takeTrap

theorem Kept.takeRecord (h : Kept s0 s) {c r bytes} : Kept s0 (s.takeRecord c r bytes) := by
  unfold State.takeRecord
  dsimp only
  split
  · exact h
  · split
    · exact h.setCore.cfgTrap
    · exact Kept.ite h.setCore.answer h.setCore.cfgTrap

theorem Kept.freezeWalker (h : Kept s0 s) {c w va acc f} : Kept s0 (s.freezeWalker c w va acc f) := by
  unfold State.freezeWalker
  dsimp only
  exact h.absentFault.onWalker

theorem Kept.scanEntries {s : State} (h : Kept s0 s) {p c w refused x fuel g m} : (s.scanEntries p c w refused x fuel g m).Keeps s0 := by
  induction fuel generalizing s g m with
  | zero => exact h
  | succ fuel ih =>
    unfold State.scanEntries
    dsimp only
    split
    · exact trivial
    · exact h.prepare.wait ‹_›
    · split
      · exact h.performUnits.keepUnits
      · exact ih h.performUnits.keepUnits

theorem Kept.dropEntries (h : Kept s0 s) {c w next} : Kept s0 (s.dropEntries c w next) := h

theorem Kept.leaveWalkerWork (h : Kept s0 s) {c w} : Kept s0 (s.leaveWalkerWork c w) := h.leaveWork

theorem Kept.dropWalkerWork (h : Kept s0 s) {c w ord} : Kept s0 (s.dropWalkerWork c w ord) := by
  unfold State.dropWalkerWork
  exact h.dropOwner.dropOwner

theorem Kept.answerStore (h : Kept s0 s) {c r dim poison} : Kept s0 (s.answerStore c r dim poison) := by
  unfold State.answerStore
  exact h.onCore.answer

theorem Kept.emptyRound (h : Kept s0 s) {c w} : Kept s0 (s.emptyRound c w) := by
  unfold State.emptyRound
  dsimp only
  refine Kept.ite ?_ h.onWalker.progress.deliver
  split
  · exact h.onWalker.progress.onWalker.answerStore
  · exact h.onWalker.progress

theorem Kept.deliverTile (h : Kept s0 s) {c w p rows poison gs} : KeptSome s0 (s.deliverTile c w p rows poison gs) := by
  unfold State.deliverTile
  dsimp only
  split
  · exact trivial
  · split
    · exact h.setCore.onWalker.deliver
    · exact trivial

theorem Kept.walkerAsks (h : Kept s0 s) {c w p} : Kept s0 (s.walkerAsks c w p) := by
  unfold State.walkerAsks
  dsimp only
  split
  · exact h
  · exact h.fresh.onWalker

theorem Kept.pointRows (h : Kept s0 s) {port c w p} : (s.pointRows port c w p).Keeps s0 := by
  unfold State.pointRows
  dsimp only
  split
  · split
    · exact trivial
    · exact h.prepare.wait ‹_›
    · exact h.performUnits
  · exact h

theorem Kept.lookAhead (h : Kept s0 s) {port c w} : (s.lookAhead port c w).Keeps s0 := by
  unfold State.lookAhead
  dsimp only
  split
  · exact h.scanEntries
  · exact h

theorem Kept.walkerEarly (h : Kept s0 s) {c w data ahead unit} : Kept s0 (s.walkerEarly c w data ahead unit) := by
  unfold State.walkerEarly
  dsimp only
  split
  · exact h
  · split
    · exact h.performEarly.progress
    · refine Kept.ite h ?_
      split
      · split
        · exact (h.pointRows.known ‹_›).performEarly.progress
        · exact h
      · exact h

theorem Kept.entryEarly (h : Kept s0 s) {c w g unit} : Kept s0 (s.entryEarly c w g unit) := by
  unfold State.entryEarly
  dsimp only
  refine Kept.ite h ?_
  split
  · exact h.performEarly.progress
  · exact h

theorem Kept.usedEntries (h : Kept s0 s) {c w x p next} : Kept s0 (s.usedEntries c w x p next) := by
  unfold State.usedEntries
  exact Kept.ite h.dropEntries h

theorem Kept.loadPoint (h : Kept s0 s) {c w gs} : Kept s0 (s.loadPoint c w gs) := by
  unfold State.loadPoint
  dsimp only
  refine Kept.ite h ?_
  split
  · exact h.lookAhead.wait ‹_›
  · exact h.freezeWalker
  · split
    · exact (h.lookAhead.found ‹_›).pointRows.wait ‹_›
    · exact h.freezeWalker
    · split
      · exact h.prepare.wait ‹_›
      · exact h.freezeWalker
      · split
        · exact h.walkerAsks
        · refine Kept.progress (Kept.onWalker (Kept.usedEntries (Kept.dropWalkerWork ?_)))
          refine (Kept.deliverTile ?_).some ‹_›
          exact ((h.lookAhead.found ‹_›).pointRows.known ‹_›).performUnits.upd

theorem Kept.storePoint (h : Kept s0 s) {c w} : Kept s0 (s.storePoint c w) := by
  unfold State.storePoint
  dsimp only
  split
  · exact h
  · refine Kept.ite h ?_
    split
    · exact h.lookAhead.wait ‹_›
    · exact h.freezeWalker
    · split
      · exact (h.lookAhead.found ‹_›).pointRows.wait ‹_›
      · exact h.freezeWalker
      · split
        · exact h.prepare.wait ‹_›
        · exact h.freezeWalker
        · exact ((h.lookAhead.found ‹_›).pointRows.known ‹_›).performUnits.dropWalkerWork.usedEntries.onWalker.progress.answerStore

theorem Kept.applyWpar (h : Kept s0 s) {c w r} : Kept s0 (s.applyWpar c w r) := by
  unfold State.applyWpar
  dsimp only
  exact Kept.ite h.onWalker.answerStatus h.answerStatus

theorem Kept.beginRound (h : Kept s0 s) {c w r} : Kept s0 (s.beginRound c w r) := h.onWalker

theorem Kept.walkerUnits (h : Kept s0 s) {c w units entries} : Kept s0 (s.walkerUnits c w units entries) := by
  unfold State.walkerUnits
  dsimp only
  refine Kept.ite h ?_
  refine Kept.ite ?_ (Kept.foldl (Kept.foldl h fun ht => ht.entryEarly) fun ht => ht.walkerEarly)
  split
  · exact Kept.foldl (Kept.foldl h fun ht => ht.entryEarly) fun ht => (Kept.ite ht.walkerEarly ht)
  · exact Kept.foldl h fun ht => ht.entryEarly

theorem Kept.stopAnswers (h : Kept s0 s) {c w x} : Kept s0 (s.stopAnswers c w x) := by
  unfold State.stopAnswers
  dsimp only
  refine Kept.foldl (Kept.ite h.deliver h) fun ht => ?_
  split
  · exact ht.answerStatus
  · exact Kept.ite ht.answerStore ht.deliver

theorem Kept.leaveFault (h : Kept s0 s) {port} : Kept s0 (s.leaveFault port) := h

theorem Kept.finishStop (h : Kept s0 s) {c w x r} : Kept s0 (s.finishStop c w x r) := by
  unfold State.finishStop
  exact h.stopAnswers.leaveWalkerWork.onWalker.leaveFault.answerStatus

theorem Kept.walkerStep (h : Kept s0 s) {c w gs} : Kept s0 (s.walkerStep c w gs) := by
  unfold State.walkerStep
  dsimp only
  refine Kept.ite h ?_
  refine Kept.ite ?_ ?_
  · split
    · exact Kept.ite h h.finishStop
    · exact h
  · refine Kept.ite h ?_
    refine Kept.ite ?_ ?_
    · split
      · exact h
      · split
        · exact h.onWalker.applyWpar
        · exact h.beginRound
        · exact h
    · refine Kept.ite h.emptyRound ?_
      refine Kept.ite ?_ (Kept.ite h.storePoint h.loadPoint)
      split
      · exact h.scanEntries.wait ‹_›
      · exact h.freezeWalker
      · exact (h.scanEntries.found ‹_›).dropEntries.emptyRound
      · exact (h.scanEntries.found ‹_›).dropEntries.onWalker

theorem Kept.acceptWgo (h : Kept s0 s) {c r} : Kept s0 (s.acceptWgo c r) := by
  unfold State.acceptWgo
  split
  · exact Kept.answerStatus (Kept.ite h.onCore h)
  · exact h.onWalker

theorem Kept.acceptWpar (h : Kept s0 s) {c r} : Kept s0 (s.acceptWpar c r) := by
  unfold State.acceptWpar
  split
  · exact h.answerStatus
  · exact Kept.ite h.onWalker h.applyWpar

theorem Kept.acceptWstop (h : Kept s0 s) {c r} : Kept s0 (s.acceptWstop c r) := by
  unfold State.acceptWstop
  split
  · exact h.answerStatus
  · exact Kept.ite h.onWalker h.finishStop

theorem Kept.acceptWstat (h : Kept s0 s) {c r} : Kept s0 (s.acceptWstat c r) := by
  unfold State.acceptWstat
  dsimp only
  split
  · exact h.answerStatus
  · exact h.answer

/-! ## Memory requests -/

theorem Kept.enterMem (h : Kept s0 s) {c r} : KeptSome s0 (s.enterMem c r) := by
  unfold State.enterMem
  dsimp only
  split
  · exact trivial
  · split
    · split
      · exact h.answerStatus
      · exact h.upd
    · split
      · exact h.answerStatus
      · exact h.upd
    · split
      · exact h.answerCtrl
      · exact h.upd
    · exact h.upd

theorem Kept.fillTlbs (h : Kept s0 s) {c x1} : Kept s0 (s.fillTlbs c x1) := by
  unfold State.fillTlbs
  exact h.fillL2.onCore

theorem Kept.freeValue (h : Kept s0 s) {ty n} : Kept s0 (s.freeValue ty n).1 := by
  unfold State.freeValue
  dsimp only
  exact h.draw

theorem Kept.recordDone (h : Kept s0 s) {c m} : Kept s0 (s.recordDone c m) := by
  unfold State.recordDone
  dsimp only
  refine Kept.ite h ?_
  split
  · refine Kept.ite h.answerStatus ?_
    split
    · exact h.setCore.answerStatus
    · exact h.answerStatus
  · refine Kept.ite h.answerStatus ?_
    split
    · exact h.setCore.answerStatus
    · exact h.answerStatus
  · exact h.takeRecord

theorem Kept.loadDone (h : Kept s0 s) {c m} : Kept s0 (s.loadDone c m) := by
  unfold State.loadDone
  dsimp only
  split
  · exact h
  · exact Kept.answerTile (Kept.ite ((Kept.ite_fst h.onCore.serviceLimit h.onCore).onCore) (Kept.ite_fst h.onCore.serviceLimit h.onCore))

theorem Kept.respond (h : Kept s0 s) {die job dst rid status bs} : Kept s0 (s.respond die job dst rid status bs) := h.sendRec

theorem Kept.memDone (h : Kept s0 s) {c m} : Kept s0 (s.memDone c m) := by
  unfold State.memDone
  dsimp only
  refine Kept.ite h.upd.respond ?_
  split
  · exact h.upd.answer
  · exact h.upd.answer
  · exact Kept.ite h.upd.freeValue.answer h.upd.answer
  · exact Kept.ite h.upd.freeValue.answer h.upd.answer
  · exact h.upd.loadDone
  · exact h.upd.loadDone
  · exact h.upd.recordDone
  · exact h.upd.recordDone
  · exact h.upd.recordDone
  · exact h.upd.answerCtrl

theorem Kept.finishRecords {s : State} (h : Kept s0 s) {c a} : Kept s0 (s.finishRecords c a) := by
  cases a with
  | zero =>
    exact h
  | succ n =>
    unfold State.finishRecords
    split
    · exact h.memDone.finishRecords
    · exact h

theorem Kept.endRecords (h : Kept s0 s) {c} : Kept s0 (s.endRecords c) := h.finishRecords

theorem Kept.elemDone (h : Kept s0 s) {c rid n g} : Kept s0 (s.elemDone c rid n g) := by
  unfold State.elemDone
  dsimp only
  split
  · exact h
  · split
    · exact h
    · refine Kept.ite ?_ ?_
      · split
        · split
          · exact h.onCore.upd
          · exact h.upd
        · exact h.upd
      · refine Kept.ite ?_ ?_
        · refine Kept.memDone ?_
          split
          · exact Kept.ite h.onCore h
          · exact h
        · refine Kept.endRecords ?_
          split
          · split
            · exact h.onCore.upd
            · exact h.upd
          · exact h.upd

theorem Kept.onElem (h : Kept s0 s) {rid n f} : Kept s0 (s.onElem rid n f) := h

theorem Kept.combine (h : Kept s0 s) {c r pa bs} : Kept s0 (s.combine c r pa bs).1 := by
  unfold State.combine
  dsimp only
  split
  · exact h.upd
  · split
    · exact Kept.ite_fst h h.upd
    · split
      · exact Kept.ite_fst h.flushEntry h.flushEntry.upd
      · exact Kept.ite_fst h h.upd

theorem Kept.atomicAt (h : Kept s0 s) {job pa n aop ty b d} : Kept s0 (s.atomicAt job pa n aop ty b d).1 := by
  unfold State.atomicAt
  dsimp only
  split
  · split
    · exact h.devRead.fst ‹_›
    · split <;> exact (h.devRead.fst ‹_›).hbmWrite.fst ‹_›
  · exact h.devRead.fst ‹_›

theorem Kept.setWatch (h : Kept s0 s) {rid pa page f} : Kept s0 (s.setWatch rid pa page f) := h

theorem Kept.watchAt (h : Kept s0 s) {c rid job pa page} : Kept s0 (s.watchAt c rid job pa page) := by
  unfold State.watchAt
  dsimp only
  split
  · exact h
  · refine Kept.ite h.elemDone ?_
    refine Kept.ite h ?_
    refine Kept.ite (Kept.ite h h.fresh.setWatch) ?_
    split
    · exact Kept.ite ((h.devRead.fst ‹_›).setWatch) ((h.devRead.fst ‹_›).elemDone)
    · exact (h.devRead.fst ‹_›).elemDone

theorem Kept.sendElem (h : Kept s0 s) {rid n t'} : Kept s0 (s.sendElem rid n t').1 := by
  unfold State.sendElem
  dsimp only
  exact h.fresh.onElem

theorem Kept.refuseElem (h : Kept s0 s) {c r n x3 f} : Kept s0 (s.refuseElem c r n x3 f) := by
  unfold State.refuseElem
  exact h.permFault.elemDone

theorem Kept.storeWc (h : Kept s0 s) {c r n x3 t'} : Kept s0 (s.storeWc c r n x3 t') := by
  unfold State.storeWc
  dsimp only
  refine Kept.ite h.refuseElem ?_
  split
  · exact (h.combine.fst ‹_›).elemDone
  · exact h.combine.fst ‹_›

theorem Kept.performAt (h : Kept s0 s) {c m n x3 t' ecc} : Kept s0 (s.performAt c m n x3 t' ecc) := by
  unfold State.performAt
  dsimp only
  refine Kept.ite h.storeWc ?_
  split
  · exact h.refuseElem
  · exact h.sendElem.sendRec
  · exact Kept.ite h.sendElem h
  · split
    · split <;> exact (h.devWrite.fst ‹_›).elemDone
    · exact h.hbmEcc.atomicAt.elemDone
    · split
      · exact h.hbmEcc.watchAt
      · split <;> exact (h.hbmEcc.devRead.fst ‹_›).elemDone

theorem Kept.prefUnit (h : Kept s0 s) {die j va} : Kept s0 (s.prefUnit die j va) := by
  unfold State.prefUnit
  dsimp only
  split
  · exact h.look.darkWalk
  · split
    · exact Kept.ite h.look h.look.upd
    · exact h.look

theorem Kept.performPref (h : Kept s0 s) {c m} : Kept s0 (s.performPref c m) := by
  unfold State.performPref
  dsimp only
  refine Kept.ite (Kept.memDone (Kept.ite h (Kept.foldl h fun ht => ht.prefUnit))) ?_
  split
  · exact h.upd
  · refine Kept.upd (s := List.foldl _ _ _) ?_
    exact Kept.foldl h fun ht => ht.prefUnit

theorem Kept.claimWalker (h : Kept s0 s) {c m} : Kept s0 (s.claimWalker c m) := by
  unfold State.claimWalker
  dsimp only
  split
  · exact Kept.ite h (Kept.ite h.onWalker.upd.takeRecord h.onWalker.upd)
  · exact h

theorem Kept.performFlush (h : Kept s0 s) {c m} : Kept s0 (s.performFlush c m) := by
  unfold State.performFlush
  dsimp only
  exact Kept.ite (Kept.ite h.flushDie h.flushDie.memDone) h

theorem Kept.performMem (h : Kept s0 s) {rid n ecc} : Kept s0 (s.performMem rid n ecc) := by
  unfold State.performMem
  dsimp only
  split
  · exact h
  · split
    · exact Kept.ite h.watchAt h
    · split
      · exact Kept.ite h.memDone h
      · exact h.performFlush
      · exact h.performPref
      · refine Kept.ite h.claimWalker ?_
        split
        · exact h
        · split
          · exact h
          · split
            · exact h.refuseElem
            · exact h.performAt

theorem Kept.pageWalkMem (h : Kept s0 s) {rid n} : Kept s0 (s.pageWalkMem rid n) := by
  unfold State.pageWalkMem
  dsimp only
  split
  · exact h
  · split
    · exact h
    · split
      · exact h
      · refine Kept.ite h ?_
        split
        · exact h.touchTables.fillTlbs
        · exact Kept.ite h.touchTables.absentFault.onElem h.touchTables.refuseElem

theorem Kept.startMemTile (h : Kept s0 s) {c rid gs} : Kept s0 (s.startMemTile c rid gs) := by
  unfold State.startMemTile
  dsimp only
  split
  · exact h
  · refine Kept.ite h ?_
    split
    · exact h
    · exact Kept.ite h.setCore.memDone h.setCore.upd

theorem Kept.hostAnswer (h : Kept s0 s) {rid n ok} : Kept s0 (s.hostAnswer rid n ok) := by
  unfold State.hostAnswer
  dsimp only
  split
  · exact h
  · split
    · split
      · split
        · refine Kept.ite h ?_
          refine Kept.ite h.elemDone ?_
          split
          · exact h.hostWrite.elemDone
          · exact h.hostWrite.elemDone
          · exact h.elemDone
        · exact h
      · exact h
    · exact h

theorem Kept.elemResponse (h : Kept s0 s) {m n id dev status bs} : Kept s0 (s.elemResponse m n id dev status bs) := by
  unfold State.elemResponse
  dsimp only
  split
  · split <;> exact h.fabricOutcome.elemDone
  · exact h

theorem Kept.watchExpires (h : Kept s0 s) {rid} : Kept s0 (s.watchExpires rid) := by
  unfold State.watchExpires
  dsimp only
  split
  · exact h
  · split
    · refine Kept.ite h ?_
      refine Kept.ite h.elemDone ?_
      split
      · exact Kept.ite ((h.devRead.fst ‹_›).upd.respond) ((h.devRead.fst ‹_›).elemDone)
      · exact (h.devRead.fst ‹_›).elemDone
    · exact h

/-! ## Copy requests -/

theorem Kept.enterCopy (h : Kept s0 s) {c r} : KeptSome s0 (s.enterCopy c r) := by
  unfold State.enterCopy
  dsimp only
  split
  · exact trivial
  · exact h.upd.onJob

theorem Kept.putCopy (h : Kept s0 s) {x} : Kept s0 (s.putCopy x) := h

theorem Kept.endCopy (h : Kept s0 s) {x code poison} : Kept s0 (s.endCopy x code poison) := by
  unfold State.endCopy
  exact h.upd.answerStatus

theorem Kept.freezeCopy (h : Kept s0 s) {x va acc f} : Kept s0 (s.freezeCopy x va acc f) := by
  unfold State.freezeCopy
  dsimp only
  exact h.absentFault.putCopy

theorem Kept.readCopy (h : Kept s0 s) {x} : (s.readCopy x).Keeps s0 := by
  unfold State.readCopy
  dsimp only
  split
  · exact (h.engine.wait ‹_›).putCopy
  · exact h.freezeCopy
  · split
    · exact (h.engine.done ‹_›).putCopy
    · exact (h.engine.done ‹_›).endCopy

theorem Kept.checkCopy (h : Kept s0 s) {x} : (s.checkCopy x).Keeps s0 := by
  unfold State.checkCopy
  dsimp only
  split
  · exact h.endCopy
  · split
    · exact h.nextFault.queueFault.endCopy
    · exact h

theorem Kept.writeCopy (h : Kept s0 s) {x g} : (s.writeCopy x g).Keeps s0 := by
  unfold State.writeCopy
  dsimp only
  split
  · split <;> exact h
  · split
    · show Kept s0 _
      refine Kept.putCopy ?_
      refine (Kept.engine ?_).wait ‹_›
      split
      · exact h
      · exact h.drawMany
    · exact h.freezeCopy
    · show Kept s0 _
      refine (Kept.engine ?_).done ‹_›
      split
      · exact h
      · exact h.drawMany

theorem Kept.copyUnit (h : Kept s0 s) {x} : (s.copyUnit x).Keeps s0 := by
  unfold State.copyUnit
  dsimp only
  split
  · split
    · exact (h.writeCopy.go ‹_›).dropOwner.dropOwner
    · exact h.writeCopy.stop ‹_›
  · split
    · exact h.freezeCopy
    · split
      · exact (h.engine.wait ‹_›).putCopy
      · exact h.freezeCopy
      · split
        · exact ((h.engine.done ‹_›).writeCopy.go ‹_›).dropOwner.dropOwner
        · exact (h.engine.done ‹_›).writeCopy.stop ‹_›

theorem Kept.copyEarly (h : Kept s0 s) {x k write} : Kept s0 (s.copyEarly x k write) := by
  unfold State.copyEarly
  dsimp only
  refine Kept.ite h ?_
  refine Kept.ite h.performEarly ?_
  split
  · refine Kept.ite h ?_
    refine Kept.performEarly ?_
    split
    · exact h
    · exact h.drawMany
  · exact h

theorem Kept.requestEarly (h : Kept s0 s) {x k} : Kept s0 (s.requestEarly x k) := by
  unfold State.requestEarly
  dsimp only
  split
  · exact h.performEarly
  · exact h

theorem Kept.copyUnits {s : State} (h : Kept s0 s) {x a} : (s.copyUnits x a).Keeps s0 := by
  cases a with
  | zero =>
    unfold State.copyUnits
    exact h
  | succ n =>
    unfold State.copyUnits
    split
    · exact h
    · split
      · exact (h.copyUnit.go ‹_›).putCopy.copyUnits
      · exact h.copyUnit.stop ‹_›

theorem Kept.markCopied (h : Kept s0 s) {x} : Kept s0 (s.markCopied x) := by
  unfold State.markCopied
  exact Kept.foldl h fun ht => ht.writePoison

theorem Kept.stampCopy (h : Kept s0 s) {x} : Kept s0 (s.stampCopy x) := by
  unfold State.stampCopy
  dsimp only
  refine Kept.ite ?_ h.endCopy
  split
  · exact (h.engine.wait ‹_›).putCopy
  · exact h.freezeCopy
  · exact Kept.ite ((h.engine.done ‹_›).endCopy) ((h.engine.done ‹_›).endCopy)

theorem Kept.runCopy (h : Kept s0 s) {x} : Kept s0 (s.runCopy x) := by
  unfold State.runCopy
  split
  · exact h.copyUnits.stop ‹_›
  · exact (h.copyUnits.go ‹_›).markCopied.stampCopy

theorem Kept.copyHead (h : Kept s0 s) {die j q} : Kept s0 (s.copyHead die j q) := by
  unfold State.copyHead
  dsimp only
  split
  · exact h
  · split
    · refine CopyStep.Keeps.stop ?_ ‹_›
      split
      · exact h
      · exact h.readCopy
    · split
      · refine (Kept.checkCopy ?_).stop ‹_›
        refine CopyStep.Keeps.go ?_ ‹_›
        split
        · exact h
        · exact h.readCopy
      · refine Kept.runCopy ?_
        refine (Kept.checkCopy ?_).go ‹_›
        refine CopyStep.Keeps.go ?_ ‹_›
        split
        · exact h
        · exact h.readCopy

theorem Kept.copySome (h : Kept s0 s) {die j q units} : Kept s0 (s.copySome die j q units) := by
  unfold State.copySome
  split
  · exact h
  · exact Kept.ite (Kept.foldl h fun ht => ht.requestEarly) (Kept.ite h (Kept.foldl h fun ht => ht.copyEarly))

end Sys2Proof.Machine
end


section
/-! What the routing engines, the commit of a firing, the issue of a word and the clocks keep. -/

namespace Sys2Proof.Machine

-- These proofs are many and short: elaborated one after another they take less memory than side by side.
set_option Elab.async false

variable {s0 s t : State}

/-! ## Routing -/

theorem Kept.onPart (h : Kept s0 s) {x f} : Kept s0 (s.onPart x f) := h

theorem Kept.dropRoute (h : Kept s0 s) {w} : Kept s0 (s.dropRoute w) := by
  unfold State.dropRoute
  dsimp only
  split
  · exact h.upd.dropWork.progress
  · exact h.upd.dropWork

theorem Kept.endForm (h : Kept s0 s) {w r code poison} : Kept s0 (s.endForm w r code poison) := by
  unfold State.endForm
  exact h.dropRoute.answerStatus

theorem Kept.performRows {s : State} (h : Kept s0 s) {w inst rowOf a} : Kept s0 (s.performRows w inst rowOf a).1 := by
  cases a with
  | nil =>
    exact h
  | cons a l =>
    unfold State.performRows
    dsimp only
    exact h.perform1.performRows

theorem Kept.eccAt (h : Kept s0 s) {j u ecc} : Kept s0 (s.eccAt j u ecc) := by
  unfold State.eccAt
  split
  · split
    · exact h.hbmEcc
    · exact h
  · exact h

theorem Kept.oneUnit (h : Kept s0 s) {w inst rowOf n ecc us} : KeptSome s0 (s.oneUnit w inst rowOf n ecc us) := by
  unfold State.oneUnit
  dsimp only
  split
  · exact trivial
  · split
    · exact h.eccAt.performEarly
    · exact trivial

theorem Kept.withUnits (h : Kept s0 s) {w inst rowOf us k} (hk :
    ∀ {t gs}, Kept s0 t → Kept s0 (k t gs)) : Kept s0 (s.withUnits w inst rowOf us k) := by
  unfold State.withUnits
  dsimp only
  split
  · refine KeptSome.some ?_ ‹_›
    exact KeptSome.bind_of (h.oneUnit)
  · split
    · exact h.prepare.wait ‹_›
    · exact h.absentFault.upd
    · exact hk h.performRows.keepUnits

theorem Kept.withRead (h : Kept s0 s) {w inst va n k} (hk : ∀ {t g}, Kept s0 t → Kept s0 (k t g)) :
    Kept s0 (s.withRead w inst va n k) := by
  unfold State.withRead
  exact Kept.withUnits h fun ht => (hk ht)

theorem Kept.openPart (h : Kept s0 s) {w r d p gen bias poison} : Kept s0 (s.openPart w r d p gen bias poison) := by
  unfold State.openPart
  dsimp only
  exact Kept.ite h.upd.onJob.endForm h.upd.onJob.endForm.releaseCredits

theorem Kept.ropenTry (h : Kept s0 s) {w r} : Kept s0 (s.ropenTry w r) := by
  unfold State.ropenTry
  dsimp only
  refine Kept.ite h.endForm ?_
  refine Kept.withRead h fun ht => ?_
  split
  · exact ht.endForm
  · split
    · exact ht.endForm
    · refine Kept.ite ht.endForm ?_
      refine Kept.ite ht ?_
      refine Kept.ite ht.openPart ?_
      refine Kept.withRead ht fun ht => ?_
      split
      · exact ht.endForm
      · refine Kept.withRead ht fun ht => ?_
        split
        · exact ht.endForm
        · exact Kept.ite (Kept.withUnits ht fun ht => ht.openPart) ht.openPart

theorem Kept.selectRow (h : Kept s0 s) {x i codes} : Kept s0 (s.selectRow x i codes) := by
  unfold State.selectRow
  dsimp only
  exact Kept.foldl h.onPart fun ht => ht.toPart

theorem Kept.selectRows {s : State} (h : Kept s0 s) {x a a2} : Kept s0 (s.selectRows x a a2) := by
  cases a2 with
  | nil =>
    exact h
  | cons a l =>
    unfold State.selectRows
    dsimp only
    exact Kept.selectRows (Kept.ite h.onPart h.selectRow)

theorem Kept.rselTry (h : Kept s0 s) {w r} : Kept s0 (s.rselTry w r) := by
  unfold State.rselTry
  dsimp only
  split
  · exact h.dropRoute
  · split
    · exact h.onCore.endForm
    · exact Kept.ite h.onCore.endForm (Kept.ite h (Kept.ite h.onCore.endForm
        (Kept.ite (Kept.withUnits h.onCore fun ht => ht.onPart.onCore.endForm) h.onCore.selectRows.onCore.endForm)))

theorem Kept.takeSelection (h : Kept s0 s) {rec_} : Kept s0 (s.takeSelection rec_).1 := by
  unfold State.takeSelection
  dsimp only
  split
  · exact h
  · exact Kept.ite_fst h h.onPart

theorem Kept.assignPart (h : Kept s0 s) {x} : Kept s0 (s.assignPart x) := by
  unfold State.assignPart
  dsimp only
  exact Kept.ite h.onPart (Kept.foldl (Kept.foldl h.onPart fun ht => ht.toPart) fun ht => ht.toPart)

theorem Kept.takeEndMark (h : Kept s0 s) {rec_} : Kept s0 (s.takeEndMark rec_).1 := by
  unfold State.takeEndMark
  dsimp only
  split
  · exact h
  · dsimp only
    exact Kept.ite h.onPart.assignPart h.onPart

theorem Kept.countedTry (h : Kept s0 s) {w x} : Kept s0 (s.countedTry w x) := by
  unfold State.countedTry
  dsimp only
  refine Kept.withUnits h fun ht => ?_
  split
  · exact Kept.answerStatus (Kept.dropRoute (Kept.onPart (Kept.ite ht.setVars ht)))
  · exact Kept.dropRoute (Kept.onPart (Kept.ite ht.setVars ht))

theorem Kept.partTakes (h : Kept s0 s) {x f} : Kept s0 (s.partTakes x f) := by
  unfold State.partTakes
  exact h.onPart.progress

theorem Kept.takeReturn (h : Kept s0 s) {rec_} : Kept s0 (s.takeReturn rec_) := by
  unfold State.takeReturn
  dsimp only
  split
  · exact h.partTakes
  · exact h

theorem Kept.takeCounts (h : Kept s0 s) {rec_} : Kept s0 (s.takeCounts rec_) := by
  unfold State.takeCounts
  dsimp only
  split
  · exact h.partTakes
  · exact h

theorem Kept.sendRows {s : State} (h : Kept s0 s) {x units a a3} : Kept s0 (s.sendRows x units a a3) := by
  cases a with
  | nil =>
    exact h
  | cons a l =>
    unfold State.sendRows
    dsimp only
    exact h.upd.toPart.sendRows

theorem Kept.rrowTry (h : Kept s0 s) {w r} : Kept s0 (s.rrowTry w r) := by
  unfold State.rrowTry
  dsimp only
  split
  · exact h.endForm
  · exact Kept.ite h.endForm (Kept.ite h.endForm (Kept.ite h (Kept.withUnits h fun ht =>
      (Kept.ite ht.endForm ht.onPart.dropRoute.sendRows))))

theorem Kept.rowTry (h : Kept s0 s) {w rec_} : Kept s0 (s.rowTry w rec_) := by
  unfold State.rowTry
  dsimp only
  split
  · exact h.dropRoute
  · exact Kept.withUnits h fun ht => ht.dropRoute.sendRec

theorem Kept.takeAck (h : Kept s0 s) {rec_} : Kept s0 (s.takeAck rec_) := by
  unfold State.takeAck
  dsimp only
  split
  · exact h
  · split
    · exact h
    · exact Kept.ite h.partTakes.answerStatus h.partTakes

theorem Kept.finalTry (h : Kept s0 s) {w x} : Kept s0 (s.finalTry w x) := by
  unfold State.finalTry
  dsimp only
  refine Kept.withUnits h fun ht => ?_
  split
  · exact ht.dropRoute.upd.answerStatus
  · exact ht.dropRoute.upd

theorem Kept.takeRelease (h : Kept s0 s) {rec_} : Kept s0 (s.takeRelease rec_) := by
  unfold State.takeRelease
  dsimp only
  refine Kept.foldl h.upd fun ht => ?_
  refine Kept.foldl ?_ fun ht => ht.answerStatus
  split
  · exact ht.answerStatus
  · exact ht

theorem Kept.rbiasTry (h : Kept s0 s) {w r} : Kept s0 (s.rbiasTry w r) := by
  unfold State.rbiasTry
  dsimp only
  split
  · exact h.endForm
  · refine Kept.ite h.endForm ?_
    refine Kept.ite h.endForm ?_
    refine Kept.withRead h fun ht => ?_
    split
    · exact ht.endForm
    · refine Kept.withRead ht fun ht => ?_
      split
      · exact ht.endForm
      · exact Kept.withUnits ht fun ht => ht.endForm

theorem Kept.rstatTry (h : Kept s0 s) {w r} : Kept s0 (s.rstatTry w r) := by
  unfold State.rstatTry
  exact h.dropRoute.answer

theorem Kept.rcloseSelTry (h : Kept s0 s) {w r} : Kept s0 (s.rcloseSelTry w r) := by
  unfold State.rcloseSelTry
  dsimp only
  split
  · exact h.endForm
  · exact Kept.ite h.endForm (Kept.foldl h.dropRoute.onPart fun ht => ht.toPart)

theorem Kept.rcloseFinTry (h : Kept s0 s) {w r} : Kept s0 (s.rcloseFinTry w r) := by
  unfold State.rcloseFinTry
  dsimp only
  split
  · exact h.endForm
  · exact Kept.ite h.endForm (Kept.foldl h.dropRoute.onPart fun ht => ht.toPart)

theorem Kept.takeFinal (h : Kept s0 s) {rec_} : Kept s0 (s.takeFinal rec_) := by
  unfold State.takeFinal
  dsimp only
  split
  · exact h.partTakes
  · exact h

theorem Kept.askRows {s : State} (h : Kept s0 s) {w n a a3} : Kept s0 (s.askRows w n a a3).1 := by
  cases a with
  | nil =>
    exact h
  | cons a l =>
    unfold State.askRows
    dsimp only
    split
    · exact h.askRows
    · exact h.fresh.upd.sendRec.askRows

theorem Kept.rcombTry (h : Kept s0 s) {w r} : Kept s0 (s.rcombTry w r) := by
  unfold State.rcombTry
  dsimp only
  refine Kept.ite h.endForm ?_
  refine Kept.withRead h fun ht => ?_
  split
  · exact ht.endForm
  · refine Kept.ite ht.endForm ?_
    refine Kept.withRead ht fun ht => ?_
    split
    · exact ht.endForm
    · exact Kept.ite ht.endForm (Kept.ite ht.endForm (Kept.withUnits ht fun ht =>
        (Kept.ite ht.upd.askRows (Kept.withUnits ht.upd.askRows fun ht => (Kept.withUnits ht fun ht => ht.endForm)))))

theorem Kept.outRowTry (h : Kept s0 s) {w rec_} : Kept s0 (s.outRowTry w rec_) := by
  unfold State.outRowTry
  dsimp only
  exact Kept.withUnits h fun ht => ht.upd.dropRoute.sendRec

theorem Kept.routeTry (h : Kept s0 s) {w} : Kept s0 (s.routeTry w) := by
  unfold State.routeTry
  split
  · split
    · exact h.ropenTry
    · exact h.rselTry
    · exact h.rrowTry
    · exact h.rcloseSelTry
    · exact h.rcloseFinTry
    · exact h.rcombTry
    · exact h.rbiasTry
    · exact h.rstatTry
    · exact h.dropRoute
  · split
    · split
      · exact (h.takeSelection.fst ‹_›).dropRoute
      · exact h
    · split
      · exact (h.takeEndMark.fst ‹_›).dropRoute
      · exact h
    · exact h.rowTry
    · exact h.outRowTry
    · exact h.dropRoute
  · split
    · exact h.countedTry
    · exact h.dropRoute
  · split
    · exact h.finalTry
    · exact h.dropRoute

theorem Kept.routeStep (h : Kept s0 s) {id} : Kept s0 (s.routeStep id) := by
  unfold State.routeStep
  split
  · exact h
  · exact Kept.ite h h.routeTry

theorem Kept.pushRoute (h : Kept s0 s) {die job batch what} : Kept s0 (s.pushRoute die job batch what) := by
  unfold State.pushRoute
  dsimp only
  exact h.fresh.upd.routeStep

theorem Kept.closeParts (h : Kept s0 s) : Kept s0 (s.closeParts) := by
  unfold State.closeParts
  exact Kept.foldl h fun ht => (Kept.ite ht (Kept.ite ht.pushRoute (Kept.ite ht.pushRoute ht)))

theorem Kept.routeRun (h : Kept s0 s) : Kept s0 (s.routeRun) := by
  unfold State.routeRun
  exact Kept.closeParts (Kept.foldl h fun ht => ht.routeStep)

theorem Kept.performRoute (h : Kept s0 s) {id n ecc} : Kept s0 (s.performRoute id n ecc) := by
  unfold State.performRoute
  split
  · exact h
  · exact Kept.ite h h.routeTry.closeParts

theorem Kept.acceptRoute (h : Kept s0 s) {c r} : Kept s0 (s.acceptRoute c r) := by
  unfold State.acceptRoute
  exact h.pushRoute.closeParts

theorem Kept.fabricAnswer (h : Kept s0 s) {rid status bs} : Kept s0 (s.fabricAnswer rid status bs) := h

theorem Kept.routeRecord (h : Kept s0 s) {b} : Kept s0 (s.routeRecord b) := by
  unfold State.routeRecord
  refine Kept.ite h ?_
  refine Kept.routeRun ?_
  split
  · exact h.pushRoute
  · exact h.pushRoute
  · exact h.pushRoute
  · exact h.takeReturn
  · exact h.takeCounts
  · exact h.takeAck
  · exact h.takeFinal
  · exact h.pushRoute
  · exact h.fabricAnswer
  · exact h.takeRelease
  · exact h

/-! ## System requests -/

theorem Kept.acceptFalloc (h : Kept s0 s) {r} : Kept s0 (s.acceptFalloc r) := by
  unfold State.acceptFalloc
  split
  · exact h.onCore
  · exact h

theorem Kept.acceptFfree (h : Kept s0 s) {c r} : Kept s0 (s.acceptFfree c r) := by
  unfold State.acceptFfree
  dsimp only
  refine Kept.ite h.endFrame ?_
  split
  · exact h.upd
  · exact h.wallDrop

theorem Kept.acceptCancel (h : Kept s0 s) {r phase} : Kept s0 (s.acceptCancel r phase) := by
  unfold State.acceptCancel
  dsimp only
  refine Kept.ite h.cancelPhase.settle ?_
  split
  · exact Kept.ite h.cancelInst.settle h
  · exact h

theorem Kept.acceptSvwr (h : Kept s0 s) {r} : Kept s0 (s.acceptSvwr r) := h.sendVar

theorem Kept.acceptTick (h : Kept s0 s) {r} : Kept s0 (s.acceptTick r) := by
  unfold State.acceptTick
  exact Kept.ite h.answer h.onJob

theorem Kept.beginWake (h : Kept s0 s) {r} : Kept s0 (s.beginWake r) := by
  unfold State.beginWake
  exact Kept.ite h h.upd

theorem Kept.acceptExpo (h : Kept s0 s) {r} : Kept s0 (s.acceptExpo r) := by
  unfold State.acceptExpo
  dsimp only
  exact Kept.ite (Kept.answer (Kept.foldl h.onJob fun ht => ht.beginWake)) (Kept.onJob (Kept.foldl h.onJob fun ht => ht.beginWake))

theorem Kept.answerExpos (h : Kept s0 s) : Kept s0 (s.answerExpos) := by
  unfold State.answerExpos
  dsimp only
  exact Kept.foldl h fun ht => (Kept.onJob (Kept.foldl ht fun ht => ht.answer))

theorem Kept.placeCounter (h : Kept s0 s) {c r shadow} : Kept s0 (s.placeCounter c r shadow) := by
  unfold State.placeCounter
  dsimp only
  split
  · exact h.letIn.fst ‹_›
  · exact (h.letIn.fst ‹_›).deliver

theorem Kept.acceptGdone (h : Kept s0 s) {c r} : Kept s0 (s.acceptGdone c r) := by
  unfold State.acceptGdone
  dsimp only
  exact Kept.foldl h.setCore fun ht => ht.stealAnswer

theorem Kept.sendSteal (h : Kept s0 s) {c jc j inst victim reply poison} : Kept s0 (s.sendSteal c jc j inst victim reply poison) := by
  unfold State.sendSteal
  dsimp only
  refine Kept.ite h.sendToken ?_
  split
  · exact h.wallDrop
  · exact Kept.ite h.upd h.upd.countSent

theorem Kept.takeSteal (h : Kept s0 s) {c jc j inst reply poison} : Kept s0 (s.takeSteal c jc j inst reply poison) := by
  unfold State.takeSteal
  dsimp only
  exact Kept.ite h.stealAnswer (Kept.ite h.stealAnswer h.fresh.onCore)

theorem Kept.performRequest (h : Kept s0 s) {c r} : KeptSome s0 (s.performRequest c r) := by
  unfold State.performRequest
  split
  · exact h.enterCopy
  · exact h.enterCopy
  · exact h.acceptMma
  · exact h.acceptMma
  · exact h.acceptMma
  · exact h.acceptMma
  · exact h.contribute
  · exact h.contribute
  · exact h.acceptWgo
  · exact h.acceptWpar
  · exact h.acceptWstop
  · exact h.acceptWstat
  · exact h.acceptRoute
  · exact h.acceptRoute
  · exact h.acceptRoute
  · exact h.acceptRoute
  · exact h.acceptRoute
  · exact h.acceptRoute
  · exact h.acceptRoute
  · exact h.acceptRoute
  · exact h.acceptFalloc
  · exact h.acceptFfree
  · exact h.acceptCancel
  · exact h.acceptGdone
  · exact h.acceptSvwr
  · exact h.acceptTick
  · exact h.acceptExpo
  · exact Kept.ite h.onCore h
  · split
    · exact h.acceptTile
    · exact h.enterMem
    · exact h

theorem Kept.performShadow (h : Kept s0 s) {c r} : KeptSome s0 (s.performShadow c r) := by
  unfold State.performShadow
  split
  · exact h.performRequest
  · exact h.performRequest
  · exact h.performRequest
  · refine KeptSome.map ?_ fun ht => ht.answerCtrl
    split
    · exact h.contribute
    · exact h
  · refine KeptSome.map ?_ fun ht => ht.answerCtrl
    split
    · exact h.contribute
    · exact h
  · exact Kept.ite h.answerCtrl h

/-! ## Commit -/

theorem Kept.enterCommit (h : Kept s0 s) {c l} : Kept s0 (s.enterCommit c l).1 := by
  unfold State.enterCommit
  dsimp only
  exact h.setCore

theorem Kept.stepRequests {s : State} (h : Kept s0 s) {c shadow a} : Kept s0 (s.stepRequests c shadow a).1 := by
  cases a with
  | nil =>
    exact h
  | cons a l =>
    unfold State.stepRequests
    dsimp only
    split
    · refine Kept.stepRequests ?_
      refine KeptSome.some ?_ ‹_›
      split
      · exact h.fresh.performShadow
      · exact h.fresh.performRequest
    · exact h

theorem Kept.stepSend (h : Kept s0 s) {c l x} : Kept s0 (s.stepSend c l x) := by
  unfold State.stepSend
  dsimp only
  split
  · exact h.sendToken
  · exact h.sendSteal
  · exact h.onCore.sendToken
  · exact h

theorem Kept.stepCounter (h : Kept s0 s) {c l x} : Kept s0 (s.stepCounter c l x) := by
  unfold State.stepCounter
  split
  · exact h.placeCounter
  · exact h

theorem Kept.finishCommit (h : Kept s0 s) {c l} : Kept s0 (s.finishCommit c l) := by
  unfold State.finishCommit
  dsimp only
  exact Kept.onCore (Kept.foldl (Kept.foldl h fun ht => ht.stepSend) fun ht => ht.stepCounter)

theorem Kept.commitLane (h : Kept s0 s) {c l} : Kept s0 (s.commitLane c l).1 := by
  unfold State.commitLane
  dsimp only
  split
  · dsimp only
    refine Kept.fst ?_ ‹_›
    split
    · exact h
    · split
      · exact h.takeTrap
      · dsimp only
        exact Kept.progress (Kept.count (Kept.enterCommit (Kept.ite h.onInst.count h)))
  · split
    · dsimp only
      refine Kept.finishCommit (Kept.stepRequests (Kept.fst ?_ ‹_›))
      split
      · exact h
      · split
        · exact h.takeTrap
        · dsimp only
          exact Kept.progress (Kept.count (Kept.enterCommit (Kept.ite h.onInst.count h)))
    · dsimp only
      refine Kept.stepRequests (Kept.fst ?_ ‹_›)
      split
      · exact h
      · split
        · exact h.takeTrap
        · dsimp only
          exact Kept.progress (Kept.count (Kept.enterCommit (Kept.ite h.onInst.count h)))

theorem Kept.commitLanes {s : State} (h : Kept s0 s) {c a a2} : Kept s0 (s.commitLanes c a a2).1 := by
  cases a with
  | nil =>
    exact h
  | cons a l =>
    unfold State.commitLanes
    dsimp only
    split
    · exact h.commitLanes
    · split
      · exact h.commitLanes
      · split
        · exact (h.commitLane.fst ‹_›).commitLanes
        · exact h.commitLane.fst ‹_›

theorem Kept.commitGroups {s : State} (h : Kept s0 s) {c a a2} : Kept s0 (s.commitGroups c a a2).1 := by
  cases a with
  | nil =>
    exact h
  | cons a l =>
    unfold State.commitGroups
    dsimp only
    exact h.commitLanes.commitGroups

theorem Kept.resumeCommits (h : Kept s0 s) {c} : Kept s0 (s.resumeCommits c) := by
  unfold State.resumeCommits
  dsimp only
  exact h.onCore.commitGroups.onCore.stopLanes

/-! ## Issue -/

theorem Kept.fire (h : Kept s0 s) {c l} : Kept s0 (s.fire c l) := by
  unfold State.fire
  exact h.onCore.upd

theorem Kept.mergeFire (h : Kept s0 s) {c m k} : Kept s0 (s.mergeFire c m k) := by
  unfold State.mergeFire
  dsimp only
  exact Kept.ite h.setCore.fire h.setCore.fire

theorem Kept.matchTaken (h : Kept s0 s) {c m} : Kept s0 (s.matchTaken c m) := by
  unfold State.matchTaken
  dsimp only
  split
  · exact h.fire
  · exact Kept.ite h.setCore h.setCore.fire
  · exact Kept.ite h.fire (Kept.ite h.setCore h.setCore)
  · exact Kept.ite h.mergeFire h.setCore

theorem Kept.matchTrap (h : Kept s0 s) {c t' trap index word} : Kept s0 (s.matchTrap c t' trap index word) := h.takeTrap

theorem Kept.matchJob (h : Kept s0 s) {c j} : KeptSome s0 (s.matchJob c j) := by
  unfold State.matchJob
  dsimp only
  split
  · exact h.mergeFire
  · split
    · exact trivial
    · split
      · exact h.onCore.matchTaken
      · exact h.onCore.matchTrap
      · exact trivial

theorem Kept.passOver (h : Kept s0 s) {c j} : Kept s0 (s.passOver c j) := h.onCore

theorem Kept.matchFrom {s : State} (h : Kept s0 s) {c a} : Kept s0 (s.matchFrom c a) := by
  cases a with
  | nil =>
    exact h
  | cons a l =>
    unfold State.matchFrom
    split
    · exact h.matchJob.some ‹_›
    · exact h.passOver.matchFrom

theorem Kept.matchNext (h : Kept s0 s) {c} : Kept s0 (s.matchNext c) := by
  unfold State.matchNext
  dsimp only
  exact Kept.ite h h.matchFrom

theorem Kept.formGroup (h : Kept s0 s) {c j} : Kept s0 (s.formGroup c j) := by
  unfold State.formGroup
  dsimp only
  split
  · exact h.setCore
  · exact h

theorem Kept.chooseIssue (h : Kept s0 s) {c} : Kept s0 (s.chooseIssue c) := by
  unfold State.chooseIssue
  dsimp only
  split
  · exact h.resumeCommits.routeRun
  · split
    · exact h.resumeCommits.routeRun.upd
    · exact h.resumeCommits.routeRun.formGroup.upd

theorem Kept.setLane (h : Kept s0 s) {c g n l} : Kept s0 (s.setLane c g n l) := h.onCore

theorem Kept.runLane (h : Kept s0 s) {c g index word body bad f n} (hf : LaneFn.Keeps f) :
    Kept s0 (s.runLane c g index word body bad f n) := by
  unfold State.runLane
  dsimp only
  split
  · exact h
  · refine Kept.ite h ?_
    refine Kept.ite h.setLane ?_
    refine Kept.ite h.setLane ?_
    split
    · next e => exact Kept.setLane (hf _ _ _ _ _ h e)
    · exact h.takeTrap.setLane

theorem Kept.endWord (h : Kept s0 s) {c g last} : Kept s0 (s.endWord c g last) := by
  unfold State.endWord
  split
  · exact h
  · exact Kept.ite h.onCore (Kept.ite h.onCore.resumeCommits h.onCore)

theorem Kept.issueWord (h : Kept s0 s) {b f} (hf : LaneFn.Keeps f) : Kept s0 (issueWord b f s) := by
  unfold Machine.issueWord
  dsimp only
  split
  · exact h
  · split
    · exact h.upd
    · exact Kept.endWord (Kept.foldl h.upd.onCore fun ht => ht.runLane hf)

theorem Kept.word (h : Kept s0 s) {b f} (hf : LaneFn.Keeps f) : KeptNext s0 (word b f s) := h.issueWord hf

/-! ## Cancellation at a core -/

theorem Kept.discardFiring (h : Kept s0 s) {c l} : Kept s0 (s.discardFiring c l) := by
  unfold State.discardFiring
  exact h.onCore.releaseInputs.count

theorem Kept.discardFirings (h : Kept s0 s) {c p} : Kept s0 (s.discardFirings c p) := by
  unfold State.discardFirings
  dsimp only
  exact Kept.foldl h.setCore fun ht => ht.discardFiring

theorem Kept.stopWalker (h : Kept s0 s) {c w} : Kept s0 (s.stopWalker c w) := by
  unfold State.stopWalker
  exact h.onCore.leaveWalkerWork.onWalker.leaveFault

theorem Kept.leaveLoads (h : Kept s0 s) {rid} : Kept s0 (s.leaveLoads rid) := h

theorem Kept.cancelMem (h : Kept s0 s) {c m left} : Kept s0 (s.cancelMem c m left) := by
  unfold State.cancelMem
  dsimp only
  exact Kept.ite h.leaveLoads.upd h.leaveLoads.upd.onCore

theorem Kept.cancelMems (h : Kept s0 s) {c p} : Kept s0 (s.cancelMems c p) := by
  unfold State.cancelMems
  exact Kept.endRecords (Kept.foldl h fun ht => ht.cancelMem)

theorem Kept.giveUpCopy (h : Kept s0 s) {x} : Kept s0 (s.giveUpCopy x) := by
  unfold State.giveUpCopy
  dsimp only
  split
  · exact Kept.ite h.upd.leaveWork.leaveFault h.upd
  · exact h.upd

theorem Kept.cancelRoute (h : Kept s0 s) {c w} : Kept s0 (s.cancelRoute c w) := by
  unfold State.cancelRoute
  dsimp only
  split
  · exact h.leaveWork.dropRoute.leaveFault.onCore
  · exact h.leaveWork.dropRoute.leaveFault

theorem Kept.cancelAt (h : Kept s0 s) {j i c} : Kept s0 (s.cancelAt j i c) := by
  unfold State.cancelAt
  dsimp only
  refine Kept.resumeCommits (Kept.onInst ?_)
  refine Kept.upd (s := State.onJob _ _ _) ?_
  exact Kept.onJob (Kept.foldl (Kept.foldl (Kept.flushDie (Kept.cancelMems
    (Kept.foldl h.discardFirings.setCore fun ht => ht.stopWalker))) fun ht => ht.giveUpCopy) fun ht => ht.cancelRoute)

/-! ## Clocks -/

theorem Kept.countClocks (h : Kept s0 s) {c j n} : Kept s0 (s.countClocks c j n) := by
  unfold State.countClocks
  dsimp only
  exact (Kept.ite_fst h.draw h).onCore

theorem Kept.countCore (h : Kept s0 s) {n c} : Kept s0 (s.countCore n c) := by
  unfold State.countCore
  dsimp only
  exact Kept.foldl h fun ht => ht.countClocks

theorem Kept.holdTimers (h : Kept s0 s) {n} : Kept s0 (s.holdTimers n) := h

theorem foldl_getLsbD {f : BitVec 64 → Nat → BitVec 64} {i : Nat} (hf : ∀ x k, x.getLsbD i = true → (f x k).getLsbD i = true)
    (l : List Nat) {x : BitVec 64} (h : x.getLsbD i = true) : (l.foldl f x).getLsbD i = true := by
  induction l generalizing x with
  | nil => exact h
  | cons k l ih => exact ih (hf x k h)

/-- Blowing fuses clears none. -/
theorem blowTo_keeps {n i : Nat} {f : BitVec 64} (h : f.getLsbD i = true) : (blowTo n f).getLsbD i = true := by
  refine foldl_getLsbD (fun x k hx => ?_) _ h
  split
  · rw [BitVec.getLsbD_or, hx, Bool.true_or]
  · exact hx

theorem Kept.commitSome (h : Kept s0 s) : Kept s0 (s.commitSome) := by
  unfold State.commitSome
  split
  · exact h
  · refine KeptParts.mk h.mem h.hostMem (fun i hi => ?_) h.revoked
    dsimp only [State.draw]
    exact blowTo_keeps (h.fuses i hi)

theorem Kept.tick (h : Kept s0 s) {n} : Kept s0 (s.tick n) := by
  unfold State.tick
  dsimp only
  refine Kept.ite h ?_
  refine Kept.upd (s := List.foldl _ _ _) ?_
  exact Kept.foldl h.holdTimers.commitSome fun ht => ht.countCore

theorem Memory.wf_foldl_set {l : List (Nat × Byte)} {m : Memory} {base : Nat} (h : Memory.wf m = true) :
    Memory.wf (l.foldl (fun m p => Memory.set m (base + p.1) p.2) m) = true := by
  induction l generalizing m with
  | nil => exact h
  | cons p l ih => exact ih (Memory.wf_set m _ _ h)

theorem Kept.hostWrites (h : Kept s0 s) {bytes} : Kept s0 (s.hostWrites bytes) := by
  refine h.of_mem id (fun hh => ?_) rfl
  have := Memory.wf_foldl_set (l := bytes) (base := 0) hh
  simp only [Nat.zero_add] at this
  exact this

end Sys2Proof.Machine
end


section
/-! What the events of cores, memory and the scheduler keep. -/

namespace Sys2Proof.Machine

-- These proofs are many and short: elaborated one after another they take less memory than side by side.
set_option Elab.async false

variable {s0 s t : State}

/-! ## Events of a core -/

theorem Kept.powered (h : Kept s0 s) {f} (hf : ∀ {t}, Kept s0 t → Kept s0 (f t)) : KeptNext s0 (s.powered f) := by
  unfold State.powered
  exact Kept.ite (hf h) h

theorem Kept.takeMesh (h : Kept s0 s) {i} : KeptItem s0 (s.takeMesh i) := by
  unfold State.takeMesh
  split
  · exact trivial
  · split
    · exact trivial
    · exact h.upd

theorem Kept.received (h : Kept s0 s) {x inst} : Kept s0 (s.received x inst) := by
  unfold State.received
  exact Kept.ite h.countReceived h

theorem Kept.arrive (h : Kept s0 s) {i} : Kept s0 (s.arrive i) := by
  unfold State.arrive
  split
  · have h1 := h.takeMesh.some ‹_›
    split
    · split
      · refine Kept.ite ?_ h1.wallDrop.received
        refine Kept.ite h ?_
        split
        · refine Kept.progress (Kept.received (Kept.fst ?_ ‹_›))
          exact Kept.ite_fst h1 h1.spillTo
        · refine Kept.upd (Kept.fst ?_ ‹_›)
          exact Kept.ite_fst h1 h1.spillTo
      · refine Kept.ite h1.releaseTokenAt.received ?_
        split
        · exact (h1.letIn.fst ‹_›).received.progress
        · exact (h1.letIn.fst ‹_›).upd
    · exact h1.takeVar
    · exact h
  · exact h

theorem Kept.execTokenArrival (h : Kept s0 s) {i} : KeptNext s0 (execTokenArrival i s) := by
  unfold Machine.execTokenArrival
  exact Kept.powered h fun ht => ht.arrive

theorem Kept.execMatchToken (h : Kept s0 s) {core} : KeptNext s0 (execMatchToken core s) := by
  unfold Machine.execMatchToken
  exact Kept.powered h fun ht => ht.matchNext

theorem Kept.execFiringIssue (h : Kept s0 s) {core} : KeptNext s0 (execFiringIssue core s) := by
  unfold Machine.execFiringIssue
  exact Kept.ite h.chooseIssue h

theorem Kept.endRecovery (h : Kept s0 s) {c} : Kept s0 (s.endRecovery c) := by
  unfold State.endRecovery
  dsimp only
  split
  · exact h
  · exact Kept.ite h.onCore.rebuildSlots h

theorem Kept.execIssueRecoveryEnd (h : Kept s0 s) {core} : KeptNext s0 (execIssueRecoveryEnd core s) := by
  unfold Machine.execIssueRecoveryEnd
  exact Kept.powered h fun ht => ht.endRecovery

theorem Kept.execRateWindow (h : Kept s0 s) {core} : KeptNext s0 (execRateWindow core s) := by
  unfold Machine.execRateWindow
  exact Kept.powered h fun ht => (Kept.ite ht.onCore ht)

theorem Kept.spillAll {s : State} (h : Kept s0 s) {c j a} : Kept s0 (s.spillAll c j a).1 := by
  cases a with
  | nil =>
    exact h
  | cons a l =>
    unfold State.spillAll
    split
    · exact (h.spillToken.fst ‹_›).spillAll
    · exact h.spillToken.fst ‹_›

theorem Kept.spillNewest (h : Kept s0 s) {c j} : Kept s0 (s.spillNewest c j) := by
  unfold State.spillNewest
  dsimp only
  refine Kept.ite h ?_
  split
  · exact (h.spillAll.fst ‹_›).onCore
  · exact (h.spillAll.fst ‹_›).onCore.setCellar

theorem Kept.execSpill (h : Kept s0 s) {core job} : KeptNext s0 (execSpill core job s) := by
  unfold Machine.execSpill
  exact Kept.powered h fun ht => ht.spillNewest

theorem Kept.refilled (h : Kept s0 s) {c j t'} : Kept s0 (s.refilled c j t') := by
  unfold State.refilled
  dsimp only
  exact Kept.ite h.releaseTokenAt h.onCore

theorem Kept.refillFrom {s : State} (h : Kept s0 s) {c j a} : Kept s0 (s.refillFrom c j a) := by
  cases a with
  | zero =>
    exact h
  | succ n =>
    unfold State.refillFrom
    dsimp only
    refine Kept.ite h ?_
    refine Kept.ite h.setCellar.refillFrom ?_
    refine Kept.ite h ?_
    split
    · exact h.vread.fst ‹_›
    · split
      · exact (h.vread.fst ‹_›).dropOwner.setCellar.refilled.refillFrom
      · exact (h.vread.fst ‹_›).cancelJob
    · exact (h.vread.fst ‹_›).absentFault.setCellar
    · exact (h.vread.fst ‹_›).cancelJob

theorem Kept.execRefill (h : Kept s0 s) {core job} : KeptNext s0 (execRefill core job s) := by
  unfold Machine.execRefill
  exact Kept.powered h fun ht => (Kept.ite ht.refillFrom.onCore ht)

theorem Kept.serveFalloc (h : Kept s0 s) {c i base} : Kept s0 (s.serveFalloc c i base) := by
  unfold State.serveFalloc
  dsimp only
  split
  · exact h
  · refine Kept.ite h ?_
    split
    · exact h.setCore.answer
    · exact Kept.ite h.setCore.giveFrame.answer h

theorem Kept.execFallocRequest (h : Kept s0 s) {core i base} : KeptNext s0 (execFallocRequest core i base s) := by
  unfold Machine.execFallocRequest
  exact Kept.powered h fun ht => ht.serveFalloc

theorem Kept.arriveFfree (h : Kept s0 s) {i} : Kept s0 (s.arriveFfree i) := by
  unfold State.arriveFfree
  split
  · split
    · split
      · exact (h.takeMesh.some ‹_›).endFrame
      · exact h.takeMesh.some ‹_›
    · exact h
  · exact h

theorem Kept.execRemoteFfree (h : Kept s0 s) {i} : KeptNext s0 (execRemoteFfree i s) := by
  unfold Machine.execRemoteFfree
  exact Kept.powered h fun ht => ht.arriveFfree

theorem Kept.arriveSteal (h : Kept s0 s) {i} : Kept s0 (s.arriveSteal i) := by
  unfold State.arriveSteal
  dsimp only
  split
  · split
    · split
      · exact Kept.ite ((h.takeMesh.some ‹_›).received) ((h.takeMesh.some ‹_›).received.takeSteal.progress)
      · exact h.takeMesh.some ‹_›
    · exact h
  · exact h

theorem Kept.execStealRequestArrival (h : Kept s0 s) {i} : KeptNext s0 (execStealRequestArrival i s) := by
  unfold Machine.execStealRequestArrival
  exact Kept.powered h fun ht => ht.arriveSteal

theorem Kept.tileLeaves (h : Kept s0 s) {i} : Kept s0 (s.tileLeaves i) := by
  unfold State.tileLeaves
  dsimp only
  split
  · exact h
  · split
    · exact Kept.ite h (Kept.ite h.onCore.upd h.onCore.upd.sendRec)
    · exact h

theorem Kept.execTileLastByteLeft (h : Kept s0 s) {i} : KeptNext s0 (execTileLastByteLeft i s) := by
  unfold Machine.execTileLastByteLeft
  exact Kept.powered h fun ht => ht.tileLeaves

theorem Kept.awaitSpace (h : Kept s0 s) {i} : Kept s0 (s.awaitSpace i) := by
  unfold State.awaitSpace
  dsimp only
  split
  · exact Kept.ite h h.fresh.upd
  · exact h

theorem Kept.arriveTile (h : Kept s0 s) {i gs} : Kept s0 (s.arriveTile i gs) := by
  unfold State.arriveTile
  dsimp only
  split
  · split
    · refine Kept.ite ((h.takeMesh.some ‹_›).received) ?_
      refine Kept.ite h.awaitSpace ?_
      split
      · exact h.awaitSpace
      · split
        · exact ((h.takeMesh.some ‹_›).setCore.letIn.fst ‹_›).received.progress
        · exact (h.takeMesh.some ‹_›).letIn.upd
    · exact Kept.ite h ((h.takeMesh.some ‹_›).received)
    · exact h
  · exact h

theorem Kept.execTileArrival (h : Kept s0 s) {i grant} : KeptNext s0 (execTileArrival i grant s) := by
  unfold Machine.execTileArrival
  exact Kept.powered h fun ht => ht.arriveTile

theorem Kept.execTileFree (h : Kept s0 s) {core index} : KeptNext s0 (execTileFree core index s) := by
  unfold Machine.execTileFree
  exact Kept.powered h fun ht => ht.freeEntryNow.onCore

theorem Kept.execTileOpStart (h : Kept s0 s) {core rid grant} : KeptNext s0 (execTileOpStart core rid grant s) := by
  unfold Machine.execTileOpStart
  exact Kept.powered h fun ht => ht.startTile.startAdd.startMemTile

theorem Kept.execTileOpDone (h : Kept s0 s) {core rid} : KeptNext s0 (execTileOpDone core rid s) := by
  unfold Machine.execTileOpDone
  exact Kept.powered h fun ht => ht.doneTile.doneAdd

theorem Kept.execMmaStart (h : Kept s0 s) {core rid grant} : KeptNext s0 (execMmaStart core rid grant s) := by
  unfold Machine.execMmaStart
  exact Kept.powered h fun ht => ht.startMma

theorem Kept.execMmaDone (h : Kept s0 s) {core rid residueOk} : KeptNext s0 (execMmaDone core rid residueOk s) := by
  unfold Machine.execMmaDone
  exact Kept.powered h fun ht => ht.doneMma

theorem Kept.execBankSafelight (h : Kept s0 s) {core bank} : KeptNext s0 (execBankSafelight core bank s) := by
  unfold Machine.execBankSafelight
  exact Kept.powered h fun ht => ht.onCore

theorem Kept.execBankWake (h : Kept s0 s) {core bank} : KeptNext s0 (execBankWake core bank s) := by
  unfold Machine.execBankWake
  exact Kept.powered h fun ht => (Kept.ite ht.onCore ht)

theorem Kept.strike (h : Kept s0 s) {c place} : Kept s0 (s.strike c place) := by
  unfold State.strike
  dsimp only
  split
  · exact h.setCore.uncorrectable
  · exact h.setCore.uncorrectable
  · exact h.setCore.uncorrectable
  · exact Kept.ite h.uncorrectable h.uncorrectable.cancelJob
  · split
    · exact h.uncorrectable
    · exact Kept.ite h.uncorrectable.cancelJob h.uncorrectable.onCore
  · exact h.uncorrectable.cancelJob

theorem Kept.execEccError (h : Kept s0 s) {core place correctable} : KeptNext s0 (execEccError core place correctable s) := by
  unfold Machine.execEccError
  exact Kept.powered h fun ht => (Kept.ite ht.corrected ht.strike)

theorem Kept.execInstanceCancelMark (h : Kept s0 s) {job slot core} : KeptNext s0 (execInstanceCancelMark job slot core s) := by
  unfold Machine.execInstanceCancelMark
  exact Kept.powered h fun ht => (Kept.ite ht.cancelAt ht)

/-! ## Events of memory -/

theorem Kept.execMemoryPerform (h : Kept s0 s) {rid elem ecc} : KeptNext s0 (execMemoryPerform rid elem ecc s) := by
  unfold Machine.execMemoryPerform
  exact Kept.powered h fun ht => (Kept.ite ht.performMem ht.performRoute)

theorem Kept.execPageWalk (h : Kept s0 s) {rid elem} : KeptNext s0 (execPageWalk rid elem s) := by
  unfold Machine.execPageWalk
  exact Kept.powered h fun ht => ht.pageWalkMem

theorem Kept.execWatchTimeout (h : Kept s0 s) {rid} : KeptNext s0 (execWatchTimeout rid s) := by
  unfold Machine.execWatchTimeout
  exact Kept.powered h fun ht => ht.watchExpires

theorem Kept.execHostResponse (h : Kept s0 s) {rid elem ok} : KeptNext s0 (execHostResponse rid elem ok s) := by
  unfold Machine.execHostResponse
  exact Kept.powered h fun ht => ht.hostAnswer

theorem Kept.execWcEntryWrite (h : Kept s0 s) {die i} : KeptNext s0 (execWcEntryWrite die i s) := by
  unfold Machine.execWcEntryWrite
  refine Kept.powered h fun ht => ?_
  split
  · exact ht.flushEntry
  · exact ht

theorem Kept.execWalkerElement (h : Kept s0 s) {core walker turn} : KeptNext s0 (execWalkerElement core walker turn s) := by
  unfold Machine.execWalkerElement
  exact Kept.powered h fun ht => (Kept.ite (Kept.ite ht.walkerStep ht.walkerUnits) ht)

theorem Kept.copyStep (h : Kept s0 s) {die job queue} : Kept s0 (s.copyStep die job queue) := by
  unfold State.copyStep
  dsimp only
  split
  · exact h.copyHead
  · split
    · exact Kept.ite h.copyHead h.copyHead.progress
    · exact h.copyHead.progress

theorem Kept.copyTurn (h : Kept s0 s) {die job queue units} : Kept s0 (s.copyTurn die job queue units) := by
  unfold State.copyTurn
  dsimp only
  split
  · exact Kept.ite h.copySome h.copySome.progress
  · exact h.copySome

theorem Kept.execCopyRequest (h : Kept s0 s) {die job turn} : KeptNext s0 (execCopyRequest die job turn s) := by
  unfold Machine.execCopyRequest
  exact Kept.powered h fun ht => (Kept.ite ht (Kept.ite ht.copyStep ht.copyTurn))

theorem Kept.putFault (h : Kept s0 s) {r} : (s.putFault r).Keeps s0 := by
  unfold State.putFault
  dsimp only
  split
  · show Kept s0 _
    exact h.keepAsks (h.vread.fst ‹_›)
  · have h1 := h.vread.fst ‹_›
    split
    · split
      · show Kept s0 _
        exact h.keepAsks (h1.vwrite.fst ‹_›)
      · exact (h1.vwrite.fst ‹_›).dropOwner.onJob
      · exact (h1.vwrite.fst ‹_›).dropOwner
    · exact h.dropOwner
  · exact (h.vread.fst ‹_›).dropOwner

theorem Kept.writeFault {s : State} (h : Kept s0 s) {die a a2} : Kept s0 (s.writeFault die a a2) := by
  cases a with
  | nil =>
    exact h
  | cons a l =>
    unfold State.writeFault
    dsimp only
    refine Kept.ite h.writeFault ?_
    refine Kept.ite h.upd ?_
    split
    · exact (h.putFault.written ‹_›).upd.faultEvent
    · exact (h.putFault.lost ‹_›).upd.loseFault
    · exact (h.putFault.waits ‹_›).writeFault

theorem Kept.execFaultRecordWrite (h : Kept s0 s) {die} : KeptNext s0 (execFaultRecordWrite die s) := by
  unfold Machine.execFaultRecordWrite
  exact Kept.powered h fun ht => ht.writeFault

theorem Kept.finishAllocs (h : Kept s0 s) : Kept s0 (s.finishAllocs) := by
  unfold State.finishAllocs
  dsimp only
  exact Kept.ite h (Kept.foldl h fun ht => ht.complete)

theorem Kept.releaseDark (h : Kept s0 s) : Kept s0 (s.releaseDark) := h

theorem Kept.lightFloor (h : Kept s0 s) {f} : Kept s0 (s.lightFloor f) := by
  unfold State.lightFloor
  dsimp only
  exact Kept.ite h.upd.finishAllocs.releaseDark h

theorem Kept.execFloorLit (h : Kept s0 s) {room floor} : KeptNext s0 (execFloorLit room floor s) := by
  unfold Machine.execFloorLit
  exact Kept.powered h fun ht => ht.lightFloor

theorem Kept.execBackgroundZero (h : Kept s0 s) {room floor region} : KeptNext s0 (execBackgroundZero room floor region s) := by
  unfold Machine.execBackgroundZero
  dsimp only
  exact Kept.powered h fun ht => (Kept.ite ht.upd ht)

theorem Kept.execPatrolScrub (h : Kept s0 s) {room floor corrected bad} : KeptNext s0 (execPatrolScrub room floor corrected bad s) := by
  unfold Machine.execPatrolScrub
  dsimp only
  exact Kept.powered h fun ht => (Kept.ite ht.onEcnt.upd ht)

theorem Kept.execRoomSafelight (h : Kept s0 s) {room} : KeptNext s0 (execRoomSafelight room s) := by
  unfold Machine.execRoomSafelight
  dsimp only
  exact Kept.powered h fun ht => (Kept.ite ht.upd ht)

theorem Kept.execRoomWake (h : Kept s0 s) {room} : KeptNext s0 (execRoomWake room s) := by
  unfold Machine.execRoomWake
  exact Kept.powered h fun ht => (Kept.answerExpos (Kept.ite ht.lightRoom ht))

theorem Kept.answerHost (h : Kept s0 s) {a} : Kept s0 (s.answerHost a) := h

theorem Kept.execCxlMemRead (h : Kept s0 s) {pa ecc} : KeptNext s0 (execCxlMemRead pa ecc s) := by
  unfold Machine.execCxlMemRead
  dsimp only
  refine Kept.powered h fun ht => ?_
  refine Kept.ite ht ?_
  split
  · exact (ht.hbmEcc.devRead.fst ‹_›).answerHost
  · exact (ht.hbmEcc.devRead.fst ‹_›).drawMany.answerHost

theorem Kept.execCxlMemWrite (h : Kept s0 s) {pa data ecc} : KeptNext s0 (execCxlMemWrite pa data ecc s) := by
  unfold Machine.execCxlMemWrite
  dsimp only
  exact Kept.powered h fun ht => (Kept.ite ht (Kept.answerHost (Kept.devWrite (Kept.ite ht ht.hbmEcc))))

theorem Kept.takeRec (h : Kept s0 s) {i kind} : KeptItem s0 (s.takeRec i kind) := by
  unfold State.takeRec
  split
  · exact trivial
  · split
    · exact trivial
    · exact h.upd

theorem Kept.onRec (h : Kept s0 s) {i kind f} (hf : ∀ {t r}, Kept s0 t → Kept s0 (f t r)) : KeptNext s0 (s.onRec i kind f) := by
  unfold State.onRec
  refine Kept.powered h fun ht => ?_
  split
  · exact hf (ht.takeRec.some ‹_›)
  · exact ht

theorem Kept.replyTo (h : Kept s0 s) {r pa status bs} : Kept s0 (s.replyTo r pa status bs) := h.respond

theorem Kept.refuseDark (h : Kept s0 s) {r pa} : Kept s0 (s.refuseDark r pa) := by
  unfold State.refuseDark
  exact h.touchRoom.replyTo

theorem Kept.remoteRead (h : Kept s0 s) {r} : Kept s0 (s.remoteRead r) := by
  unfold State.remoteRead
  dsimp only
  split
  · exact h.replyTo
  · exact h.refuseDark
  · split <;> exact (h.hbmRead.fst ‹_›).replyTo

theorem Kept.execReadRequest (h : Kept s0 s) {i} : KeptNext s0 (execReadRequest i s) := by
  unfold Machine.execReadRequest
  exact Kept.onRec h fun ht => ht.remoteRead

theorem Kept.remoteWrite (h : Kept s0 s) {r} : Kept s0 (s.remoteWrite r) := by
  unfold State.remoteWrite
  dsimp only
  split
  · exact h.replyTo
  · exact h.refuseDark
  · refine Kept.ite h.touchRoom.clearRegions.upd.replyTo ?_
    split <;> exact (h.hbmWrite.fst ‹_›).replyTo

theorem Kept.execWriteRequest (h : Kept s0 s) {i} : KeptNext s0 (execWriteRequest i s) := by
  unfold Machine.execWriteRequest
  exact Kept.onRec h fun ht => ht.remoteWrite

theorem Kept.remoteAtomic (h : Kept s0 s) {r} : Kept s0 (s.remoteAtomic r) := by
  unfold State.remoteAtomic
  dsimp only
  split
  · exact h.replyTo
  · exact h.refuseDark
  · split <;> exact (h.atomicAt.fst ‹_›).replyTo

theorem Kept.execAtomicRequest (h : Kept s0 s) {i} : KeptNext s0 (execAtomicRequest i s) := by
  unfold Machine.execAtomicRequest
  exact Kept.onRec h fun ht => ht.remoteAtomic

theorem Kept.execWatchRequest (h : Kept s0 s) {i} : KeptNext s0 (execWatchRequest i s) := by
  unfold Machine.execWatchRequest
  dsimp only
  refine Kept.onRec h fun ht => ?_
  split
  · exact ht.replyTo
  · exact ht.refuseDark
  · exact ht.fresh.upd.watchAt

theorem Kept.answered (h : Kept s0 s) {r} : Kept s0 (s.answered r) := by
  unfold State.answered
  dsimp only
  refine Kept.routeRun (Kept.runPosts ?_)
  split
  · exact h.spillAnswered
  · exact h.wcAnswered
  · exact h.ringAnswered
  · exact h

theorem Kept.takeResponse (h : Kept s0 s) {r} : Kept s0 (s.takeResponse r) := by
  unfold State.takeResponse
  dsimp only
  split
  · exact h.elemResponse
  · exact h.fabricAnswer.answered

theorem Kept.execResponse (h : Kept s0 s) {i} : KeptNext s0 (execResponse i s) := by
  unfold Machine.execResponse
  exact Kept.onRec h fun ht => ht.takeResponse

theorem Kept.execSelectionRecord (h : Kept s0 s) {i} : KeptNext s0 (execSelectionRecord i s) := by
  unfold Machine.execSelectionRecord
  exact Kept.onRec h fun ht => ht.routeRecord

theorem Kept.execEndMark (h : Kept s0 s) {i} : KeptNext s0 (execEndMark i s) := by
  unfold Machine.execEndMark
  exact Kept.onRec h fun ht => ht.routeRecord

theorem Kept.execSlotReturn (h : Kept s0 s) {i} : KeptNext s0 (execSlotReturn i s) := by
  unfold Machine.execSlotReturn
  exact Kept.onRec h fun ht => ht.routeRecord

theorem Kept.execCounts (h : Kept s0 s) {i} : KeptNext s0 (execCounts i s) := by
  unfold Machine.execCounts
  exact Kept.onRec h fun ht => ht.routeRecord

theorem Kept.execRow (h : Kept s0 s) {i} : KeptNext s0 (execRow i s) := by
  unfold Machine.execRow
  exact Kept.onRec h fun ht => ht.routeRecord

theorem Kept.execRowAcknowledgement (h : Kept s0 s) {i} : KeptNext s0 (execRowAcknowledgement i s) := by
  unfold Machine.execRowAcknowledgement
  exact Kept.onRec h fun ht => ht.routeRecord

theorem Kept.execFinalMark (h : Kept s0 s) {i} : KeptNext s0 (execFinalMark i s) := by
  unfold Machine.execFinalMark
  exact Kept.onRec h fun ht => ht.routeRecord

theorem Kept.execOutputRowRead (h : Kept s0 s) {i} : KeptNext s0 (execOutputRowRead i s) := by
  unfold Machine.execOutputRowRead
  exact Kept.onRec h fun ht => ht.routeRecord

theorem Kept.execOutputRowData (h : Kept s0 s) {i} : KeptNext s0 (execOutputRowData i s) := by
  unfold Machine.execOutputRowData
  exact Kept.onRec h fun ht => ht.routeRecord

theorem Kept.execReleaseMark (h : Kept s0 s) {i} : KeptNext s0 (execReleaseMark i s) := by
  unfold Machine.execReleaseMark
  exact Kept.onRec h fun ht => ht.routeRecord

theorem Kept.lateToken (h : Kept s0 s) {j slot} : Kept s0 (s.lateToken j slot) := by
  unfold State.lateToken
  dsimp only
  split
  · exact h.upd.tellEnded.tellEnded
  · exact h

theorem Kept.enterFrom (h : Kept s0 s) {io t' what} : Kept s0 (s.enterFrom io t' what) := by
  unfold State.enterFrom
  dsimp only
  split
  · exact h.countReceived.wallDrop.lateToken
  · refine Kept.ite ?_ (Kept.ite h.countReceived.wallDrop.lateToken h.countReceived.upd)
    refine Kept.ite h.countReceived.wallDrop ?_
    split
    · refine Kept.ite h.countReceived.upd ?_
      split
      · exact h.countReceived.spillTo.fst ‹_›
      · exact (h.countReceived.spillTo.fst ‹_›).upd
    · exact h.countReceived.upd

theorem Kept.execTileTransfer (h : Kept s0 s) {i} : KeptNext s0 (execTileTransfer i s) := by
  unfold Machine.execTileTransfer
  dsimp only
  exact Kept.onRec h fun ht => ht.enterFrom

/-! ## Events of the scheduler -/

theorem Kept.finishInst (h : Kept s0 s) {j i v} : Kept s0 (s.finishInst j i v) := by
  unfold State.finishInst
  dsimp only
  exact Kept.ite h.flushWhere h.flushWhere.endInst.settle

theorem Kept.publish (h : Kept s0 s) {j i tag ordinal peers coll n} : Kept s0 (s.publish j i tag ordinal peers coll n) := by
  unfold State.publish
  exact h.onInst.tellTotals

theorem Kept.checkFabric (h : Kept s0 s) {j i v tag peers} : Kept s0 (s.checkFabric j i v tag peers) := by
  unfold State.checkFabric
  dsimp only
  refine Kept.ite h ?_
  refine Kept.ite h.onInst.publish ?_
  split
  · exact h
  · refine Kept.ite h ?_
    refine Kept.ite h.publish ?_
    split
    · exact h
    · exact Kept.ite h.finishInst h.onInst

theorem Kept.checkComplete (h : Kept s0 s) {j i} : Kept s0 (s.checkComplete j i) := by
  unfold State.checkComplete
  dsimp only
  split
  · refine Kept.ite h ?_
    split
    · exact h.checkFabric
    · exact Kept.ite h.finishInst h
  · exact h

theorem Kept.execInstanceCompleteCheck (h : Kept s0 s) {job slot} : KeptNext s0 (execInstanceCompleteCheck job slot s) := by
  unfold Machine.execInstanceCompleteCheck
  exact Kept.powered h fun ht => ht.checkComplete

theorem Kept.onMark (h : Kept s0 s) {i kind f} (hf : ∀ {t r n v}, Kept s0 t → Kept s0 (f t r n v)) : KeptNext s0 (s.onMark i kind f) := by
  unfold State.onMark
  refine Kept.powered h fun ht => ?_
  split
  · exact ht
  · split
    · exact hf (ht.takeRec.some ‹_›)
    · exact ht.takeRec.some ‹_›

theorem Kept.execReadyMark (h : Kept s0 s) {i} : KeptNext s0 (execReadyMark i s) := by
  unfold Machine.execReadyMark
  exact Kept.onMark h fun ht => ht.onInst

theorem Kept.tellLate (h : Kept s0 s) {r} : Kept s0 (s.tellLate r) := by
  unfold State.tellLate
  split
  · exact Kept.ite h.tellEnded h
  · exact h

theorem Kept.execCountTotals (h : Kept s0 s) {i} : KeptNext s0 (execCountTotals i s) := by
  unfold Machine.execCountTotals
  refine Kept.powered h fun ht => ?_
  split
  · exact ht
  · split
    · exact (ht.takeRec.some ‹_›).onInst
    · exact (ht.takeRec.some ‹_›).tellLate

theorem Kept.execCancelMark (h : Kept s0 s) {i} : KeptNext s0 (execCancelMark i s) := by
  unfold Machine.execCancelMark
  exact Kept.onMark h fun ht => ht.cancelInst.settle

theorem Kept.placePrime (h : Kept s0 s) {j i x g v p} : Kept s0 (s.placePrime j i x g v p) := by
  unfold State.placePrime
  dsimp only
  split
  · exact h.upd
  · exact h

theorem Kept.placePrimes (h : Kept s0 s) {j i} : Kept s0 (s.placePrimes j i) := by
  unfold State.placePrimes
  dsimp only
  split
  · refine Kept.ite h ?_
    split
    · exact Kept.ite (Kept.onInst (Kept.foldl h.giveRoots fun ht => ht.placePrime)) h.giveRoots
    · exact h.giveRoots
  · exact h

theorem Kept.execPrimedTokensPlace (h : Kept s0 s) {job slot} : KeptNext s0 (execPrimedTokensPlace job slot s) := by
  unfold Machine.execPrimedTokensPlace
  exact Kept.powered h fun ht => ht.placePrimes

theorem Kept.missEdge (h : Kept s0 s) {j p edge} : Kept s0 (s.missEdge j p edge) := by
  unfold State.missEdge
  exact h.onJob.event

theorem Kept.tickAnswers (h : Kept s0 s) {j edge} : Kept s0 (s.tickAnswers j edge) := by
  unfold State.tickAnswers
  dsimp only
  exact Kept.foldl h.onJob fun ht => ht.answer

theorem Kept.applyEdge (h : Kept s0 s) {j edge} : Kept s0 (s.applyEdge j edge) := by
  unfold State.applyEdge
  dsimp only
  refine Kept.settle (Kept.tickAnswers ?_)
  split
  · exact Kept.ite h (Kept.ite h.missEdge h.onJob)
  · exact h

theorem Kept.edge (h : Kept s0 s) {j} : Kept s0 (s.edge j) := by
  unfold State.edge
  dsimp only
  split
  · exact h
  · refine Kept.ite h ?_
    split
    · exact h.setJob
    · exact h.setJob
    · exact h.setJob.applyEdge
    · exact h.setJob.applyEdge
    · exact h.setJob.applyEdge

theorem Kept.execTickEdge (h : Kept s0 s) {job} : KeptNext s0 (execTickEdge job s) := by
  unfold Machine.execTickEdge
  exact Kept.powered h fun ht => ht.edge

theorem Kept.deadlock (h : Kept s0 s) {j i} : Kept s0 (s.deadlock j i) := by
  unfold State.deadlock
  dsimp only
  split
  · exact Kept.ite h h.onJob.onInst.post
  · exact h

theorem Kept.execQuiescenceTimeout (h : Kept s0 s) {job slot} : KeptNext s0 (execQuiescenceTimeout job slot s) := by
  unfold Machine.execQuiescenceTimeout
  exact Kept.powered h fun ht => ht.deadlock

end Sys2Proof.Machine
end


section
/-! What the commands keep: loading, patches, saving, placing and the attic. -/

namespace Sys2Proof.Machine

-- These proofs are many and short: elaborated one after another they take less memory than side by side.
set_option Elab.async false

variable {s0 s t : State}

/-! ## Loading code -/

theorem Kept.flip (h : Kept s0 s) {j x va x3 fabric blocks primes} : Kept s0 (s.flip j x va x3 fabric blocks primes) := by
  unfold State.flip
  dsimp only
  exact Kept.onJob (Kept.foldl h fun ht => ht.onCore)

theorem Kept.imagePart (h : Kept s0 s) {o j va n} : KeptExcept s0 (s.imagePart o j va n) := by
  unfold State.imagePart
  split <;> exact h.vread.fst ‹_›

theorem Kept.readFabric (h : Kept s0 s) {o j va x} : KeptExcept s0 (s.readFabric o j va x) := by
  unfold State.readFabric
  dsimp only
  split
  · exact h
  · refine KeptExcept.bind h.imagePart fun ht => ?_
    dsimp only
    split
    · exact ht
    · split
      · exact ht
      · exact ht.imagePart

theorem Kept.readParts (h : Kept s0 s) {o j va x} : KeptExcept s0 (s.readParts o j va x) := by
  unfold State.readParts
  dsimp only
  refine KeptExcept.bind h.readFabric fun ht => ?_
  dsimp only
  refine KeptExcept.bind ht.imagePart fun ht => ?_
  dsimp only
  refine KeptExcept.bind ht.imagePart fun ht => ?_
  dsimp only
  exact ht

theorem Kept.firstFail (h : Kept s0 s) {own j va x fails o} : KeptExcept s0 (s.firstFail own j va x fails o) := by
  unfold State.firstFail
  dsimp only
  split
  · exact h
  · refine KeptExcept.bind ?_ fun ht => ?_
    · split
      · exact h.readFabric
      · exact h
    · dsimp only
      refine KeptExcept.bind ?_ fun ht => ?_
      · split
        · exact ht.imagePart
        · exact ht
      · dsimp only
        exact ht

theorem Kept.load (h : Kept s0 s) {o j va size} : (s.load o j va size).Keeps s0 := by
  unfold State.load
  dsimp only
  split
  · exact h.imagePart.error ‹_›
  · exact h.imagePart.ok ‹_›
  · split
    · split
      · exact (h.imagePart.ok ‹_›).firstFail.error ‹_›
      · exact (h.imagePart.ok ‹_›).firstFail.ok ‹_›
    · split
      · exact h.imagePart.ok ‹_›
      · split
        · exact (h.imagePart.ok ‹_›).readParts.error ‹_›
        · split
          · exact (h.imagePart.ok ‹_›).readParts.ok ‹_›
          · exact ((h.imagePart.ok ‹_›).readParts.ok ‹_›).flip

/-! ## Patch lists -/

theorem Kept.readPatches {s : State} (h : Kept s0 s) {o sv j va a a5} : (s.readPatches o sv j va a a5).Keeps s0 := by
  cases a with
  | zero =>
    unfold State.readPatches
    exact h
  | succ n =>
    unfold State.readPatches
    split
    · exact h.vread.fst ‹_›
    · split
      · exact h.vread.fst ‹_›
      · split
        · exact (h.vread.fst ‹_›).readPatches.done ‹_›
        · exact (h.vread.fst ‹_›).readPatches
    · exact h.vread.fst ‹_›

theorem Kept.writePatches {s : State} (h : Kept s0 s) {o j keep ps i} (hk : ∀ {t ps}, Kept s0 t → Kept s0 (keep t ps)) :
    (s.writePatches o j keep ps i).Keeps s0 := by
  induction ps generalizing s i with
  | nil => exact h
  | cons p ps ih =>
    unfold State.writePatches
    split
    · exact hk (h.vwrite.fst ‹_›)
    · exact ih (h.vwrite.fst ‹_›).dropOwner
    · exact h.vwrite.fst ‹_›

/-! ## Commands -/

theorem Kept.fetchRecord (h : Kept s0 s) {q fetched} : Kept s0 (s.fetchRecord q fetched).1 := by
  unfold State.fetchRecord
  exact Kept.ite_fst h.busRead h.dropOwner

theorem Kept.acceptFrom (h : Kept s0 s) {q fetched} : Kept s0 (s.acceptFrom q fetched) := by
  unfold State.acceptFrom
  dsimp only
  split
  · exact h.fetchRecord
  · refine Kept.complete ?_
    refine Kept.upd (s := State.setQueue _ _ _) ?_
    exact h.fetchRecord.fresh.upd.setQueue
  · exact Kept.ite h.fetchRecord.fresh.setQueue.upd h.fetchRecord.fresh.setQueue.upd.complete

theorem Kept.execCommandAccept (h : Kept s0 s) {fetched} : KeptNext s0 (execCommandAccept fetched s) := by
  unfold Machine.execCommandAccept
  refine Kept.powered h fun ht => ?_
  refine Kept.ite ht ?_
  split
  · exact ht.acceptFrom
  · exact ht

theorem Kept.onCmd (h : Kept s0 s) {q f} : Kept s0 (s.onCmd q f) := by
  unfold State.onCmd
  dsimp only
  split
  · exact h.setQueue
  · exact h

theorem Kept.begin (h : Kept s0 s) {q jobs} : Kept s0 (s.begin q jobs) := h.onCmd

theorem Kept.noJob (h : Kept s0 s) {q c} : Kept s0 (s.noJob q c) := h.complete

theorem Kept.jobTurn (h : Kept s0 s) {q op f} (hf : ∀ {t c x}, Kept s0 t → Kept s0 (f t c x)) : Kept s0 (s.jobTurn q op f) := by
  unfold State.jobTurn
  split
  · exact h
  · split
    · exact h.noJob
    · split
      · exact h.complete
      · exact h
      · exact hf h

theorem Kept.jobCommand (h : Kept s0 s) {q op f} (hf : ∀ {t c x}, Kept s0 t → Kept s0 (f t c x)) : KeptNext s0 (s.jobCommand q op f) := by
  unfold State.jobCommand
  exact Kept.powered h fun ht => (Kept.jobTurn ht fun ht => (hf ht))

theorem Kept.execJobOpen (h : Kept s0 s) {q} : KeptNext s0 (execJobOpen q s) := by
  unfold Machine.execJobOpen
  refine Kept.powered h fun ht => ?_
  split
  · exact ht
  · split
    · split
      · exact ht
      · exact ht.complete
      · exact ht.complete
    · exact Kept.ite ht.complete (Kept.ite ht.upd.setJob.complete ht.complete)

theorem Kept.execJobClose (h : Kept s0 s) {q} : KeptNext s0 (execJobClose q s) := by
  unfold Machine.execJobClose
  dsimp only
  exact Kept.jobCommand h fun ht => ht.setJob.settle.complete

theorem Kept.execJobCancel (h : Kept s0 s) {q} : KeptNext s0 (execJobCancel q s) := by
  unfold Machine.execJobCancel
  dsimp only
  refine Kept.powered h fun ht => ?_
  split
  · exact ht
  · exact Kept.ite (Kept.ite ht.complete ht) (Kept.jobTurn ht fun ht => (Kept.ite ht.cancelJob.complete ht.cancelJob.begin))

theorem Kept.dropRange (h : Kept s0 s) {j base len} : Kept s0 (s.dropRange j base len) := h

theorem Kept.execMapSet (h : Kept s0 s) {q} : KeptNext s0 (execMapSet q s) := by
  unfold Machine.execMapSet
  dsimp only
  exact Kept.jobCommand h fun ht => (Kept.ite ht.complete ht.setJob.dropRange.complete)

theorem Kept.execSlotSet (h : Kept s0 s) {q} : KeptNext s0 (execSlotSet q s) := by
  unfold Machine.execSlotSet
  dsimp only
  exact Kept.jobCommand h fun ht => (Kept.ite ht.complete (Kept.ite ht.complete ht.setJob.rebuildFor.complete))

theorem Kept.execSvarSet (h : Kept s0 s) {q} : KeptNext s0 (execSvarSet q s) := by
  unfold Machine.execSvarSet
  dsimp only
  exact Kept.jobCommand h fun ht => (Kept.ite ht.complete ht.setVars.complete)

theorem Kept.execTickSet (h : Kept s0 s) {q} : KeptNext s0 (execTickSet q s) := by
  unfold Machine.execTickSet
  dsimp only
  exact Kept.jobCommand h fun ht => (Kept.ite ht.complete ht.setJob.settle.complete)

theorem Kept.execCodeLoad (h : Kept s0 s) {q} : KeptNext s0 (execCodeLoad q s) := by
  unfold Machine.execCodeLoad
  dsimp only
  refine Kept.jobCommand h fun ht => ?_
  refine Kept.ite ht.complete ?_
  split
  · exact ht.keepAsks (ht.load.wait ‹_›)
  · exact (ht.load.refused ‹_›).complete
  · exact (ht.load.done ‹_›).complete

theorem Kept.execPhaseOpen (h : Kept s0 s) {q} : KeptNext s0 (execPhaseOpen q s) := by
  unfold Machine.execPhaseOpen
  dsimp only
  exact Kept.jobCommand h fun ht => (Kept.ite ht.complete (Kept.ite ht.complete (Kept.ite ht.complete ht.setJob.settle.complete)))

theorem Kept.patch (h : Kept s0 s) {q c list n} : (s.patch q c list n).Keeps s0 := by
  unfold State.patch
  dsimp only
  split
  · exact Kept.writePatches h fun ht => ht.onCmd
  · split
    · show Kept s0 _
      exact h.keepAsks (h.readPatches.wait ‹_›)
    · exact h.readPatches.failed ‹_›
    · exact Kept.writePatches ((h.readPatches.done ‹_›).dropOwner) fun ht => ht.onCmd

theorem Kept.enterAll (h : Kept s0 s) {j n items} : Kept s0 (s.enterAll j n items) := by
  unfold State.enterAll
  exact h.onJob.settle

theorem Kept.takeOrdinal (h : Kept s0 s) {j g} : Kept s0 (s.takeOrdinal j g).1 := by
  unfold State.takeOrdinal
  dsimp only
  split
  · exact h
  · exact h.onJob

theorem Kept.execGraphStart (h : Kept s0 s) {q} : KeptNext s0 (execGraphStart q s) := by
  unfold Machine.execGraphStart
  dsimp only
  refine Kept.jobCommand h fun ht => ?_
  split
  · exact ht.complete
  · refine Kept.ite ht.complete ?_
    split
    · exact ht.complete
    · split
      · exact ht.patch.wait ‹_›
      · exact (ht.patch.failed ‹_›).complete
      · exact (ht.patch.done ‹_›).takeOrdinal.enterAll.complete

theorem Kept.execGraphBatch (h : Kept s0 s) {q} : KeptNext s0 (execGraphBatch q s) := by
  unfold Machine.execGraphBatch
  dsimp only
  refine Kept.jobCommand h fun ht => ?_
  split
  · exact ht.complete
  · refine Kept.ite ht.complete ?_
    refine Kept.ite ht.complete ?_
    split
    · exact ht.patch.wait ‹_›
    · exact (ht.patch.failed ‹_›).complete
    · exact (ht.patch.done ‹_›).enterAll.complete

theorem Kept.wipeFloor (h : Kept s0 s) {f} : Kept s0 (s.wipeFloor f) := h.of_mem (Memory.wf_clear _ _ _) id rfl

theorem Kept.execFloorAlloc (h : Kept s0 s) {q} : KeptNext s0 (execFloorAlloc q s) := by
  unfold Machine.execFloorAlloc
  dsimp only
  refine Kept.powered h fun ht => ?_
  split
  · exact ht
  · refine Kept.ite (Kept.ite ht.complete ht) ?_
    split
    · exact ht.complete
    · exact Kept.ite ht.complete (Kept.begin (Kept.beginWake (Kept.foldl ht fun ht => ht.wipeFloor.upd)))

theorem Kept.refuseWatches (h : Kept s0 s) {f} : Kept s0 (s.refuseWatches f) := by
  unfold State.refuseWatches
  dsimp only
  exact Kept.foldl h fun ht => ht.floorDark.elemDone

theorem Kept.execFloorFree (h : Kept s0 s) {q} : KeptNext s0 (execFloorFree q s) := by
  unfold Machine.execFloorFree
  dsimp only
  refine Kept.powered h fun ht => ?_
  split
  · exact ht
  · split
    · exact ht.complete
    · exact Kept.ite ht.complete (Kept.complete (Kept.foldl ht fun ht => ht.refuseWatches.wipeFloor.repairRows.upd))

theorem Kept.resolveLoad (h : Kept s0 s) {id rid resume} : Kept s0 (s.resolveLoad id rid resume) := by
  unfold State.resolveLoad
  dsimp only
  split
  · exact h
  · refine Kept.ite h.upd ?_
    split
    · refine Kept.foldl h fun ht => ?_
      split
      · exact Kept.ite ht.elemDone ht
      · exact ht
    · exact h

theorem Kept.resolvePort (h : Kept s0 s) {f resume p} : Kept s0 (s.resolvePort f resume p) := by
  unfold State.resolvePort
  dsimp only
  split
  · exact h.resolveLoad
  · exact h.onWalker
  · exact h.upd
  · exact h.upd.routeRun
  · exact Kept.ite h (Kept.ite h.setCellar h)

theorem Kept.resolveFault (h : Kept s0 s) {f action} : Kept s0 (s.resolveFault f action) := by
  unfold State.resolveFault
  exact Kept.foldl h.upd fun ht => ht.resolvePort

theorem Kept.resolve (h : Kept s0 s) {q c x} : Kept s0 (s.resolve q c x) := by
  unfold State.resolve
  dsimp only
  split
  · exact h.complete
  · exact Kept.ite h.complete (Kept.ite h.upd.complete h.resolveFault.complete)

theorem Kept.execFaultResolve (h : Kept s0 s) {q} : KeptNext s0 (execFaultResolve q s) := by
  unfold Machine.execFaultResolve
  refine Kept.powered h fun ht => ?_
  split
  · exact ht.resolve
  · exact Kept.jobTurn ht fun ht => ht.resolve

theorem Kept.cellarContents {s : State} (h : Kept s0 s) {o j v a} : Kept s0 (s.cellarContents o j v a).1 := by
  cases a with
  | nil =>
    exact h
  | cons a l =>
    unfold State.cellarContents
    split
    · split
      · exact (h.vread.fst ‹_›).cellarContents.fst ‹_›
      · exact (h.vread.fst ‹_›).cellarContents
    · exact h.vread

theorem Kept.fillRing {s : State} (h : Kept s0 s) {o j w a a4 a5} : Kept s0 (s.fillRing o j w a a4 a5).1 := by
  cases a with
  | zero =>
    exact h
  | succ n =>
    unfold State.fillRing
    split
    · exact (h.vwrite.fst ‹_›).fillRing
    · exact h.vwrite

theorem Kept.growCellar (h : Kept s0 s) {o j jc va bytes} : Kept s0 (s.growCellar o j jc va bytes).1 := by
  unfold State.growCellar
  dsimp only
  split
  · exact h
  · split
    · split
      · exact ((h.cellarContents.fst ‹_›).fillRing.fst ‹_›).setCellar
      · exact (h.cellarContents.fst ‹_›).fillRing
    · exact h.cellarContents

theorem Kept.growAll {s : State} (h : Kept s0 s) {o j at_ bytes a} : Kept s0 (s.growAll o j at_ bytes a).1 := by
  cases a with
  | nil =>
    exact h
  | cons a l =>
    unfold State.growAll
    split
    · exact (h.growCellar.fst ‹_›).growAll
    · exact h.growCellar

theorem Kept.execCellarGrow (h : Kept s0 s) {q} : KeptNext s0 (execCellarGrow q s) := by
  unfold Machine.execCellarGrow
  dsimp only
  refine Kept.jobCommand h fun ht => ?_
  refine Kept.ite ht.complete ?_
  split
  · exact ht.keepAsks (ht.growAll.fst ‹_›)
  · exact Kept.complete (Kept.ite ((ht.growAll.fst ‹_›).onJob) (ht.growAll.fst ‹_›))
  · exact ht.complete

/-! ## Saving -/

theorem Kept.haltCore (h : Kept s0 s) {j c} : Kept s0 (s.haltCore j c) := by
  unfold State.haltCore
  exact h.setCore.abortFirings

theorem Kept.passCurtains (h : Kept s0 s) {j io vc} : Kept s0 (s.passCurtains j io vc) := by
  unfold State.passCurtains
  dsimp only
  exact Kept.ite (Kept.foldl h fun ht => (Kept.ite ht.sendFlits ht.sendFlits)) h

theorem Kept.takeCurtain (h : Kept s0 s) {j dst t'} : Kept s0 (s.takeCurtain j dst t') := by
  unfold State.takeCurtain
  dsimp only
  exact Kept.ite (Kept.ite h.onJob.passCurtains h.onJob) h

theorem Kept.execCurtain (h : Kept s0 s) {i} : KeptNext s0 (execCurtain i s) := by
  unfold Machine.execCurtain
  dsimp only
  refine Kept.powered h fun ht => ?_
  refine Kept.ite ?_ ?_
  · split
    · split
      · exact (ht.takeMesh.some ‹_›).takeCurtain
      · exact ht
    · exact ht
  · split
    · exact Kept.ite ((ht.takeRec.some ‹_›).takeCurtain) (ht.takeRec.some ‹_›)
    · exact ht

theorem Kept.haltJob (h : Kept s0 s) {j} : Kept s0 (s.haltJob j) := by
  unfold State.haltJob
  dsimp only
  refine Kept.upd (s := State.onJob _ _ _) ?_
  exact Kept.onJob (Kept.onJob (Kept.foldl h fun ht => ht.haltCore.stopMmas))

theorem Kept.writeSave {s : State} (h : Kept s0 s) {j a} : (s.writeSave j a).Keeps s0 := by
  cases a with
  | nil =>
    unfold State.writeSave
    exact h
  | cons a l =>
    unfold State.writeSave
    dsimp only
    split
    · exact h.vwrite.fst ‹_›
    · exact (h.vwrite.fst ‹_›).writeSave
    · exact (h.vwrite.fst ‹_›).absentFault
    · exact h.vwrite.fst ‹_›

theorem Kept.takeOff (h : Kept s0 s) {j bytes} : Kept s0 (s.takeOff j bytes) := by
  unfold State.takeOff
  dsimp only
  refine Kept.foldl ?_ fun ht => ht.endRecords
  refine Kept.rebuildFor (Kept.onJob ?_)
  refine Kept.upd (s := State.leaveCores _ _) ?_
  exact Kept.leaveCores (Kept.foldl h fun ht => ht.onCore)

theorem Kept.tellWaiting (h : Kept s0 s) {j ok} : Kept s0 (s.tellWaiting j ok) := by
  unfold State.tellWaiting
  refine Kept.foldl h fun ht => ?_
  split
  · exact Kept.ite ht.onCmd ht
  · exact ht

theorem Kept.cancelAfterSave (h : Kept s0 s) {j} : Kept s0 (s.cancelAfterSave j) := by
  unfold State.cancelAfterSave
  dsimp only
  exact Kept.ite h.onJob.cancelJob h

theorem Kept.saveFails (h : Kept s0 s) {j} : Kept s0 (s.saveFails j) := by
  unfold State.saveFails
  dsimp only
  exact Kept.cancelAfterSave (Kept.foldl h.onJob.dropOwner.rebuildFor.settle.tellWaiting fun ht => ht.applyEdge)

theorem Kept.saveJob (h : Kept s0 s) {j} : Kept s0 (s.saveJob j) := by
  unfold State.saveJob
  dsimp only
  refine Kept.ite h.flushWhere ?_
  refine Kept.ite h.flushWhere.takeOff.tellWaiting.cancelAfterSave ?_
  split
  · refine Kept.cancelAfterSave (Kept.tellWaiting (Kept.takeOff ?_))
    refine (Kept.writeSave ?_).written ‹_›
    exact Kept.ite h.flushWhere h.flushWhere.onJob.upd
  · refine Kept.keepAsks (Kept.ite h.flushWhere h.flushWhere.onJob.upd) ?_
    refine (Kept.writeSave ?_).wait ‹_›
    exact Kept.ite h.flushWhere h.flushWhere.onJob.upd
  · refine (Kept.writeSave ?_).frozen ‹_›
    exact Kept.ite h.flushWhere h.flushWhere.onJob.upd
  · refine Kept.saveFails ?_
    refine (Kept.writeSave ?_).failed ‹_›
    exact Kept.ite h.flushWhere h.flushWhere.onJob.upd

theorem Kept.execSaveEnd (h : Kept s0 s) {job} : KeptNext s0 (execSaveEnd job s) := by
  unfold Machine.execSaveEnd
  exact Kept.powered h fun ht => (Kept.ite ht.saveJob ht)

theorem Kept.wakeJob (h : Kept s0 s) {j} : Kept s0 (s.wakeJob j) := by
  unfold State.wakeJob
  dsimp only
  refine Kept.settle (Kept.foldl ?_ fun ht => ?_)
  · refine Kept.foldl ?_ fun ht => ht.answer
    split
    · exact Kept.ite (Kept.missEdge (Kept.onJob (Kept.foldl h fun ht => (Kept.ite ht ht.lightRoom))))
        (Kept.onJob (Kept.foldl h fun ht => (Kept.ite ht ht.lightRoom)))
    · exact Kept.onJob (Kept.foldl h fun ht => (Kept.ite ht ht.lightRoom))
  · split
    · exact ht.resolveFault
    · exact ht

theorem Kept.restoreJob (h : Kept s0 s) {j r dx dy} : Kept s0 (s.restoreJob j r dx dy) := by
  unfold State.restoreJob
  dsimp only
  split
  · exact h
  · refine Kept.foldl ?_ fun ht => ht.endRecords
    refine Kept.wakeJob (Kept.rebuildFor ?_)
    refine Kept.upd (s := List.foldl _ _ _) ?_
    refine Kept.foldl h.releaseCredits.setJob fun ht => ?_
    split
    · exact ht.onCore
    · exact ht

/-! ## Placing -/

theorem Kept.haltFor (h : Kept s0 s) {q victims} : Kept s0 (s.haltFor q victims) := by
  unfold State.haltFor
  exact Kept.begin (Kept.foldl h fun ht => ht.haltJob)

theorem Kept.afterSaves (h : Kept s0 s) {q c go} (hg : ∀ {t n}, Kept s0 t → Kept s0 (go t n)) : Kept s0 (s.afterSaves q c go) := by
  unfold State.afterSaves
  exact Kept.ite h (Kept.ite h.complete (hg h))

theorem Kept.setWall (h : Kept s0 s) {j r} : Kept s0 (s.setWall j r) := by
  unfold State.setWall
  exact h.leaveCores.onJob.rebuildFor.rebuildFor

theorem Kept.startWall (h : Kept s0 s) {q c x} : Kept s0 (s.startWall q c x) := by
  unfold State.startWall
  dsimp only
  split
  · exact h.complete
  · refine Kept.ite h.complete ?_
    refine Kept.ite h.complete ?_
    split
    · exact h
    · exact h.complete
    · exact h.setWall.complete
    · exact h.haltFor

theorem Kept.execWallSet (h : Kept s0 s) {q} : KeptNext s0 (execWallSet q s) := by
  unfold Machine.execWallSet
  refine Kept.powered h fun ht => ?_
  split
  · exact ht
  · refine Kept.ite ?_ (Kept.jobTurn ht fun ht => ht.startWall)
    split
    · exact ht.noJob
    · refine Kept.ite ht.complete ?_
      refine Kept.ite ht ?_
      refine Kept.afterSaves ht fun ht => ?_
      split
      · exact ht.complete
      · exact ht.setWall.complete
      · exact ht

theorem Kept.execPreempt (h : Kept s0 s) {q} : KeptNext s0 (execPreempt q s) := by
  unfold Machine.execPreempt
  refine Kept.powered h fun ht => ?_
  split
  · exact ht
  · refine Kept.ite ?_ (Kept.jobTurn ht fun ht => ht.haltJob.begin)
    split
    · exact ht.noJob
    · refine Kept.ite ht ?_
      refine Kept.ite ht.complete ?_
      refine Kept.ite ht.complete ?_
      split
      · exact ht.complete
      · exact ht

theorem Kept.startResume (h : Kept s0 s) {q c x} : Kept s0 (s.startResume q c x) := by
  unfold State.startResume
  dsimp only
  split
  · exact h.complete
  · refine Kept.ite h.complete ?_
    split
    · exact h.complete
    · exact h.restoreJob.complete
    · split
      · exact h.complete
      · split
        · exact h
        · exact h.complete
        · exact Kept.ite h.complete (Kept.ite h.restoreJob.complete h.haltFor)

theorem Kept.endResume (h : Kept s0 s) {q c x mask} : Kept s0 (s.endResume q c x mask) := by
  unfold State.endResume
  split
  · exact h.complete
  · split
    · exact Kept.ite h.restoreJob.complete h.complete
    · exact h

theorem Kept.execResume (h : Kept s0 s) {q} : KeptNext s0 (execResume q s) := by
  unfold Machine.execResume
  refine Kept.powered h fun ht => ?_
  split
  · exact ht
  · refine Kept.ite ?_ (Kept.jobTurn ht fun ht => ht.startResume)
    split
    · exact ht.noJob
    · exact Kept.ite ht.complete (Kept.afterSaves ht fun ht => ht.endResume)

/-! ## The attic -/

theorem Kept.readOutside {s : State} (h : Kept s0 s) {q a} : KeptExcept s0 (s.readOutside q a) := by
  cases a with
  | nil =>
    unfold State.readOutside
    exact h
  | cons a l =>
    unfold State.readOutside
    dsimp only
    refine KeptExcept.bind ?_ fun ht => ?_
    · split
      · exact h.vread.fst ‹_›
      · exact h.vread.fst ‹_›
      · exact (h.vread.fst ‹_›).upd
    · dsimp only
      refine KeptExcept.bind ht.readOutside fun ht => ?_
      dsimp only
      exact ht

theorem Kept.startCkpt (h : Kept s0 s) {q c} : Kept s0 (s.startCkpt q c) := by
  unfold State.startCkpt
  dsimp only
  exact Kept.ite h.complete (Kept.ite h (Kept.ite h.complete (Kept.onCmd (Kept.begin (Kept.foldl h.upd fun ht => ht.haltJob)))))

theorem Kept.goOn (h : Kept s0 s) {j} : Kept s0 (s.goOn j) := by
  unfold State.goOn
  split
  · split
    · exact h.restoreJob
    · exact h
  · exact h

theorem Memory.wf_putCells {m : Memory} {base : Nat} {cells : List (Nat × Byte)} (h : Memory.wf m = true) :
    Memory.wf (putCells m base cells) = true := Memory.wf_foldl_set h

theorem Memory.wf_splice {old new : Memory} {lo hi : Nat} (h : Memory.wf old = true) : Memory.wf (splice old new lo hi) = true :=
  Memory.wf_putCells (Memory.wf_clear old lo hi h)

theorem Kept.writeImage (h : Kept s0 s) {c attic copied} : Kept s0 (s.writeImage c attic copied) := by
  unfold State.writeImage
  split
  · refine Kept.of_mem h.draw id (fun hh => ?_) rfl
    dsimp only
    exact Memory.wf_splice hh
  · refine Kept.of_mem h id (fun hh => ?_) rfl
    dsimp only
    exact Memory.wf_splice hh

theorem Kept.endCkpt (h : Kept s0 s) {q c attic} : Kept s0 (s.endCkpt q c attic) := by
  unfold State.endCkpt
  dsimp only
  refine Kept.ite h ?_
  split
  · exact h.keepAsks (h.readOutside.error ‹_›)
  · exact Kept.finishAllocs (Kept.complete (Kept.ite ((h.readOutside.ok ‹_›).writeImage)
      (Kept.foldl ((h.readOutside.ok ‹_›).writeImage) fun ht => ht.goOn)))

theorem Kept.execCkpt (h : Kept s0 s) {q attic} : KeptNext s0 (execCkpt q attic s) := by
  unfold Machine.execCkpt
  refine Kept.powered h fun ht => ?_
  split
  · exact ht
  · exact Kept.ite ht.startCkpt (Kept.ite ht.endCkpt ht)

theorem Kept.refillFloors (h : Kept s0 s) {base x1} : Kept s0 (s.refillFloors base x1) := by
  unfold State.refillFloors
  dsimp only
  refine Kept.upd (s := List.foldl _ _ _) ?_
  exact Kept.foldl h fun ht => ht.wipeFloor.lightRoom.of_mem Memory.wf_putCells id rfl

theorem Kept.restoreFails (h : Kept s0 t) {b} : Kept s0 (s.restoreFails t b) := by
  unfold State.restoreFails
  dsimp only
  refine Kept.foldl ?_ fun ht => ht.wipeFloor.upd
  refine Kept.upd (s := List.foldl _ _ _) ?_
  exact Kept.foldl h fun ht => ht.dropTlbs

theorem Kept.wokenInVain (h : Kept s0 s) {x} : Kept s0 (s.wokenInVain x) := by
  unfold State.wokenInVain
  exact Kept.foldl h fun ht => ht.lightRoom

theorem Kept.writeOutside {s : State} (h : Kept s0 s) {q a} : Kept s0 (s.writeOutside q a).1 := by
  cases a with
  | nil =>
    exact h
  | cons a l =>
    unfold State.writeOutside
    split
    · exact (h.vwrite.fst ‹_›).writeOutside
    · exact h.vwrite

theorem Kept.renameSlots {s : State} (h : Kept s0 s) {q j old new a} : Kept s0 (s.renameSlots q j old new a).1 := by
  cases a with
  | nil =>
    exact h
  | cons a l =>
    unfold State.renameSlots
    split
    · exact h.vread.fst ‹_›
    · split
      · exact (h.vread.fst ‹_›).renameSlots
      · split
        · exact ((h.vread.fst ‹_›).vwrite.fst ‹_›).renameSlots
        · exact (h.vread.fst ‹_›).vwrite
    · exact (h.vread.fst ‹_›).renameSlots

theorem Kept.renameCellars {s : State} (h : Kept s0 s) {q old new a} : Kept s0 (s.renameCellars q old new a).1 := by
  cases a with
  | nil =>
    exact h
  | cons a l =>
    unfold State.renameCellars
    split
    · exact (h.renameSlots.fst ‹_›).renameCellars
    · exact h.renameSlots

theorem Kept.cancelFabric (h : Kept s0 s) {j} : Kept s0 (s.cancelFabric j) := by
  unfold State.cancelFabric
  dsimp only
  exact Kept.foldl h fun ht => (Kept.ite ht.cancelInst ht)

theorem Kept.reopen (h : Kept s0 s) {base x1 a} : Kept s0 (s.reopen base x1 a) := by
  unfold State.reopen
  exact h.refillFloors.upd

theorem Kept.writeBack (h : Kept s0 s) {q a} : Kept s0 (s.writeBack q a).1 := by
  unfold State.writeBack
  split
  · exact Kept.ite_fst (h.writeOutside.fst ‹_›) (h.writeOutside.fst ‹_›).renameCellars
  · exact h.writeOutside

theorem Kept.restoreFrom (h : Kept s0 s) {q base x2 a} : Kept s0 (s.restoreFrom q base x2 a) := by
  unfold State.restoreFrom
  dsimp only
  refine Kept.ite h.wokenInVain.complete ?_
  split
  · exact h.keepSent
  · have h1 := h.reopen.writeBack.fst ‹_›
    exact Kept.complete (Kept.ite h1 (Kept.foldl h1 fun ht => ht.cancelFabric.settle))
  · exact Kept.complete (Kept.restoreFails (h.reopen.writeBack.fst ‹_›))

theorem Kept.restoreImage (h : Kept s0 s) {q c attic} : Kept s0 (s.restoreImage q c attic) := by
  unfold State.restoreImage
  dsimp only
  refine Kept.ite h.complete ?_
  refine Kept.ite h.complete ?_
  refine Kept.ite h ?_
  refine Kept.ite h.complete ?_
  refine Kept.ite h.complete ?_
  refine Kept.ite h.complete ?_
  refine Kept.ite h.wokenInVain.complete ?_
  split
  · exact h.wokenInVain.complete
  · exact Kept.ite h.restoreFrom h.wokenInVain.complete

theorem Kept.execRestore (h : Kept s0 s) {q attic} : KeptNext s0 (execRestore q attic s) := by
  unfold Machine.execRestore
  refine Kept.powered h fun ht => ?_
  split
  · exact ht
  · exact ht.restoreImage.finishAllocs

end Sys2Proof.Machine
end


section
/-! What the events of the host, of power and of the links keep. -/

namespace Sys2Proof.Machine

-- These proofs are many and short: elaborated one after another they take less memory than side by side.
set_option Elab.async false

variable {s0 s t : State}

/-! ## Events of the host -/

theorem Kept.fromHost (h : Kept s0 s) {f} (hf : ∀ {t}, Kept s0 t → Kept s0 (f t)) : KeptNext s0 (s.fromHost f) := by
  unfold State.fromHost
  exact Kept.ite (hf h) h

theorem Kept.writeQprod (h : Kept s0 s) {q v} : Kept s0 (s.writeQprod q v) := by
  unfold State.writeQprod
  dsimp only
  exact Kept.ite h.setQueue.event h.setQueue

theorem Kept.writeQctl (h : Kept s0 s) {q v} : Kept s0 (s.writeQctl q v) := by
  unfold State.writeQctl
  exact Kept.setQueue (Kept.ite h h.dropOwner)

theorem Kept.writeCcons (h : Kept s0 s) {q v} : Kept s0 (s.writeCcons q v) := h.setQueue

theorem Kept.writeQbase (h : Kept s0 s) {q completions v} : Kept s0 (s.writeQbase q completions v) := by
  unfold State.writeQbase
  dsimp only
  exact Kept.ite h (Kept.ite h.setQueue h.setQueue)

theorem Kept.execQprod (h : Kept s0 s) {q value} : KeptNext s0 (execQprod q value s) := by
  unfold Machine.execQprod
  exact Kept.fromHost h fun ht => (Kept.ite ht.writeQprod ht)

theorem Kept.execQueueEnable (h : Kept s0 s) {q value} : KeptNext s0 (execQueueEnable q value s) := by
  unfold Machine.execQueueEnable
  exact Kept.fromHost h fun ht => (Kept.ite ht.writeQctl ht)

theorem Kept.execQerrClear (h : Kept s0 s) {q value} : KeptNext s0 (execQerrClear q value s) := by
  unfold Machine.execQerrClear
  exact Kept.fromHost h fun ht => (Kept.ite ht.writeQctl ht)

theorem Kept.execCcons (h : Kept s0 s) {q value} : KeptNext s0 (execCcons q value s) := by
  unfold Machine.execCcons
  exact Kept.fromHost h fun ht => (Kept.ite ht.writeCcons ht)

theorem Kept.onRing (h : Kept s0 s) {f} : Kept s0 (s.onRing f) := h

theorem Kept.freed (h : Kept s0 s) {j x} : Kept s0 (s.freed j x) := by
  unfold State.freed
  exact h.setJob.leaveCores.upd.rebuildFor

theorem Kept.drainRing (h : Kept s0 s) : Kept s0 (s.drainRing) := by
  unfold State.drainRing
  dsimp only
  exact Kept.foldl h.drainEvents fun ht => ht.freed

theorem Kept.writeEvctl (h : Kept s0 s) {v} : Kept s0 (s.writeEvctl v) := by
  unfold State.writeEvctl
  exact h.onRing.drainRing

theorem Kept.writeEvcons (h : Kept s0 s) {v} : Kept s0 (s.writeEvcons v) := by
  unfold State.writeEvcons
  exact h.onRing.drainRing

theorem Kept.execEventRingEnable (h : Kept s0 s) {value} : KeptNext s0 (execEventRingEnable value s) := by
  unfold Machine.execEventRingEnable
  exact Kept.fromHost h fun ht => ht.writeEvctl

theorem Kept.execEvcons (h : Kept s0 s) {value} : KeptNext s0 (execEvcons value s) := by
  unfold Machine.execEvcons
  exact Kept.fromHost h fun ht => ht.writeEvcons

theorem Kept.unmask (h : Kept s0 s) {v} : Kept s0 (s.unmask v) := by
  unfold State.unmask
  dsimp only
  exact Kept.ite h.upd h.upd

theorem Kept.mask (h : Kept s0 s) {v} : Kept s0 (s.mask v) := h

theorem Kept.writeMsix (h : Kept s0 s) {off v} : Kept s0 (s.writeMsix off v) := by
  unfold State.writeMsix
  dsimp only
  exact Kept.ite (Kept.ite h.upd.mask h.upd.unmask) h.upd

theorem Kept.execMsixVectorUnmask (h : Kept s0 s) {vector} : KeptNext s0 (execMsixVectorUnmask vector s) := by
  unfold Machine.execMsixVectorUnmask
  exact Kept.fromHost h fun ht => (Kept.ite ht.unmask ht)

theorem Kept.onHkc (h : Kept s0 s) {f} (hf : s.hkc.SameFuses (f s.hkc) := by exact ⟨rfl, rfl⟩) : Kept s0 (s.onHkc f) :=
  h.of_hkc rfl rfl hf

theorem Hkc.sameFuses_takeChunk (h : Hkc) (offset len : Nat) (done : Bool) : h.SameFuses (h.takeChunk offset len done) := by
  unfold Hkc.takeChunk
  split
  · exact ⟨rfl, rfl⟩
  · split
    · exact ⟨rfl, rfl⟩
    · dsimp only
      split <;> exact ⟨rfl, rfl⟩

theorem Hkc.sameFuses_writeMailbox (h : Hkc) (v : Nat) : h.SameFuses (h.writeMailbox v) := by
  unfold Hkc.writeMailbox
  split
  · dsimp only
    split
    · exact Hkc.sameFuses_takeChunk _ _ _ _
    · exact ⟨rfl, rfl⟩
  · exact ⟨rfl, rfl⟩

theorem Kept.execFwmboxChunk (h : Kept s0 s) {value} : KeptNext s0 (execFwmboxChunk value s) :=
  h.fromHost fun ht => ht.onHkc (Hkc.sameFuses_writeMailbox _ _)

theorem Kept.write8 (h : Kept s0 s) {off v} : Kept s0 (s.write8 off v) := by
  unfold State.write8
  dsimp only
  split
  · exact Kept.ite h.writeQbase (Kept.ite h.writeQbase h.writeQctl)
  · exact Kept.ite (Kept.ite h.upd h)
      (Kept.ite (h.onHkc (Hkc.sameFuses_writeMailbox _ _)) (Kept.ite h.onRing (Kept.ite h.writeEvctl h.upd)))

theorem Kept.write4 (h : Kept s0 s) {off v} : Kept s0 (s.write4 off v) := by
  unfold State.write4
  split
  · exact Kept.ite h.writeQprod (Kept.ite h.writeCcons h)
  · exact Kept.ite h.writeEvcons (Kept.ite h.onHkc (Kept.ite h.onHkc (Kept.ite h.onHkc (Kept.ite h.writeMsix h))))

theorem Kept.access (h : Kept s0 s) {off size v} : Kept s0 (s.access off size v) := by
  unfold State.access
  dsimp only
  exact Kept.ite (Kept.ite h.write8 h.write4.write4) (Kept.ite (Kept.ite (Kept.ite h.upd h.upd.write8) h.write4) h)

theorem Kept.execRegisterWrite (h : Kept s0 s) {offset size value} : KeptNext s0 (execRegisterWrite offset size value s) := by
  unfold Machine.execRegisterWrite
  exact Kept.fromHost h fun ht => ht.access

/-! ## Events of power and firmware -/

theorem Kept.cold (h : Kept s0 s) {x} : Kept s0 (s.cold x) := ⟨fun _ => rfl, h.hostMem, h.fuses, h.revoked⟩

theorem Kept.powerOff (h : Kept s0 s) {aux cause level} : Kept s0 (s.powerOff aux cause level) := h.cold

theorem Kept.execFundamentalReset (h : Kept s0 s) : KeptNext s0 (execFundamentalReset s) := by
  unfold Machine.execFundamentalReset
  exact Kept.ite h h.cold

theorem Kept.execAuxPowerLoss (h : Kept s0 s) : KeptNext s0 (execAuxPowerLoss s) := by
  unfold Machine.execAuxPowerLoss
  exact h.powerOff

theorem Kept.execMainUndervoltage (h : Kept s0 s) : KeptNext s0 (execMainUndervoltage s) := by
  unfold Machine.execMainUndervoltage
  exact Kept.powered h fun ht => ht.powerOff

theorem Kept.execAuxiliaryInputPresent (h : Kept s0 s) {fuseOk} : KeptNext s0 (execAuxiliaryInputPresent fuseOk s) := by
  unfold Machine.execAuxiliaryInputPresent
  dsimp only
  exact Kept.ite h h.onHkc

theorem Kept.execHkcFault (h : Kept s0 s) {watchdog} : KeptNext s0 (execHkcFault watchdog s) := by
  unfold Machine.execHkcFault
  exact Kept.powered h fun ht => ht.onHkc

theorem Kept.setLimits (h : Kept s0 s) {f} : Kept s0 (s.setLimits f) := by
  unfold State.setLimits
  exact Kept.foldl h fun ht => ht.onCore

theorem Kept.lowerLimits (h : Kept s0 s) : Kept s0 (s.lowerLimits) := by
  unfold State.lowerLimits
  dsimp only
  exact h.draw.setLimits

theorem Kept.execTemperatureThreshold (h : Kept s0 s) {sensor temp} : KeptNext s0 (execTemperatureThreshold sensor temp s) := by
  unfold Machine.execTemperatureThreshold
  dsimp only
  exact Kept.powered h fun ht => (Kept.ite ht (Kept.ite ht.onHkc.event.powerOff (Kept.ite ht.onHkc.event.lowerLimits ht.onHkc)))

theorem Kept.execPowerCapWindow (h : Kept s0 s) {avg peak} : KeptNext s0 (execPowerCapWindow avg peak s) := by
  unfold Machine.execPowerCapWindow
  dsimp only
  exact Kept.powered h fun ht => (Kept.ite ht.onHkc.lowerLimits ht.onHkc.draw.setLimits)

theorem Hkc.sameFuses_verify (h : Hkc) : h.SameFuses h.verify := by
  unfold Hkc.verify
  dsimp only
  split <;> exact ⟨rfl, rfl⟩

theorem Kept.execFwVerify (h : Kept s0 s) : KeptNext s0 (execFwVerify s) :=
  h.powered fun ht => Kept.ite (ht.onHkc (Hkc.sameFuses_verify _)) ht

theorem Kept.repairDie (h : Kept s0 s) {die} : Kept s0 (s.repairDie die) := by
  unfold State.repairDie
  dsimp only
  exact Kept.foldl h fun ht => (Kept.ite ht ht.onCore)

theorem Kept.execProofServiceEntry (h : Kept s0 s) {report} : KeptNext s0 (execProofServiceEntry report s) := by
  unfold Machine.execProofServiceEntry
  dsimp only
  exact Kept.powered h fun ht => (Kept.ite ht (Kept.ite ht.onHkc.repairDie ht.onHkc))

theorem Kept.passage (h : Kept s0 s) {r} : Kept s0 (s.passage r) := by
  unfold State.passage
  dsimp only
  refine Kept.ite h ?_
  refine Kept.ite ?_ (Kept.foldl (Kept.foldl h.onHkc fun ht => ht.repairDie) fun ht => ht.goOn)
  exact Kept.onHkc (Kept.foldl h fun ht => ht.haltJob)

theorem Kept.execFullServiceEntry (h : Kept s0 s) {report} : KeptNext s0 (execFullServiceEntry report s) := by
  unfold Machine.execFullServiceEntry
  exact Kept.powered h fun ht => ht.passage

theorem Kept.setPort (h : Kept s0 s) {n p} : Kept s0 (s.setPort n p) := h

theorem Kept.spdmTaken (h : Kept s0 s) {request} : Kept s0 (s.spdmTaken request) := by
  unfold State.spdmTaken
  dsimp only
  exact Kept.ite h.upd.onHkc h

theorem Kept.execSpdmRequest (h : Kept s0 s) {port mailbox request} : KeptNext s0 (execSpdmRequest port mailbox request s) := by
  unfold Machine.execSpdmRequest
  dsimp only
  refine Kept.powered h fun ht => ?_
  refine Kept.ite ?_ ht
  split
  · exact ht
  · exact Kept.ite ht.spdmTaken.setPort.runPosts ht.spdmTaken.setPort

theorem Kept.linkEvent (h : Kept s0 s) {link reason value} : Kept s0 (s.linkEvent link reason value) := h.event

theorem Kept.execIdeCheckFail (h : Kept s0 s) {port} : KeptNext s0 (execIdeCheckFail port s) := by
  unfold Machine.execIdeCheckFail
  dsimp only
  exact Kept.powered h fun ht => (Kept.ite ht.setPort.linkEvent ht)

theorem Kept.execCxlLinkState (h : Kept s0 s) {port offer} : KeptNext s0 (execCxlLinkState port offer s) := by
  unfold Machine.execCxlLinkState
  dsimp only
  exact Kept.powered h fun ht => (Kept.ite ht (Kept.ite (Kept.ite ht.setPort.linkEvent.runPosts
    (Kept.ite ht.setPort.linkEvent ht.setPort)) (Kept.ite ht.setPort.linkEvent ht)))

theorem Kept.retireColumn (h : Kept s0 s) {die p} : Kept s0 (s.retireColumn die p) := by
  unfold State.retireColumn
  dsimp only
  exact Kept.ite h (Kept.ite h.onHkc (Kept.ite h (Kept.repairDie (Kept.foldl h.onHkc fun ht => ht.setCore))))

theorem Kept.execCoreRetire (h : Kept s0 s) {die column} : KeptNext s0 (execCoreRetire die column s) := by
  unfold Machine.execCoreRetire
  exact Kept.powered h fun ht => ht.retireColumn

/-! ## Events of the links -/

theorem Kept.flitError (h : Kept s0 s) {link} : Kept s0 (s.flitError link) := by
  unfold State.flitError
  dsimp only
  exact Kept.ite h.draw.onLink.linkEvent h.draw.onLink

theorem Kept.takeToken (h : Kept s0 s) {link p} : Kept s0 (s.takeToken link p) := by
  unfold State.takeToken
  dsimp only
  refine Kept.ite ?_ (Kept.ite h h.enterFrom)
  split
  · exact h.unroutable
  · exact h.sendFlits

theorem Kept.recordIn (h : Kept s0 s) {link vc r} : Kept s0 (s.recordIn link vc r) := by
  unfold State.recordIn
  refine Kept.ite h.upd ?_
  split
  · exact h.unroutable
  · exact h.sendFlits

theorem Kept.deliverFlit (h : Kept s0 s) {link x} : Kept s0 (s.deliverFlit link x) := by
  unfold State.deliverFlit
  dsimp only
  refine Kept.ite ?_ ?_
  · split
    · exact h.flitError
    · exact Kept.onLink (Kept.foldl h.onLink fun ht => ht.takeToken)
  · refine Kept.ite h.flitError ?_
    split
    · exact h.flitError
    · exact Kept.onLink (Kept.foldl h.onLink fun ht => ht.recordIn)

theorem Kept.onFlit (h : Kept s0 s) {link ftype bs f} (hf : ∀ {t x}, Kept s0 t → Kept s0 (f t x)) :
    Kept s0 (s.onFlit link ftype bs f) := by
  unfold State.onFlit
  refine Kept.ite h ?_
  split
  · exact h.flitError
  · exact Kept.ite h (Kept.ite h (Kept.ite h.flitError (hf h)))

theorem Kept.dataFlit (h : Kept s0 s) {link bs} : Kept s0 (s.dataFlit link bs) := by
  unfold State.dataFlit
  dsimp only
  exact Kept.onFlit h fun ht => (Kept.ite ht.deliverFlit (Kept.ite ht ht.flitError))

theorem Kept.execDataFlit (h : Kept s0 s) {link flit} : KeptNext s0 (execDataFlit link flit s) := by
  unfold Machine.execDataFlit
  exact Kept.powered h fun ht => ht.dataFlit

theorem Kept.execIdleFlit (h : Kept s0 s) {link flit} : KeptNext s0 (execIdleFlit link flit s) := by
  unfold Machine.execIdleFlit
  exact Kept.powered h fun ht => (Kept.onFlit ht fun ht => ht.onLink)

theorem Kept.execRetryRequest (h : Kept s0 s) {link flit} : KeptNext s0 (execRetryRequest link flit s) := by
  unfold Machine.execRetryRequest
  dsimp only
  exact Kept.powered h fun ht => (Kept.onFlit ht fun ht => ht.onLink)

theorem Kept.markIn (h : Kept s0 s) {link x} : Kept s0 (s.markIn link x) := by
  unfold State.markIn
  dsimp only
  exact Kept.ite h h.draw.upd

theorem Kept.execTimeMark (h : Kept s0 s) {link flit} : KeptNext s0 (execTimeMark link flit s) := by
  unfold Machine.execTimeMark
  exact Kept.powered h fun ht => (Kept.onFlit ht fun ht => ht.onLink.markIn)

theorem Kept.execTimeMarkSend (h : Kept s0 s) : KeptNext s0 (execTimeMarkSend s) := by
  unfold Machine.execTimeMarkSend
  dsimp only
  exact Kept.powered h fun ht => (Kept.ite ht.upd ht)

theorem Kept.sendLaneMap (h : Kept s0 s) {link} : Kept s0 (s.sendLaneMap link) := by
  unfold State.sendLaneMap
  dsimp only
  exact h.draw.sendFlits

theorem Kept.laneFails (h : Kept s0 s) {link lane trained} : Kept s0 (s.laneFails link lane trained) := by
  unfold State.laneFails
  dsimp only
  exact Kept.ite h (Kept.ite h.onLink.linkEvent (Kept.ite h.onLink (Kept.ite h.onLink.linkEvent h.onLink.linkEvent.sendLaneMap)))

theorem Kept.execYilyelLaneFail (h : Kept s0 s) {link lane trained} : KeptNext s0 (execYilyelLaneFail link lane trained s) := by
  unfold Machine.execYilyelLaneFail
  exact Kept.powered h fun ht => ht.laneFails

theorem Kept.linkTrains (h : Kept s0 s) {link} : Kept s0 (s.linkTrains link) := by
  unfold State.linkTrains
  dsimp only
  exact Kept.ite h h.drawMany.onLink.linkEvent

theorem Kept.execLinkUp (h : Kept s0 s) {link} : KeptNext s0 (execLinkUp link s) := by
  unfold Machine.execLinkUp
  exact Kept.powered h fun ht => ht.linkTrains

theorem Kept.execLaneMap (h : Kept s0 s) {i} : KeptNext s0 (execLaneMap i s) := by
  unfold Machine.execLaneMap
  exact Kept.onRec h fun ht => ht.onLink

end Sys2Proof.Machine
end


section
/-! What an instruction, an event and a step keep; no byte out of canonical form, and no fuse cleared. -/

namespace Sys2Proof.Machine

-- These proofs are many and short: elaborated one after another they take less memory than side by side.
set_option Elab.async false

variable {s0 s t : State}

/-! ## The next input -/

theorem Kept.fetch (h : Kept s0 s) : (s.fetch).Keeps s0 := by
  unfold State.fetch
  dsimp only
  split
  · split
    · exact h.upd
    · exact trivial
    · split
      · exact h
      · exact trivial
  · split
    · exact h
    · exact h.upd.tick.hostWrites

/-! ## The step -/

theorem LaneFn.keeps_lane (F : State → Nat → Firing → Except Trap Firing) : LaneFn.Keeps (lane F) := by
  intro s0 s c l p h e
  unfold lane at e
  cases hF : F s c l with
  | error t => rw [hF] at e; cases e
  | ok x => rw [hF] at e; cases e; exact h

/-- RSPLIT alone changes the state in its lane: it reserves a request in the core's mailbox. -/
theorem LaneFn.keeps_splits (w : RWord) : LaneFn.Keeps (splits w) := by
  intro s0 s c l p h e
  unfold splits at e
  cases ha : l.read s c w.a with
  | error t => rw [ha] at e; cases e
  | ok q =>
    rw [ha] at e
    dsimp only [bind, Except.bind] at e
    split at e
    · cases e
    · split at e
      · split at e <;> cases e
        exact h
      · split at e <;> cases e
        exact h.onCore

/-- An instruction word runs a lane function that keeps it. -/
theorem exec_word_keeps {i : Instr} {op : Nat} {b : Body} (h : i.form = some (op, b)) :
    ∃ f : LaneFn, f.Keeps ∧ ∀ s, exec i s = word b f s := by
  cases i
  case rsplit w => cases h; exact ⟨_, LaneFn.keeps_splits w, fun _ => rfl⟩
  all_goals cases h <;> refine ⟨_, ?_, fun _ => rfl⟩ <;> exact LaneFn.keeps_lane _

theorem Kept.exec_event (h : Kept s0 s) {i : Instr} (hi : i.form = none) : KeptNext s0 (exec i s) := by
  cases i
  case fundamentalReset => exact h.execFundamentalReset
  case auxPowerLoss => exact h.execAuxPowerLoss
  case mainUndervoltage => exact h.execMainUndervoltage
  case hkcFault => exact h.execHkcFault
  case temperatureThreshold => exact h.execTemperatureThreshold
  case powerCapWindow => exact h.execPowerCapWindow
  case fwmboxChunk => exact h.execFwmboxChunk
  case fwVerify => exact h.execFwVerify
  case proofServiceEntry => exact h.execProofServiceEntry
  case fullServiceEntry => exact h.execFullServiceEntry
  case spdmRequest => exact h.execSpdmRequest
  case ideCheckFail => exact h.execIdeCheckFail
  case cxlLinkState => exact h.execCxlLinkState
  case yilyelLaneFail => exact h.execYilyelLaneFail
  case dataFlit => exact h.execDataFlit
  case idleFlit => exact h.execIdleFlit
  case retryRequest => exact h.execRetryRequest
  case timeMark => exact h.execTimeMark
  case timeMarkSend => exact h.execTimeMarkSend
  case tileTransfer => exact h.execTileTransfer
  case readRequest => exact h.execReadRequest
  case writeRequest => exact h.execWriteRequest
  case atomicRequest => exact h.execAtomicRequest
  case watchRequest => exact h.execWatchRequest
  case response => exact h.execResponse
  case selectionRecord => exact h.execSelectionRecord
  case endMark => exact h.execEndMark
  case slotReturn => exact h.execSlotReturn
  case counts => exact h.execCounts
  case row => exact h.execRow
  case rowAcknowledgement => exact h.execRowAcknowledgement
  case finalMark => exact h.execFinalMark
  case outputRowRead => exact h.execOutputRowRead
  case outputRowData => exact h.execOutputRowData
  case releaseMark => exact h.execReleaseMark
  case readyMark => exact h.execReadyMark
  case countTotals => exact h.execCountTotals
  case cancelMark => exact h.execCancelMark
  case curtain => exact h.execCurtain
  case laneMap => exact h.execLaneMap
  case hostResponse => exact h.execHostResponse
  case cxlMemRead => exact h.execCxlMemRead
  case cxlMemWrite => exact h.execCxlMemWrite
  case registerWrite => exact h.execRegisterWrite
  case qprod => exact h.execQprod
  case queueEnable => exact h.execQueueEnable
  case qerrClear => exact h.execQerrClear
  case ccons => exact h.execCcons
  case eventRingEnable => exact h.execEventRingEnable
  case evcons => exact h.execEvcons
  case msixVectorUnmask => exact h.execMsixVectorUnmask
  case commandAccept => exact h.execCommandAccept
  case jobOpen => exact h.execJobOpen
  case jobClose => exact h.execJobClose
  case jobCancel => exact h.execJobCancel
  case mapSet => exact h.execMapSet
  case wallSet => exact h.execWallSet
  case slotSet => exact h.execSlotSet
  case codeLoad => exact h.execCodeLoad
  case graphStart => exact h.execGraphStart
  case graphBatch => exact h.execGraphBatch
  case phaseOpen => exact h.execPhaseOpen
  case svarSet => exact h.execSvarSet
  case tickSet => exact h.execTickSet
  case floorAlloc => exact h.execFloorAlloc
  case floorFree => exact h.execFloorFree
  case faultResolve => exact h.execFaultResolve
  case cellarGrow => exact h.execCellarGrow
  case preempt => exact h.execPreempt
  case saveEnd => exact h.execSaveEnd
  case resume => exact h.execResume
  case ckpt => exact h.execCkpt
  case restore => exact h.execRestore
  case tokenArrival => exact h.execTokenArrival
  case matchToken => exact h.execMatchToken
  case firingIssue => exact h.execFiringIssue
  case issueRecoveryEnd => exact h.execIssueRecoveryEnd
  case rateWindow => exact h.execRateWindow
  case spill => exact h.execSpill
  case refill => exact h.execRefill
  case fallocRequest => exact h.execFallocRequest
  case remoteFfree => exact h.execRemoteFfree
  case stealRequestArrival => exact h.execStealRequestArrival
  case tileArrival => exact h.execTileArrival
  case tileFree => exact h.execTileFree
  case tileOpStart => exact h.execTileOpStart
  case tileOpDone => exact h.execTileOpDone
  case mmaStart => exact h.execMmaStart
  case mmaDone => exact h.execMmaDone
  case walkerElement => exact h.execWalkerElement
  case copyRequest => exact h.execCopyRequest
  case memoryPerform => exact h.execMemoryPerform
  case watchTimeout => exact h.execWatchTimeout
  case wcEntryWrite => exact h.execWcEntryWrite
  case pageWalk => exact h.execPageWalk
  case faultRecordWrite => exact h.execFaultRecordWrite
  case floorLit => exact h.execFloorLit
  case backgroundZero => exact h.execBackgroundZero
  case patrolScrub => exact h.execPatrolScrub
  case roomSafelight => exact h.execRoomSafelight
  case roomWake => exact h.execRoomWake
  case bankSafelight => exact h.execBankSafelight
  case bankWake => exact h.execBankWake
  case eccError => exact h.execEccError
  case coreRetire => exact h.execCoreRetire
  case instanceCancelMark => exact h.execInstanceCancelMark
  case instanceCompleteCheck => exact h.execInstanceCompleteCheck
  case primedTokensPlace => exact h.execPrimedTokensPlace
  case tickEdge => exact h.execTickEdge
  case quiescenceTimeout => exact h.execQuiescenceTimeout
  case auxiliaryInputPresent => exact h.execAuxiliaryInputPresent
  case linkUp => exact h.execLinkUp
  case tileLastByteLeft => exact h.execTileLastByteLeft
  all_goals cases hi

theorem Kept.exec (h : Kept s0 s) {i : Instr} : KeptNext s0 (exec i s) := by
  cases hi : i.form with
  | none => exact h.exec_event hi
  | some p =>
    obtain ⟨f, hf, he⟩ := exec_word_keeps hi
    rw [he]
    exact h.word hf

theorem Kept.step (h : Kept s0 s) : KeptNext s0 (step s) := by
  unfold Machine.step
  split
  · exact h.fetch.idle ‹_›
  · exact (h.fetch.run ‹_›).exec
  · exact trivial
  · exact trivial

/-! ## The obligations -/

theorem Kept.refl (s : State) : Kept s s := ⟨And.left, And.right, fun _ h => h, rfl⟩

/-- What every step keeps. -/
theorem kept_step {s t : State} (h : step s = .next t) : Kept s t := (Kept.refl s).step.next h

/-- Settles O56: every writer of a memory stores bytes, forgets a span or copies cells, each of which keeps the canonical form. -/
theorem memoryKept : Obligations.MemoryKept := by
  unfold Obligations.MemoryKept
  intro s t hs h
  exact ⟨(kept_step h).mem hs, (kept_step h).hostMem hs⟩

/-- Settles O57: only a commit under way writes the fuses, and it adds bits; a reset and a loss of power carry them over. -/
theorem fusesNeverFall : Obligations.FusesNeverFall := by
  unfold Obligations.FusesNeverFall
  intro s t h
  exact ⟨(kept_step h).fuses, (kept_step h).revoked⟩

end Sys2Proof.Machine
end
